-- ==== Sys2Proof/Word.lean ====
section
/-! DEFINITION. The plain word types of the machine: 32-bit registers (R13), 64-bit values held in register pairs (R14),
bytes of memory (R7), and operand codes (R30). -/

namespace Sys2Proof

/-- A 32-bit register value (R13). -/
abbrev Word := BitVec 32

/-- A 64-bit value, held in a register pair (R14) or in an 8-byte location. -/
abbrev Word64 := BitVec 64

/-- One byte of memory. -/
abbrev Byte := BitVec 8

/-- An 8-bit operand code (R30). -/
abbrev Code := BitVec 8

/-- A predicate number (R13, R33). -/
abbrev PredNo := BitVec 3

end Sys2Proof
end

