-- ==== Sys2Proof/Syntax.lean ====
section
/-! DEFINITION. The syntax of the machine: one constructor of Instr per row of spec/opcode_table.json. The first 270 rows are the
encoded instructions; their arguments are the fields of the encoding (R29 to R42). The other rows are steps of the hardware and of
the outside world that have no encoding; their arguments name the die, core, queue or other subject of the step, and carry what the
specification leaves to a choice or takes from outside (log 2, log 15). -/

namespace Sys2Proof

/-- What stands at a Die Mix Table index (R1, R393). -/
inductive DieKind where
  | absent | geometry | shading | basin
  deriving DecidableEq, Repr

/-- Where one wave is placed at its admission (R127, R129): core key, slot, first lane. -/
structure WavePlace where
  core : Nat
  slot : Nat
  base : Nat
  deriving DecidableEq, Repr

/-- Where one team is placed (R129, R134): its waves in WID order, and the base of its Tarn share on each of its cores. -/
structure TeamPlace where
  waves : List WavePlace
  tarn : List Nat
  deriving DecidableEq, Repr

/-- Storage that carries ECC, named for ECC_SCRUB and ECC_ERROR (R141, R209, R247, R350). -/
inductive EccSite where
  | register (wave pos code : Nat)
  | slotState (wave : Nat)
  | tarnWord (core off : Nat)
  | accElement (core tile row col : Nat)
  | codeSlot (core slot : Nat)
  | barrier (team : Nat)
  | fifoEntry (cl fifo idx : Nat)
  | channel (cl ch : Nat)
  | reservoir (cl : Nat)
  | l2Line (die pa : Nat)
  | llcLine (pa : Nat)
  | directory (pas : List Nat)
  | watchEntry (e : Nat)
  | rayQuery (q : Nat)
  | builderState (die : Nat)
  deriving DecidableEq, Repr

/-- One block of the hierarchy that a builder job writes or keeps (R288, R289, R293, log 14). `off` is the pool offset in bytes.
For a leaf, `kids` lists positions of the input records; for a node it holds four entries, 0 for an empty slot and otherwise
1 + the index of the child block in the plan. The first block of a plan is the root. -/
structure PlanBlock where
  off : Nat
  leaf : Bool
  kids : List Nat
  axes : Nat
  deriving DecidableEq, Repr

/-- What the power sample of R398 makes the MC do in this sample. -/
inductive PowerChange where
  | none
  | rate (die cl value : Nat)
  | bytes (die cl value : Nat)
  | mhz (value : Nat)
  deriving DecidableEq, Repr

/-- One sensor sample (R400): raw code and value of sensor `idx` of `region`; `kind` 0 and 1 temperature, 2 current. Values are in
hundredths of a degree, or of a percent of the rail's rating. -/
structure SensorReading where
  region : Nat
  idx : Nat
  raw : Nat
  value : Int
  deriving DecidableEq, Repr

/-- A packet of the link (R424); the layout of its 16-byte header is not given, so it is held by content (log 18). A write names the bytes of its
16-byte units that are written: the place of the first one and their number. An exchange of a block is the model's own kind (R70, log 18). -/
inductive Packet where
  | write (dev pa first count : Nat) (data : List Byte)
  | readReq (dev src tag pa len : Nat)
  | readResp (dev tag : Nat) (data : List Byte)
  | atomic (dev src tag pa op : Nat) (wide : Bool) (b c : Word64)
  | swap (dev src tag pa : Nat) (old new : List Byte)
  deriving DecidableEq, Repr

/-- What a packet's header says (R424): its kind, 0 to 4 in the order of Packet, and its fields. -/
structure PacketHead where
  kind : Nat := 0
  dev : Nat := 0
  src : Nat := 0
  tag : Nat := 0
  pa : Nat := 0
  first : Nat := 0
  count : Nat := 0
  len : Nat := 0
  op : Nat := 0
  wide : Bool := false
  deriving DecidableEq, Repr, Inhabited

/-- The instructions and steps of the part, one constructor per row of the opcode table. -/
inductive Instr where
  /-- IADD (R82): Writes A + B, wrapping, to D and pushes the latch. -/
  | iadd (d : BitVec 8) (a : BitVec 8) (b : BitVec 8)
  /-- ISUB (R82): Writes A − B, wrapping, to D. -/
  | isub (d : BitVec 8) (a : BitVec 8) (b : BitVec 8)
  /-- IMUL (R82): Writes the low 32 bits of A × B to D. -/
  | imul (d : BitVec 8) (a : BitVec 8) (b : BitVec 8)
  /-- IMULH (R82): Writes the high word of the signed product A × B. -/
  | imulh (d : BitVec 8) (a : BitVec 8) (b : BitVec 8)
  /-- IMULHU (R82): Writes the high word of the unsigned product A × B. -/
  | imulhu (d : BitVec 8) (a : BitVec 8) (b : BitVec 8)
  /-- IMAD (R82): Writes the low 32 bits of A × B plus D, or plus C when a prefix carries C. -/
  | imad (d : BitVec 8) (a : BitVec 8) (b : BitVec 8)
  /-- IMIN (R82): Writes the smaller of A and B as INT32. -/
  | imin (d : BitVec 8) (a : BitVec 8) (b : BitVec 8)
  /-- IMAX (R82): Writes the larger of A and B as INT32. -/
  | imax (d : BitVec 8) (a : BitVec 8) (b : BitVec 8)
  /-- IMINU (R82): Writes the smaller of A and B as UINT32. -/
  | iminu (d : BitVec 8) (a : BitVec 8) (b : BitVec 8)
  /-- IMAXU (R82): Writes the larger of A and B as UINT32. -/
  | imaxu (d : BitVec 8) (a : BitVec 8) (b : BitVec 8)
  /-- AND (R82): Writes A AND B. -/
  | and (d : BitVec 8) (a : BitVec 8) (b : BitVec 8)
  /-- OR (R82): Writes A OR B. -/
  | or (d : BitVec 8) (a : BitVec 8) (b : BitVec 8)
  /-- XOR (R82): Writes A XOR B. -/
  | xor (d : BitVec 8) (a : BitVec 8) (b : BitVec 8)
  /-- ANDN (R82): Writes A AND NOT B. -/
  | andn (d : BitVec 8) (a : BitVec 8) (b : BitVec 8)
  /-- SHL (R82): Shifts A left by B[4:0], filling with zeros. -/
  | shl (d : BitVec 8) (a : BitVec 8) (b : BitVec 8)
  /-- SHRL (R82): Shifts A right by B[4:0], filling with zeros. -/
  | shrl (d : BitVec 8) (a : BitVec 8) (b : BitVec 8)
  /-- SHRA (R82): Shifts A right by B[4:0], filling with copies of the sign bit. -/
  | shra (d : BitVec 8) (a : BitVec 8) (b : BitVec 8)
  /-- ROTL (R82): Rotates A left by B[4:0]. -/
  | rotl (d : BitVec 8) (a : BitVec 8) (b : BitVec 8)
  /-- BFX (R83): Extracts a bit field of A, with optional sign extension, under the selector in B. -/
  | bfx (d : BitVec 8) (a : BitVec 8) (b : BitVec 8)
  /-- BFI (R83): Deposits the low bits of A at position POS of an otherwise zero word. -/
  | bfi (d : BitVec 8) (a : BitVec 8) (b : BitVec 8)
  /-- IADD64 (R82): Adds two register pairs modulo 2^64. -/
  | iadd64 (d : BitVec 8) (a : BitVec 8) (b : BitVec 8)
  /-- ISUB64 (R82): Subtracts two register pairs modulo 2^64. -/
  | isub64 (d : BitVec 8) (a : BitVec 8) (b : BitVec 8)
  /-- IMULW (R82): Writes the full signed 64-bit product of A and B to a pair. -/
  | imulw (d : BitVec 8) (a : BitVec 8) (b : BitVec 8)
  /-- IMULWU (R82): Writes the full unsigned 64-bit product of A and B to a pair. -/
  | imulwu (d : BitVec 8) (a : BitVec 8) (b : BitVec 8)
  /-- ICMP_EQ (R84): Sets a predicate when A equals B. -/
  | icmpEq (m : BitVec 3) (a : BitVec 8) (b : BitVec 8)
  /-- ICMP_NE (R84): Sets a predicate when A differs from B. -/
  | icmpNe (m : BitVec 3) (a : BitVec 8) (b : BitVec 8)
  /-- ICMP_LT (R84): Sets a predicate when A is below B as INT32. -/
  | icmpLt (m : BitVec 3) (a : BitVec 8) (b : BitVec 8)
  /-- ICMP_LE (R84): Sets a predicate when A is at most B as INT32. -/
  | icmpLe (m : BitVec 3) (a : BitVec 8) (b : BitVec 8)
  /-- ICMP_LTU (R84): Sets a predicate when A is below B as UINT32. -/
  | icmpLtu (m : BitVec 3) (a : BitVec 8) (b : BitVec 8)
  /-- ICMP_LEU (R84): Sets a predicate when A is at most B as UINT32. -/
  | icmpLeu (m : BitVec 3) (a : BitVec 8) (b : BitVec 8)
  /-- SEL (R85): Writes A where the select predicate is true, and B otherwise. -/
  | sel (d : BitVec 8) (a : BitVec 8) (b : BitVec 8)
  /-- IADDSAT (R82): Writes A + B as INT32, saturated. -/
  | iaddsat (d : BitVec 8) (a : BitVec 8) (b : BitVec 8)
  /-- FADD (R88): Writes the FP32 sum of A and B, rounded once. -/
  | fadd (d : BitVec 8) (a : BitVec 8) (b : BitVec 8)
  /-- FSUB (R88): Writes the FP32 difference A − B, rounded once. -/
  | fsub (d : BitVec 8) (a : BitVec 8) (b : BitVec 8)
  /-- FMUL (R88): Writes the FP32 product of A and B, rounded once. -/
  | fmul (d : BitVec 8) (a : BitVec 8) (b : BitVec 8)
  /-- FFMA (R88): Writes A × B plus the addend, fused and rounded once. -/
  | ffma (d : BitVec 8) (a : BitVec 8) (b : BitVec 8)
  /-- FMIN (R89): Writes the smaller FP32 operand, ordering −0 below +0. -/
  | fmin (d : BitVec 8) (a : BitVec 8) (b : BitVec 8)
  /-- FMAX (R89): Writes the larger FP32 operand, ordering −0 below +0. -/
  | fmax (d : BitVec 8) (a : BitVec 8) (b : BitVec 8)
  /-- FCMP_EQ (R90): Sets a predicate when neither operand is NaN and A equals B. -/
  | fcmpEq (m : BitVec 3) (a : BitVec 8) (b : BitVec 8)
  /-- FCMP_LT (R90): Sets a predicate when neither operand is NaN and A is below B. -/
  | fcmpLt (m : BitVec 3) (a : BitVec 8) (b : BitVec 8)
  /-- FCMP_LE (R90): Sets a predicate when neither operand is NaN and A is at most B. -/
  | fcmpLe (m : BitVec 3) (a : BitVec 8) (b : BitVec 8)
  /-- FCMP_UN (R90): Sets a predicate when A or B is NaN. -/
  | fcmpUn (m : BitVec 3) (a : BitVec 8) (b : BitVec 8)
  /-- FCOPYSIGN (R91): Writes A with the sign bit of B, as a bit operation. -/
  | fcopysign (d : BitVec 8) (a : BitVec 8) (b : BitVec 8)
  /-- FSCALE (R91): Writes A × 2^B, rounded once. -/
  | fscale (d : BitVec 8) (a : BitVec 8) (b : BitVec 8)
  /-- FDOT2_BF16 (R92): Writes the exact sum of two BF16 products and an FP32 addend, rounded once. -/
  | fdot2Bf16 (d : BitVec 8) (a : BitVec 8) (b : BitVec 8)
  /-- FDOT4_E4M3 (R92): Writes the exact sum of four E4M3 products and an FP32 addend, rounded once. -/
  | fdot4E4m3 (d : BitVec 8) (a : BitVec 8) (b : BitVec 8)
  /-- FDOT4_E5M2 (R92): Writes the exact sum of four E5M2 products and an FP32 addend, rounded once. -/
  | fdot4E5m2 (d : BitVec 8) (a : BitVec 8) (b : BitVec 8)
  /-- HADD2_BF16 (R93): Adds two packed BF16 pairs element by element. -/
  | hadd2Bf16 (d : BitVec 8) (a : BitVec 8) (b : BitVec 8)
  /-- HMUL2_BF16 (R93): Multiplies two packed BF16 pairs element by element. -/
  | hmul2Bf16 (d : BitVec 8) (a : BitVec 8) (b : BitVec 8)
  /-- HFMA2_BF16 (R93): Performs a fused multiply-add on packed BF16 pairs. -/
  | hfma2Bf16 (d : BitVec 8) (a : BitVec 8) (b : BitVec 8)
  /-- HMIN2_BF16 (R93): Writes the element-wise minimum of packed BF16 pairs. -/
  | hmin2Bf16 (d : BitVec 8) (a : BitVec 8) (b : BitVec 8)
  /-- HMAX2_BF16 (R93): Writes the element-wise maximum of packed BF16 pairs. -/
  | hmax2Bf16 (d : BitVec 8) (a : BitVec 8) (b : BitVec 8)
  /-- HADD2_F16 (R93): Adds two packed FP16 pairs element by element. -/
  | hadd2F16 (d : BitVec 8) (a : BitVec 8) (b : BitVec 8)
  /-- HMUL2_F16 (R93): Multiplies two packed FP16 pairs element by element. -/
  | hmul2F16 (d : BitVec 8) (a : BitVec 8) (b : BitVec 8)
  /-- HFMA2_F16 (R93): Performs a fused multiply-add on packed FP16 pairs. -/
  | hfma2F16 (d : BitVec 8) (a : BitVec 8) (b : BitVec 8)
  /-- HMIN2_F16 (R93): Writes the element-wise minimum of packed FP16 pairs. -/
  | hmin2F16 (d : BitVec 8) (a : BitVec 8) (b : BitVec 8)
  /-- HMAX2_F16 (R93): Writes the element-wise maximum of packed FP16 pairs. -/
  | hmax2F16 (d : BitVec 8) (a : BitVec 8) (b : BitVec 8)
  /-- PACK2_BF16 (R94): Narrows two FP32 values to packed BF16, saturating. -/
  | pack2Bf16 (d : BitVec 8) (a : BitVec 8) (b : BitVec 8)
  /-- PACK2_F16 (R94): Narrows two FP32 values to packed FP16, saturating. -/
  | pack2F16 (d : BitVec 8) (a : BitVec 8) (b : BitVec 8)
  /-- PACK4_E4M3 (R94): Narrows four BF16 values to packed E4M3, saturating. -/
  | pack4E4m3 (d : BitVec 8) (a : BitVec 8) (b : BitVec 8)
  /-- PACK4_E5M2 (R94): Narrows four BF16 values to packed E5M2, saturating. -/
  | pack4E5m2 (d : BitVec 8) (a : BitVec 8) (b : BitVec 8)
  /-- BMIX (R95): Forms D from the bytes of A and B under the byte selector in C. -/
  | bmix (d : BitVec 8) (a : BitVec 8) (b : BitVec 8)
  /-- IADDI (R86): Adds the sign-extended imm16 to D. -/
  | iaddi (d : BitVec 8) (i : BitVec 16)
  /-- ANDI (R86): ANDs D with the zero-extended imm16. -/
  | andi (d : BitVec 8) (i : BitVec 16)
  /-- ORI (R86): ORs D with the zero-extended imm16. -/
  | ori (d : BitVec 8) (i : BitVec 16)
  /-- XORI (R86): XORs D with the zero-extended imm16. -/
  | xori (d : BitVec 8) (i : BitVec 16)
  /-- MOVI (R86): Writes the sign-extended imm16 to D. -/
  | movi (d : BitVec 8) (i : BitVec 16)
  /-- MOVHI (R86): Replaces D[31:16] with imm16. -/
  | movhi (d : BitVec 8) (i : BitVec 16)
  /-- SHLI (R86): Shifts D left by imm16[4:0]. -/
  | shli (d : BitVec 8) (i : BitVec 5)
  /-- SHRLI (R86): Shifts D right logically by imm16[4:0]. -/
  | shrli (d : BitVec 8) (i : BitVec 5)
  /-- SHRAI (R86): Shifts D right arithmetically by imm16[4:0]. -/
  | shrai (d : BitVec 8) (i : BitVec 5)
  /-- ICMPI_EQ (R87): Sets a predicate when the source equals the sign-extended imm13. -/
  | icmpiEq (s : BitVec 8) (m : BitVec 3) (i : BitVec 13)
  /-- ICMPI_LT (R87): Sets a predicate when the source is below the sign-extended imm13. -/
  | icmpiLt (s : BitVec 8) (m : BitVec 3) (i : BitVec 13)
  /-- FMOVI (R86): Writes the BF16 imm16, widened exactly to FP32. -/
  | fmovi (d : BitVec 8) (i : BitVec 16)
  /-- LX_PICK (R144): Gives each member the A value of position B mod W. -/
  | lxPick (d : BitVec 8) (a : BitVec 8) (b : BitVec 8)
  /-- LX_MIRROR (R144): Gives each member the A value of position p XOR (B mod W). -/
  | lxMirror (d : BitVec 8) (a : BitVec 8) (b : BitVec 8)
  /-- LX_ROT (R144): Gives each member the A value of position (p + B) mod W. -/
  | lxRot (d : BitVec 8) (a : BitVec 8) (b : BitVec 8)
  /-- LX_SLIDE (R144): Gives each member the A value of position p + B, without wrap. -/
  | lxSlide (d : BitVec 8) (a : BitVec 8) (b : BitVec 8)
  /-- LD_B (R106): Loads a byte, zero-extended. -/
  | ldB (d : BitVec 8) (a : BitVec 8) (o : BitVec 8)
  /-- LD_BS (R106): Loads a byte, sign-extended. -/
  | ldBs (d : BitVec 8) (a : BitVec 8) (o : BitVec 8)
  /-- LD_H (R106): Loads a halfword, or one typed element as BF16. -/
  | ldH (d : BitVec 8) (a : BitVec 8) (o : BitVec 8)
  /-- LD_HS (R106): Loads a halfword, sign-extended. -/
  | ldHs (d : BitVec 8) (a : BitVec 8) (o : BitVec 8)
  /-- LD_W (R106): Loads a word, or one typed element as FP32. -/
  | ldW (d : BitVec 8) (a : BitVec 8) (o : BitVec 8)
  /-- LD_D (R106): Loads 8 bytes, or two typed elements, into a pair. -/
  | ldD (d : BitVec 8) (a : BitVec 8) (o : BitVec 8)
  /-- LD_Q (R106): Loads 16 bytes, or four typed elements, into a group of four. -/
  | ldQ (d : BitVec 8) (a : BitVec 8) (o : BitVec 8)
  /-- ST_B (R106): Stores the low byte of D. -/
  | stB (d : BitVec 8) (a : BitVec 8) (o : BitVec 8)
  /-- ST_H (R106): Stores a halfword, or encodes one typed element from BF16. -/
  | stH (d : BitVec 8) (a : BitVec 8) (o : BitVec 8)
  /-- ST_W (R106): Stores a word, or encodes one typed element from FP32. -/
  | stW (d : BitVec 8) (a : BitVec 8) (o : BitVec 8)
  /-- ST_D (R106): Stores a pair, or encodes two typed elements. -/
  | stD (d : BitVec 8) (a : BitVec 8) (o : BitVec 8)
  /-- ST_Q (R106): Stores a group of four, or encodes four typed elements. -/
  | stQ (d : BitVec 8) (a : BitVec 8) (o : BitVec 8)
  /-- LDC (R109): Reads a raw word from the kernel's constant window. -/
  | ldc (d : BitVec 8) (a : BitVec 8) (o : BitVec 8)
  /-- LDRAW_W (R110): Loads 4 raw frame bytes, ignoring the page format. -/
  | ldrawW (d : BitVec 8) (a : BitVec 8) (o : BitVec 8)
  /-- STRAW_W (R110): Stores 4 raw frame bytes, ignoring the page format. -/
  | strawW (d : BitVec 8) (a : BitVec 8) (o : BitVec 8)
  /-- ATOM_ADD (R112): Atomically adds B to memory and returns the old value. -/
  | atomAdd (d : BitVec 8) (a : BitVec 8) (b : BitVec 8)
  /-- ATOM_SMIN (R112): Atomic signed minimum. -/
  | atomSmin (d : BitVec 8) (a : BitVec 8) (b : BitVec 8)
  /-- ATOM_SMAX (R112): Atomic signed maximum. -/
  | atomSmax (d : BitVec 8) (a : BitVec 8) (b : BitVec 8)
  /-- ATOM_UMIN (R112): Atomic unsigned minimum. -/
  | atomUmin (d : BitVec 8) (a : BitVec 8) (b : BitVec 8)
  /-- ATOM_UMAX (R112): Atomic unsigned maximum. -/
  | atomUmax (d : BitVec 8) (a : BitVec 8) (b : BitVec 8)
  /-- ATOM_AND (R112): Atomic AND. -/
  | atomAnd (d : BitVec 8) (a : BitVec 8) (b : BitVec 8)
  /-- ATOM_OR (R112): Atomic OR. -/
  | atomOr (d : BitVec 8) (a : BitVec 8) (b : BitVec 8)
  /-- ATOM_XOR (R112): Atomic XOR. -/
  | atomXor (d : BitVec 8) (a : BitVec 8) (b : BitVec 8)
  /-- ATOM_XCHG (R112): Atomically exchanges memory with B. -/
  | atomXchg (d : BitVec 8) (a : BitVec 8) (b : BitVec 8)
  /-- ATOM_CAS (R112): Atomically stores B when memory equals the compare value C. -/
  | atomCas (d : BitVec 8) (a : BitVec 8) (b : BitVec 8)
  /-- ATOM_FADD (R112): Atomically adds B as FP32, rounding RNE. -/
  | atomFadd (d : BitVec 8) (a : BitVec 8) (b : BitVec 8)
  /-- ATOMAGG_ADD (R115): Atomically adds, combining the members' adds by address into one store per group. -/
  | atomaggAdd (d : BitVec 8) (a : BitVec 8) (b : BitVec 8)
  /-- LDT (R147): Loads a Tarn word, decoded through its format window. -/
  | ldt (d : BitVec 8) (a : BitVec 8) (o : BitVec 8)
  /-- STT (R147): Stores a Tarn word, or a window control word. -/
  | stt (d : BitVec 8) (a : BitVec 8) (o : BitVec 8)
  /-- TATOM_ADD (R148): Atomically adds B to a Tarn word. -/
  | tatomAdd (d : BitVec 8) (a : BitVec 8) (b : BitVec 8)
  /-- TATOM_CAS (R148): Compares and swaps a Tarn word. -/
  | tatomCas (d : BitVec 8) (a : BitVec 8) (b : BitVec 8)
  /-- BRA (R119): Branches to PC-relative off20 when the predicate test holds. -/
  | bra (p : BitVec 3) (n : BitVec 1) (o : BitVec 20)
  /-- CALL (R119): Writes the return address to O7 and branches when taken. -/
  | call (p : BitVec 3) (n : BitVec 1) (o : BitVec 20)
  /-- BRI (R122): Branches through a target table and gives a join mark. -/
  | bri (a : BitVec 8) (t : BitVec 4)
  /-- CALLI (R122): Calls through a target table, writing O7 and giving a join mark. -/
  | calli (a : BitVec 8) (t : BitVec 4)
  /-- RET (R119): Returns to O7 when taken. -/
  | ret (p : BitVec 3) (n : BitVec 1)
  /-- EXIT (R121): Ends the members that take it. -/
  | exit (p : BitVec 3) (n : BitVec 1)
  /-- TRAP (R120): Raises TRAPI with imm8 in each member that takes it. -/
  | trap (p : BitVec 3) (n : BitVec 1) (i : BitVec 8)
  /-- MMA (R165): Adds the A fragment times the Tarn B operand into the octets' accumulator tiles, for 6 or 4 shots. -/
  | mma (t : BitVec 7) (r : BitVec 1) (a : BitVec 8) (b : BitVec 8)
  /-- MVS (R169): Adds a BF16 vector times streamed weights into row 0 of each octet's tile, for 3 shots. -/
  | mvs (t : BitVec 7) (a : BitVec 8) (b : BitVec 8)
  /-- MZERO (R170): Sets each participating octet's tile to +0. -/
  | mzero (t : BitVec 7)
  /-- MCFG (R161): Writes MTYPE, which selects the matrix type and sparsity. -/
  | mcfg (a : BitVec 8)
  /-- MDRAIN (R172): Starts a drain of the octets' tiles through bias, activation and requantisation. -/
  | mdrain (t : BitVec 7) (a : BitVec 8)
  /-- MTBL (R171): Loads an activation table from the Tarn. -/
  | mtbl (t : BitVec 2) (a : BitVec 8)
  /-- MSTAT (R176): Returns the matrix and drain status of the thread and its octet. -/
  | mstat (d : BitVec 8)
  /-- CVT_F32_I32 (R96): Converts INT32 to FP32. -/
  | cvtF32I32 (d : BitVec 8) (a : BitVec 8)
  /-- CVT_F32_U32 (R96): Converts UINT32 to FP32. -/
  | cvtF32U32 (d : BitVec 8) (a : BitVec 8)
  /-- CVT_I32_F32 (R96): Converts FP32 to INT32, saturating. -/
  | cvtI32F32 (d : BitVec 8) (a : BitVec 8)
  /-- CVT_U32_F32 (R96): Converts FP32 to UINT32, saturating. -/
  | cvtU32F32 (d : BitVec 8) (a : BitVec 8)
  /-- CVT_F32_BF16 (R96): Widens the low BF16 half of A to FP32. -/
  | cvtF32Bf16 (d : BitVec 8) (a : BitVec 8)
  /-- CVT_F32_BF16H (R96): Widens the high BF16 half of A to FP32. -/
  | cvtF32Bf16h (d : BitVec 8) (a : BitVec 8)
  /-- CVT_F32_F16 (R96): Widens the low FP16 half of A to FP32. -/
  | cvtF32F16 (d : BitVec 8) (a : BitVec 8)
  /-- CVT_F32_F16H (R96): Widens the high FP16 half of A to FP32. -/
  | cvtF32F16h (d : BitVec 8) (a : BitVec 8)
  /-- CVT_BF16_F32 (R96): Narrows FP32 to BF16, saturating. -/
  | cvtBf16F32 (d : BitVec 8) (a : BitVec 8)
  /-- CVT_F16_F32 (R96): Narrows FP32 to FP16, saturating. -/
  | cvtF16F32 (d : BitVec 8) (a : BitVec 8)
  /-- CVT_E4M3_F32 (R96): Narrows FP32 to E4M3, saturating. -/
  | cvtE4m3F32 (d : BitVec 8) (a : BitVec 8)
  /-- CVT_E5M2_F32 (R96): Narrows FP32 to E5M2, saturating. -/
  | cvtE5m2F32 (d : BitVec 8) (a : BitVec 8)
  /-- CVT_F32_E4M3_BK (R96): Widens byte k of A from E4M3 to FP32. -/
  | cvtF32E4m3Bk (d : BitVec 8) (a : BitVec 8) (k : BitVec 2)
  /-- CVT_F32_E5M2_BK (R96): Widens byte k of A from E5M2 to FP32. -/
  | cvtF32E5m2Bk (d : BitVec 8) (a : BitVec 8) (k : BitVec 2)
  /-- FRND (R97): Rounds FP32 A to an integral value under RM. -/
  | frnd (d : BitVec 8) (a : BitVec 8)
  /-- FCLASS (R97): Writes a one-hot class mask of FP32 A. -/
  | fclass (d : BitVec 8) (a : BitVec 8)
  /-- FABS (R98): Clears bit 31 of A. -/
  | fabs (d : BitVec 8) (a : BitVec 8)
  /-- FNEG (R98): Inverts bit 31 of A. -/
  | fneg (d : BitVec 8) (a : BitVec 8)
  /-- INEG (R98): Writes 0 − A, wrapping. -/
  | ineg (d : BitVec 8) (a : BitVec 8)
  /-- IABS (R98): Writes |A| as INT32, wrapping. -/
  | iabs (d : BitVec 8) (a : BitVec 8)
  /-- NOT (R98): Writes NOT A. -/
  | not (d : BitVec 8) (a : BitVec 8)
  /-- POPC (R98): Writes the number of set bits of A. -/
  | popc (d : BitVec 8) (a : BitVec 8)
  /-- CLZ (R98): Writes the number of leading zero bits of A. -/
  | clz (d : BitVec 8) (a : BitVec 8)
  /-- BREV (R98): Reverses the bit order of A. -/
  | brev (d : BitVec 8) (a : BitVec 8)
  /-- MOV (R98): Copies A to D. -/
  | mov (d : BitVec 8) (a : BitVec 8)
  /-- RCP (R99): Writes 1/x, correctly rounded. -/
  | rcp (d : BitVec 8) (a : BitVec 8)
  /-- RSQ (R99): Writes 1/√x within 1 ulp. -/
  | rsq (d : BitVec 8) (a : BitVec 8)
  /-- SQRT (R99): Writes √x, correctly rounded. -/
  | sqrt (d : BitVec 8) (a : BitVec 8)
  /-- EXP2 (R99): Writes 2^x within 2 ulp. -/
  | exp2 (d : BitVec 8) (a : BitVec 8)
  /-- LOG2 (R99): Writes log2 x within its bound. -/
  | log2 (d : BitVec 8) (a : BitVec 8)
  /-- SIN (R99): Writes sin x within 2^−21. -/
  | sin (d : BitVec 8) (a : BitVec 8)
  /-- COS (R99): Writes cos x within 2^−21. -/
  | cos (d : BitVec 8) (a : BitVec 8)
  /-- TANH (R99): Writes tanh x within 2^−22. -/
  | tanh (d : BitVec 8) (a : BitVec 8)
  /-- SIGM (R99): Writes the logistic sigmoid of x within 2^−22. -/
  | sigm (d : BitVec 8) (a : BitVec 8)
  /-- VOTE_ANY (R145): Sets a predicate in every contributor when any contributor's predicate is true. -/
  | voteAny (d : BitVec 3) (a : BitVec 3)
  /-- VOTE_ALL (R145): Sets a predicate in every contributor when all contributors' predicates are true. -/
  | voteAll (d : BitVec 3) (a : BitVec 3)
  /-- BALLOT (R145): Writes a 64-bit mask of the contributors' predicates to a pair. -/
  | ballot (d : BitVec 8) (a : BitVec 3)
  /-- REDUCE_IADD (R146): Reduces the wave by a fixed tree of integer adds. -/
  | reduceIadd (d : BitVec 8) (a : BitVec 8)
  /-- REDUCE_FADD (R146): Reduces the wave by a fixed tree of FP32 adds. -/
  | reduceFadd (d : BitVec 8) (a : BitVec 8)
  /-- REDUCE_FMIN (R146): Reduces the wave by FMIN. -/
  | reduceFmin (d : BitVec 8) (a : BitVec 8)
  /-- REDUCE_FMAX (R146): Reduces the wave by FMAX. -/
  | reduceFmax (d : BitVec 8) (a : BitVec 8)
  /-- REDUCE_UMIN (R146): Reduces the wave by unsigned minimum. -/
  | reduceUmin (d : BitVec 8) (a : BitVec 8)
  /-- REDUCE_UMAX (R146): Reduces the wave by unsigned maximum. -/
  | reduceUmax (d : BitVec 8) (a : BitVec 8)
  /-- REDUCE_AND (R146): Reduces the wave by AND. -/
  | reduceAnd (d : BitVec 8) (a : BitVec 8)
  /-- REDUCE_OR (R146): Reduces the wave by OR. -/
  | reduceOr (d : BitVec 8) (a : BitVec 8)
  /-- REDUCE_XOR (R146): Reduces the wave by XOR. -/
  | reduceXor (d : BitVec 8) (a : BitVec 8)
  /-- SCAN_IADD (R146): Writes each contributor's inclusive integer scan value. -/
  | scanIadd (d : BitVec 8) (a : BitVec 8)
  /-- SCAN_FADD (R146): Writes each contributor's inclusive FP32 scan value. -/
  | scanFadd (d : BitVec 8) (a : BitVec 8)
  /-- BCAST (R146): Gives every contributor the A value of the lowest contributor. -/
  | bcast (d : BitVec 8) (a : BitVec 8)
  /-- MAND (R124): Writes Ms AND Mt to a predicate. -/
  | mand (d : BitVec 3) (s : BitVec 3) (t : BitVec 3)
  /-- MOR (R124): Writes Ms OR Mt to a predicate. -/
  | mor (d : BitVec 3) (s : BitVec 3) (t : BitVec 3)
  /-- MXOR (R124): Writes Ms XOR Mt to a predicate. -/
  | mxor (d : BitVec 3) (s : BitVec 3) (t : BitVec 3)
  /-- MNOT (R124): Writes NOT Ms to a predicate. -/
  | mnot (d : BitVec 3) (s : BitVec 3)
  /-- MMOV (R124): Copies Ms to a predicate. -/
  | mmov (d : BitVec 3) (s : BitVec 3)
  /-- MFROMV (R124): Sets a predicate when a 32-bit source is not 0. -/
  | mfromv (d : BitVec 3) (a : BitVec 8)
  /-- MTOV (R124): Writes 1 or 0 from a predicate to a register. -/
  | mtov (d : BitVec 8) (a : BitVec 3)
  /-- SRD (R125): Reads a special register into D. -/
  | srd (d : BitVec 8) (n : BitVec 8)
  /-- SWR (R126): Writes a special register of the issuing thread or wave. -/
  | swr (n : BitVec 7) (a : BitVec 8)
  /-- SWR_OTHER (R126): Writes TVEC or LFSR of the wave in the slot named by W15; privileged. -/
  | swrOther (n : BitVec 7) (a : BitVec 8)
  /-- C16_MOV (R32): 16-bit form of MOV from the S5 source into DS6. -/
  | c16Mov (d : BitVec 6) (s : BitVec 5)
  /-- C16_IADD (R32): 16-bit two-address form of IADD. -/
  | c16Iadd (d : BitVec 6) (s : BitVec 5)
  /-- C16_ISUB (R32): 16-bit two-address form of ISUB. -/
  | c16Isub (d : BitVec 6) (s : BitVec 5)
  /-- C16_IMUL (R32): 16-bit two-address form of IMUL. -/
  | c16Imul (d : BitVec 6) (s : BitVec 5)
  /-- C16_AND (R32): 16-bit two-address form of AND. -/
  | c16And (d : BitVec 6) (s : BitVec 5)
  /-- C16_OR (R32): 16-bit two-address form of OR. -/
  | c16Or (d : BitVec 6) (s : BitVec 5)
  /-- C16_XOR (R32): 16-bit two-address form of XOR. -/
  | c16Xor (d : BitVec 6) (s : BitVec 5)
  /-- C16_SHL (R32): 16-bit two-address form of SHL. -/
  | c16Shl (d : BitVec 6) (s : BitVec 5)
  /-- C16_SHRL (R32): 16-bit two-address form of SHRL. -/
  | c16Shrl (d : BitVec 6) (s : BitVec 5)
  /-- C16_SHRA (R32): 16-bit two-address form of SHRA. -/
  | c16Shra (d : BitVec 6) (s : BitVec 5)
  /-- C16_FADD (R32): 16-bit two-address form of FADD. -/
  | c16Fadd (d : BitVec 6) (s : BitVec 5)
  /-- C16_FSUB (R32): 16-bit two-address form of FSUB. -/
  | c16Fsub (d : BitVec 6) (s : BitVec 5)
  /-- C16_FMUL (R32): 16-bit two-address form of FMUL. -/
  | c16Fmul (d : BitVec 6) (s : BitVec 5)
  /-- C16_FMAX (R32): 16-bit two-address form of FMAX. -/
  | c16Fmax (d : BitVec 6) (s : BitVec 5)
  /-- C16_FMIN (R32): 16-bit two-address form of FMIN. -/
  | c16Fmin (d : BitVec 6) (s : BitVec 5)
  /-- NOP (R32): Does nothing, pushing and invalidating no latch. -/
  | nop
  /-- C16_YIELD (R157): 16-bit form of YIELD. -/
  | c16Yield
  /-- TCOPY_IN (R150): Starts a copy from memory into the Tarn under a copy tag. -/
  | tcopyIn (t : BitVec 6) (a : BitVec 8)
  /-- TCOPY_OUT (R150): Starts a copy from the Tarn to memory under a copy tag. -/
  | tcopyOut (t : BitVec 6) (a : BitVec 8)
  /-- WAITANY (R152): Waits the wave until any masked tag is DONE, as an acquire. -/
  | waitany (a : BitVec 8)
  /-- WAITALL (R152): Waits the wave until all masked tags are DONE, as an acquire. -/
  | waitall (a : BitVec 8)
  /-- TFFR (R153): Returns the lowest DONE tag, or 64. -/
  | tffr (d : BitVec 8)
  /-- TCLR (R153): Moves the masked DONE tags to IDLE. -/
  | tclr (a : BitVec 8)
  /-- PARK (R154): Arms the wave to park after a qualifying wait lasts longer than a threshold. -/
  | park (a : BitVec 8)
  /-- YIELD (R157): Takes the wave out of the issue window. -/
  | yield
  /-- OVL_LOAD (R159): Starts loading an overlay of the wave's object into an overlay slot. -/
  | ovlLoad (n : BitVec 4) (s : BitVec 1)
  /-- OVL_LOAD_TAB (R159): Writes an entry of the die's copy of the overlay table; privileged. -/
  | ovlLoadTab (n : BitVec 4) (a : BitVec 8)
  /-- OVL_WAIT (R160): Waits until no load into the slot is pending. -/
  | ovlWait (s : BitVec 1)
  /-- VF_PUSH (R213): Appends a wave-wide entry to a vertical FIFO. -/
  | vfPush (f : BitVec 1) (a : BitVec 8)
  /-- VF_POP (R213): Removes the oldest entry of a vertical FIFO. -/
  | vfPop (d : BitVec 8) (f : BitVec 1)
  /-- VF_FREE (R214): Returns the free entries of a vertical FIFO. -/
  | vfFree (d : BitVec 8) (f : BitVec 1)
  /-- BAR_INIT (R216): Initialises a named barrier with an expected count. -/
  | barInit (n : BitVec 4) (a : BitVec 8)
  /-- BAR_ARRIVE (R216): Makes one arrival at a named barrier. -/
  | barArrive (n : BitVec 4)
  /-- BAR_WAIT (R216): Waits until the barrier's phase completes. -/
  | barWait (n : BitVec 4)
  /-- BAR_SYNC (R216): Arrives at a barrier and waits, as one unit. -/
  | barSync (n : BitVec 4)
  /-- BAR_EXPECT (R216): Adds expected arrivals to the barrier's current phase. -/
  | barExpect (n : BitVec 4) (a : BitVec 8)
  /-- XCOPY (R219): Starts a single transfer on a copy channel. -/
  | xcopy (c : BitVec 2) (a : BitVec 8)
  /-- XCHAIN (R220): Starts a chain of transfer records on a copy channel. -/
  | xchain (c : BitVec 2) (a : BitVec 8)
  /-- XSTAT (R222): Returns the status of a copy channel. -/
  | xstat (d : BitVec 8) (c : BitVec 2)
  /-- GATE_REQ (R223): Requests that a pair's upper core be gated. -/
  | gateReq (p : BitVec 2)
  /-- GATE_WAKE (R223): Wakes a pair's upper core. -/
  | gateWake (p : BitVec 2)
  /-- GATE_STAT (R225): Returns the state of a pair's gate. -/
  | gateStat (d : BitVec 8) (p : BitVec 2)
  /-- NTHINT (R226): Gives a near-threshold mode hint to the wave's islands. -/
  | nthint (h : BitVec 2)
  /-- SPAWN (R315): Enqueues a copy of a task record on a device-fed queue. -/
  | spawn (a : BitVec 8)
  /-- GANG (R315): Enqueues a copy of a gang launch block. -/
  | gang (a : BitVec 8)
  /-- DONE (R319): Ends every wave of the launch and starts its completion. -/
  | done
  /-- JOIN (R318): Decrements a join counter atomically at SYS scope. -/
  | join (a : BitVec 8)
  /-- TSB_SET (R316): Arms or disarms the wave's tile override. -/
  | tsbSet (a : BitVec 8)
  /-- TSB_RET (R317): Retires the launch's tile after a SYS release. -/
  | tsbRet
  /-- PMASK (R320): Raises the wave's pre-emption mask count. -/
  | pmask
  /-- PUNMASK (R320): Lowers the mask count, performing a pending discard when the last region ends. -/
  | punmask
  /-- STRM_PUT (R321): Appends one entry per member to a stream. -/
  | strmPut (s : BitVec 8) (a : BitVec 8)
  /-- STRM_GET (R321): Removes one entry per member from a stream. -/
  | strmGet (d : BitVec 8) (s : BitVec 8)
  /-- STRM_EOS (R321): Sends the launch's end-of-stream. -/
  | strmEos (s : BitVec 8)
  /-- TL_SIG (R322): Signals a timeline with a 64-bit value. -/
  | tlSig (k : BitVec 8) (a : BitVec 8)
  /-- TL_WAIT (R322): Waits until a timeline reaches a value, as an acquire. -/
  | tlWait (k : BitVec 8) (a : BitVec 8)
  /-- TL_READ (R322): Reads a timeline's value into a pair. -/
  | tlRead (d : BitVec 8) (k : BitVec 8)
  /-- PREF (R323): Prefetches a range into the L2 and signals a timeline. -/
  | pref (k : BitVec 8) (a : BitVec 8)
  /-- SWIN (R324): Replaces the die's weight-stream window. -/
  | swin (a : BitVec 8)
  /-- RFT (R325): Returns each member in its handler to its TPC. -/
  | rft
  /-- CCLR (R326): Clears bits of the wave's CAUSE. -/
  | cclr (a : BitVec 8)
  /-- FREPLY (R327): Answers an outstanding translation fault with RETRY, RAISE or KILL; privileged. -/
  | freply (c : BitVec 2) (a : BitVec 8)
  /-- WATCH_ARM (R364): Arms a watch entry from a descriptor in every replica. -/
  | watchArm (d : BitVec 8) (a : BitVec 8)
  /-- WATCH_OFF (R370): Disarms and frees a watch entry. -/
  | watchOff (a : BitVec 8)
  /-- WATCH_STAT (R371): Returns the status of a watch entry. -/
  | watchStat (d : BitVec 8) (a : BitVec 8)
  /-- XSEM_SIG (R361): Adds to a cross-die semaphore, saturating, as a SYS release. -/
  | xsemSig (d : BitVec 8) (a : BitVec 8)
  /-- XSEM_WAIT (R362): Waits until a cross-die semaphore is at least n, as a SYS acquire. -/
  | xsemWait (d : BitVec 8) (a : BitVec 8)
  /-- CMP_CLEAR (R391): Fast-clears the codec tiles of a range to mode 1. -/
  | cmpClear (a : BitVec 8)
  /-- CMP_DECOMP (R391): Rewrites the codec tiles of a range uncompressed, in mode 0. -/
  | cmpDecomp (a : BitVec 8)
  /-- CMP_STAT (R392): Returns the codec status of the tile holding an address. -/
  | cmpStat (d : BitVec 8) (a : BitVec 8)
  /-- FENCE (R116): Orders the thread's accesses under its memory prefix's scope and order. -/
  | fence
  /-- RAY_GO (R328): Starts a ray query per member on its pinned generation, for 2 shots. -/
  | rayGo (d : BitVec 8) (a : BitVec 8)
  /-- RAY_GET (R329): Waits for every member's query and returns its hit record. -/
  | rayGet (d : BitVec 8) (a : BitVec 8)
  /-- RAY_POLL (R329): Sets a predicate when the member's query is ready or ended. -/
  | rayPoll (m : BitVec 3) (a : BitVec 8)
  /-- GEN_PIN (R330): Pins the structure's current generation and writes it to D and GENS. -/
  | genPin (d : BitVec 8) (a : BitVec 8)
  /-- GEN_UNPIN (R330): Releases one pin of a generation. -/
  | genUnpin (d : BitVec 8) (a : BitVec 8)
  /-- BLD_BUILD (R331): Queues a builder job that builds a new hierarchy. -/
  | bldBuild (a : BitVec 8)
  /-- BLD_BUILD_NFT (R332): Queues a job that writes the context's node-format table; privileged. -/
  | bldBuildNft (a : BitVec 8)
  /-- BLD_REFIT (R331): Queues a builder job that refits the current hierarchy. -/
  | bldRefit (a : BitVec 8)
  /-- BLD_REBAL (R331): Queues a builder job that restructures the current hierarchy. -/
  | bldRebal (a : BitVec 8)
  /-- BLD_STAT (R333): Returns a structure's status word. -/
  | bldStat (d : BitVec 8) (a : BitVec 8)
  /-- BLD_QUAL (R333): Returns a structure's four quality words. -/
  | bldQual (d : BitVec 8) (a : BitVec 8)
  /-- MV_EMIT (R387): Emits a visibility packet from a meshlet record on a geometry die. -/
  | mvEmit (a : BitVec 8)
  /-- MV_END (R387): Passes over every owned sequence number not yet accepted. -/
  | mvEnd
  /-- ATL_REQ (R388): Requests shading of an atlas block and returns its prior state. -/
  | atlReq (d : BitVec 8) (a : BitVec 8)
  /-- ATL_SMP (R389): Samples the atlas bilinearly, waiting until the tap blocks are shaded. -/
  | atlSmp (d : BitVec 8) (a : BitVec 8)
  /-- ATL_DONE (R388): Releases a shaded block and marks it shaded. -/
  | atlDone (a : BitVec 8)
  /-- RGN_WAIT (R390): Waits until a screen region is final and acquires its buffer. -/
  | rgnWait (a : BitVec 8)
  /-- NOTED_CAUSE_DELIVERY (R433): A noted cause is raised at the thread's next issue in place of its instruction. -/
  | notedCauseDelivery
  /-- WINDOW_ENTER (R131): A ready resident wave enters the issue window, displacing an eligible wave if the window is full. -/
  | windowEnter (wave : Nat)
  /-- SHOT_RESERVATION (R201): A wave denied on shots for 256 clk places the core's shot reservation. -/
  | shotReservation (wave : Nat)
  /-- SHOT_RING_VISIT (R200): The ring visits one core and delivers shots to its pocket. -/
  | shotRingVisit (cl : Nat)
  /-- SHOT_RESERVOIR_FILL (R200): The reservoir gains RATE ÷ 100 shots per reference period. -/
  | shotReservoirFill (cl : Nat)
  /-- ISLAND_ENTER_NEAR (R203): An idle, memory-bound island enters NEAR mode after 16,384 clk. -/
  | islandEnterNear (cl : Nat) (q : Nat)
  /-- ISLAND_SWITCH_NOMINAL (R203): An island's 450-clk switch to NOMINAL completes and the waiting matrix unit may issue. -/
  | islandSwitchNominal (cl : Nat) (q : Nat)
  /-- PARK_WRITE_OUT (R155): An armed wave whose qualifying wait outlasts its threshold writes its continuation and frees its slot. -/
  | parkWriteOut (wave : Nat)
  /-- CONTINUATION_RESUME (R156): A ready continuation is admitted to a core and resumes. -/
  | continuationResume (parked : Nat) (place : WavePlace)
  /-- TEAM_ADMIT (R129): A team is admitted all or nothing, with its ENTRY overlay loaded. -/
  | teamAdmit (launch : Nat) (places : List TeamPlace)
  /-- TCOPY_COMPLETE (R138): A TCOPY's units have all moved and its tag becomes DONE. -/
  | tcopyComplete (core : Nat) (tag : Nat)
  /-- OVL_LOAD_COMPLETE (R159): An overlay copy completes and the slot becomes RESIDENT. -/
  | ovlLoadComplete (core : Nat) (slot : Nat)
  /-- DRAIN_COLUMN_READY (R175): A drain column becomes readable 12 + c clk after MDRAIN. -/
  | drainColumnReady (core : Nat) (octet : Nat)
  /-- ECC_SCRUB (R141): A periodic scrub corrects single-bit errors in core, cluster and L2 storage. -/
  | eccScrub (site : EccSite)
  /-- COPY_RECORD_START (R198): A channel reads and checks its next record and moves its units. -/
  | copyRecordStart (cl : Nat) (ch : Nat)
  /-- COPY_RECORD_COMPLETE (R199): A record's units are done; OWN is cleared, the timeline signalled and the barrier arrived at. -/
  | copyRecordComplete (cl : Nat) (ch : Nat)
  /-- GATE_DRAIN_DONE (R205): The DRAIN conditions hold; power is removed and HOLD begins. -/
  | gateDrainDone (cl : Nat) (pair : Nat)
  /-- GATE_HOLD_END (R205): HOLD ends after 4 µs, to WAKEQ with a pending wake or else GATED. -/
  | gateHoldEnd (cl : Nat) (pair : Nat)
  /-- GATE_RAMP_START (R207): A core first in the wake order takes a free in-rush slot and enters RAMP. -/
  | gateRampStart (cl : Nat) (pair : Nat)
  /-- GATE_RAMP_DONE (R208): RAMP completes after 2.5 µs and the upper core is ON with its reset state. -/
  | gateRampDone (cl : Nat) (pair : Nat)
  /-- GATE_RAMP_FAIL (R210): A RAMP that misses ON within 9 µs marks the core FAILED. -/
  | gateRampFail (cl : Nat) (pair : Nat)
  /-- GATE_MC_WAKE (R224): The MC sends a wake request to a pair's gate. -/
  | gateMcWake (cl : Nat) (pair : Nat)
  /-- XINV_PAGE (R240): A store to XINV with MODE 0 queues invalidation of the page holding XINVA. -/
  | xinvPage (die : Nat) (asid : Nat)
  /-- XINV_ASID (R240): A store to XINV with MODE 1 queues invalidation of every entry of an ASID. -/
  | xinvAsid (die : Nat) (asid : Nat)
  /-- XINV_ALL (R240): A store to XINV with MODE 2 queues invalidation of every entry. -/
  | xinvAll (die : Nat)
  /-- XINV_COMPLETE (R240): An invalidation completes and XINVST.DONE increments. -/
  | xinvComplete (die : Nat)
  /-- FQCFG_WRITE (R242): A store to FQCFG configures the fault queue, clearing EN for an illegal length. -/
  | fqcfgWrite (die : Nat) (v : BitVec 64)
  /-- FAULT_RECORD_WRITE (R242): A waiting fault record is written once the ring allows, and the timeline signalled. -/
  | faultRecordWrite (die : Nat)
  /-- PREF_COMPLETE (R248): Every line of a PREF range is in or skipped and its timeline is signalled. -/
  | prefComplete (die : Nat) (idx : Nat)
  /-- TIMELINE_VALUE_STORE (R254): A control-block store to a timeline VALUE applies a signal. -/
  | timelineValueStore (die : Nat) (k : Nat) (v : BitVec 64)
  /-- STORE_REACH_HOME (R352): A store reaches its home and takes its place in the coherence order. -/
  | storeReachHome (die : Nat) (idx : Nat)
  /-- VIEW_UPDATE (R352): A store that reached its home enters a die's view. -/
  | viewUpdate (die : Nat) (pa : Nat)
  /-- QTBASE_WRITE (R257): A store to QTBASE makes QP read every descriptor of the new table. -/
  | qtbaseWrite (die : Nat) (v : BitVec 64)
  /-- COREEN_WRITE (R284): A store to COREEN enables or withdraws cores from admission. -/
  | coreenWrite (die : Nat) (hi : Bool) (v : BitVec 64)
  /-- PREEMPT_WRITE (R278): A store with GO requests discard of every running non-ISO launch of a queue. -/
  | preemptWrite (die : Nat) (v : BitVec 64)
  /-- PREEMPT_SELECT (R278): Offered work that has waited 50 µs makes QP select lower-level idempotent launches for discard. -/
  | preemptSelect (die : Nat) (launch : Nat)
  /-- PMASK_TIMEOUT (R280): A request pending past PMASKMAX notes TIMEOUT in the masked waves. -/
  | pmaskTimeout (launch : Nat)
  /-- QUEUE_ENABLE (R257): A queue descriptor's EN changes from 0 to 1 and QP takes it up. -/
  | queueEnable (die : Nat) (q : Nat)
  /-- QUEUE_TAIL_STORE (R259): A host producer stores TAIL and QP may take the new records. -/
  | queueTailStore (die : Nat) (q : Nat) (v : BitVec 64)
  /-- RECORD_TAKE (R261): QP takes a record from a mapped slot and checks it. -/
  | recordTake (die : Nat) (q : Nat)
  /-- REMAP_TICK (R263): Every 20 µs QP maps the highest-ranked unpinned queues to slots. -/
  | remapTick (die : Nat)
  /-- QUEUE_AGING (R262): A queue unmapped with work for 10 ms rises one level. -/
  | queueAging (die : Nat) (q : Nat)
  /-- LAUNCH_COMPLETE (R269): Every wave of a launch has ended; its accesses are performed and released at SYS. -/
  | launchComplete (launch : Nat)
  /-- COMPLETION_WRITE (R270): The completion entry is written once the ring has room, then join, tile and timeline follow. -/
  | completionWrite (launch : Nat)
  /-- STREAM_ENABLE (R274): A store that sets a stream's EN reads the entry and empties the stream. -/
  | streamEnable (die : Nat) (s : Nat)
  /-- SPRING_RETRY (R283): A held spring, or held atlas record, is retried for enqueue at each tick. -/
  | springRetry (idx : Nat)
  /-- DONE_TAKE_EFFECT (R319): Within 64 clk of DONE, the launch stops issuing and its queries are cancelled. -/
  | doneTakeEffect (launch : Nat)
  /-- BUILDER_JOB_START (R292): The builder starts the next queued job, reclaiming freed space. -/
  | builderJobStart (die : Nat)
  /-- BUILDER_PUBLISH (R294): A job ending with code 0 publishes a new generation. -/
  | builderPublish (die : Nat) (plan : List PlanBlock)
  /-- BUILDER_JOB_FAIL (R295): A job ends with a non-zero code, publishes nothing and notes its cause. -/
  | builderJobFail (die : Nat) (code : Nat)
  /-- RAY_QUERY_COMPLETE (R311): A walk ends, the ray state is written back and the hit becomes ready. -/
  | rayQueryComplete (query : Nat)
  /-- RAY_QUERY_FAULT (R312): A walk read fails and ends the query without write-back. -/
  | rayQueryFault (query : Nat)
  /-- SEMAPHORE_STORE (R351): A control-block store sets a cross-die semaphore exactly. -/
  | semaphoreStore (k : Nat) (v : BitVec 64)
  /-- WATCH_HOLDOFF_END (R366): The WINDOW hold-off ends and a held spring is enqueued. -/
  | watchHoldoffEnd (e : Nat)
  /-- WATCH_INTERVAL_END (R369): An entry's 100 µs trigger interval ends and its count restarts. -/
  | watchIntervalEnd (e : Nat)
  /-- MEMORY_PATROL_SCRUB (R350): Device memory is patrol-scrubbed, marking uncorrectable lines poisoned. -/
  | memoryPatrolScrub (lines : List Nat)
  /-- FRAME_START (R372): A store to GFXFRAME with GO reads and checks a frame descriptor. -/
  | frameStart (die : Nat) (v : BitVec 64)
  /-- PACKET_FORWARD (R377): An accepted packet at the cursor is forwarded to the crossbar. -/
  | packetForward (die : Nat)
  /-- WATERMARK_UPDATE (R377): A geometry die's watermark change reaches a shading die. -/
  | watermarkUpdate (src : Nat) (dst : Nat)
  /-- PACKET_CONSUME (R379): A region consumes its next packet into the visibility buffer. -/
  | packetConsume (die : Nat) (region : Nat)
  /-- ATLAS_REQUEST_WALK (R382): After all regions are consumed, the sequencer requests every block tapped by the buffer. -/
  | atlasRequestWalk (die : Nat)
  /-- MODULE_BOOT (R394): Power-up or module reset boots the module and sets READY. -/
  | moduleBoot (mix : List DieKind) (firmwareOk : Bool) (ratesAndBytes : List (Nat × Nat))
  /-- FREQ_SWITCH (R395): Every clock region switches to the target frequency at count N. -/
  | freqSwitch
  /-- POWER_SAMPLE (R398): The MC samples input power and lowers or restores rates, budgets and frequency. -/
  | powerSample (meanWatts : Nat) (change : PowerChange)
  /-- THERMAL_CUT (R399): A junction passes 125 °C and the comparator cuts power to every die. -/
  | thermalCut (die : Nat)
  /-- SENSOR_SAMPLE (R400): The MC samples the sensors, marking failed ones and capping the frequency. -/
  | sensorSample (readings : List SensorReading)
  /-- REASON_CLEAR (R393): A write-1-to-clear store clears held REASON bits. -/
  | reasonClear (v : BitVec 64)
  /-- SNAP_ARM (R393): A store of ARM = 1 to SNAPCTL accepts triggers and clears HELD. -/
  | snapArm (v : BitVec 64)
  /-- SNAP_FIRE (R405): A store of FIRE fires the MC snapshot trigger. -/
  | snapFire (v : BitVec 64)
  /-- SNAP_PIN (R405): An assertion of the SNAP pin fires a snapshot trigger. -/
  | snapPin
  /-- SNAP_LATCH (R405): Every block latches its snapshot registers 256 clk after an accepted trigger. -/
  | snapLatch
  /-- MB_LOG (R402): Mailbox command 1 returns log entries from a sequence. -/
  | mbLog
  /-- MB_STAGE (R402): Mailbox command 2 writes buffer bytes into the inactive firmware bank. -/
  | mbStage
  /-- MB_ACTIVATE (R403): Mailbox command 3 verifies the inactive bank for the next reset. -/
  | mbActivate
  /-- MB_ATTEST (R404): Mailbox command 4 returns a signed attestation report. -/
  | mbAttest
  /-- MB_SNAPREAD (R406): Mailbox command 5 returns 4 KiB of the held snapshot image. -/
  | mbSnapread
  /-- MB_CERT (R402): Mailbox command 6 returns the device identity certificate. -/
  | mbCert
  /-- FLIT_RECEIVE (R425): A port receives a flit, delivering its packets or discarding it and sending NAK. -/
  | flitReceive (port : Nat) (bytes : List (BitVec 8))
  /-- PORT_RETRAIN (R425): After 16 failed replays a port retrains, narrowing or failing. -/
  | portRetrain (port : Nat)
  /-- REMOTE_ACCESS_TIMEOUT (R430): A remote or host-window access undelivered within LTO is abandoned and LOST increments. -/
  | remoteAccessTimeout (idx : Nat)
  /-- HOST_WRITE (R429): A host write through a BAR is applied at its home. -/
  | hostWrite (bar : Nat) (off : Nat) (data : List (BitVec 8))
  /-- HOST_READ (R429): A host read through a BAR returns after earlier host writes are applied. -/
  | hostRead (bar : Nat) (off : Nat) (len : Nat)
  /-- REGISTER_WRITE (R239): A store to a control register with no behaviour of its own sets its value. -/
  | registerWrite (pa : Nat) (v : BitVec 64)
  /-- ILLEGAL_ENCODING (R44): A unit whose encoding no rule assigns (unassigned MAJ or FN, prefix KIND 2 or 3, reserved bits set) raises ILL at its address. -/
  | illegalEncoding
  /-- PORT_TRAIN (R425): An enabled Linwen Link port trains with its peer from DOWN and comes UP at some width, or becomes FAILED after three attempts. -/
  | portTrain (port : Nat) (width : Nat) (peer : Nat)
  /-- QUEUE_DISABLE (R257): A queue descriptor's CFG.EN is cleared, so QP stops taking its records and a pinned queue gives up its slot. -/
  | queueDisable (die : Nat) (q : Nat)
  /-- BYTE_BUDGET_INTERVAL (R397): A 1 µs byte-budget interval ends, each cluster's share is granted afresh and requests that found the share spent proceed. -/
  | byteBudgetInterval (cl : Nat)
  /-- ECC_ERROR (R141): A bit error strikes ECC-protected storage, to be corrected or to become an uncorrectable error in registers, slot state, barrier state, a channel, the reservoir or a line. -/
  | eccError (site : EccSite) (double : Bool)
  /-- SUPPLY_LOSS (R393): The module's supply is removed, all state is lost, and the held REASON bits are lost too when the always-on supply goes. -/
  | supplyLoss (alwaysOn : Bool)
  /-- MC_NOMINAL_DEMAND (R203): The MC demands that an island leave NEAR mode and return to NOMINAL. -/
  | mcNominalDemand (cl : Nat) (q : Nat)
  /-- PCIE_COMPLETION (R429): A PCIe completion for a device host-window read or AtomicOp arrives at the bridging device and delivers its data to the waiting access. -/
  | pcieCompletion (idx : Nat) (data : List (BitVec 8))
  deriving DecidableEq, Repr

end Sys2Proof
end

