-- ==== Sys2Proof/Machine/Roles.lean ====
section
/-! DEFINITION. What each encoded instruction's fields hold (R14, R30, R31, R33, R40 to R42), and which prefixes each accepts (R34 to R38). -/

namespace Sys2Proof

/-- An operand field, by what it holds. -/
inductive Operand where
  /-- a 32-bit source (s) -/
  | s (c : Code)
  /-- a 64-bit source (s2) -/
  | s2 (c : Code)
  /-- the destination of a latch-pushing instruction, which may be NWB (d) -/
  | d (c : Code)
  /-- the pair destination of a latch-pushing instruction, which may be NWB (d2, R17) -/
  | d2 (c : Code)
  /-- D of an instruction that adds to D unless C is present (R40, R81) -/
  | acc (c : Code)
  /-- D of an instruction that reads D (R81) -/
  | rw (c : Code)
  /-- a destination that must be V, O or W (R107, R143) -/
  | r (c : Code)
  /-- a pair destination that must be V, O or W (R107, R143) -/
  | r2 (c : Code)
  /-- the destination of an atomic: V, O, W or NWB, a pair under WIDE (R111) -/
  | old (c : Code)
  /-- an atomic's B or C: a pair under WIDE (R111, R113) -/
  | sw (c : Code)
  /-- 4 or 8 consecutive V registers that are read (g4, g8), or 4 that are written (g4 in D) -/
  | g4 (c : Code)
  | g8 (c : Code)
  | g4d (c : Code)
  /-- MDRAIN's W code, naming W[k] with k at most 13 (R172) -/
  | wcmd (c : Code)
  /-- MMA's A, the first V register of a fragment (R163) -/
  | frag (c : Code)
  /-- D of SRD with the special-register number (R20, R125) -/
  | special (c : Code) (n : BitVec 8)
  /-- the number and A of SWR (R20, R126), and of SWR with OTHER = 1 (R41) -/
  | setSpecial (n : BitVec 7) (c : Code)
  | setOther (n : BitVec 7) (c : Code)
  /-- DS6 of a C16 form, written and read (R31); DS6 of C16 MOV, which it does not read (R32); and S5 -/
  | ds6 (x : BitVec 6)
  | ds6d (x : BitVec 6)
  | s5 (x : BitVec 5)
  /-- a selector value that must not exceed a bound -/
  | sel (x bound : Nat)
  deriving DecidableEq, Repr

/-- The special registers of R21, by number: width in bits, and whether SWR may write it. -/
def specialWidth (n : Nat) : Option Nat :=
  if n = 0x08 ∨ n = 0x18 then some 64
  else if n ≤ 0x05 ∨ n = 0x10 ∨ n = 0x11 ∨ n = 0x12 ∨ n = 0x13 ∨ n = 0x19 ∨ n = 0x1A ∨ n = 0x1C ∨ n = 0x1D then some 32
  else none

/-- TPC, TVEC, LFSR and GENS are the registers with access RW (R21). -/
def specialWritable (n : Nat) : Bool := n == 0x11 || n == 0x13 || n == 0x1C || n == 0x1D

/-- A 32-bit source code (R30): every code but 0xFF. -/
def srcOk (c : Code) : Bool := c.toNat < 0xFF

/-- A 64-bit source code (R14, R30): an even V, W or O register, H0 to H2, or Z. -/
def src2Ok (c : Code) : Bool :=
  let n := c.toNat
  if n < 0xF8 then n % 2 == 0 else n ≤ 0xFA || n == 0xFD

/-- V, W or O (R107). -/
def regOk (c : Code) : Bool := c.toNat < 0xF8

/-- An even V, W or O register (R14, R107). -/
def reg2Ok (c : Code) : Bool := c.toNat < 0xF8 && c.toNat % 2 == 0

/-- The checks of R14 and R30 to R33 that need neither the `.regs` budget nor a prefix. -/
def Operand.ok : Operand → Bool
  | .s c | .sw c => srcOk c
  | .s2 c => src2Ok c
  | .d c | .acc c | .old c => regOk c || c == 0xFC
  | .d2 c => reg2Ok c || c == 0xFC
  | .rw c | .r c => regOk c
  | .r2 c => reg2Ok c
  | .g4 c | .g4d c => c.toNat ≤ 0xDC && c.toNat % 4 == 0
  | .g8 c => c.toNat ≤ 0xD8 && c.toNat % 8 == 0
  | .wcmd c => 0xE0 ≤ c.toNat && c.toNat ≤ 0xED
  | .frag c => c.toNat ≤ 0xDF
  | .special c n =>
    match specialWidth n.toNat with
    | some 64 => reg2Ok c
    | some _ => regOk c
    | none => false
  | .setSpecial n c => specialWritable n.toNat && srcOk c
  | .setOther n c => (n.toNat == 0x13 || n.toNat == 0x1C) && srcOk c
  | .ds6 x | .ds6d x => x.toNat ≤ 55
  | .s5 x => x.toNat ≤ 30
  | .sel x b => x ≤ b

/-- Whether a C operand stands in a vector prefix (R35). -/
inductive CUse where
  | none | optional | required
  deriving DecidableEq, Repr

/-- Which RM values a vector prefix may carry (R35): 0 alone, 0 to 3, or 0 to 4. -/
inductive RmUse where
  | zero | directed | stochastic
  deriving DecidableEq, Repr

/-- Rows of R37 by what they let ORD be. -/
inductive OrdUse where
  | load | store | atomic | fence
  deriving DecidableEq, Repr

/-- The prefixes an instruction accepts (R35, R37, R38): none; a vector prefix; a memory prefix; or those of a CAS. -/
inductive PrefixUse where
  | none
  | vector (c : CUse) (rm : RmUse) (isSel : Bool)
  | memory (ord : OrdUse) (wide tarn : Bool)
  | cas (tarn : Bool)
  deriving DecidableEq, Repr

/-- The operand fields of an instruction, in the order of its rule. The steps without an encoding have none. -/
def Instr.operands : Instr → List Operand
  | .iadd d a b => [.d d, .s a, .s b]
  | .isub d a b => [.d d, .s a, .s b]
  | .imul d a b => [.d d, .s a, .s b]
  | .imulh d a b => [.d d, .s a, .s b]
  | .imulhu d a b => [.d d, .s a, .s b]
  | .imad d a b => [.acc d, .s a, .s b]
  | .imin d a b => [.d d, .s a, .s b]
  | .imax d a b => [.d d, .s a, .s b]
  | .iminu d a b => [.d d, .s a, .s b]
  | .imaxu d a b => [.d d, .s a, .s b]
  | .and d a b => [.d d, .s a, .s b]
  | .or d a b => [.d d, .s a, .s b]
  | .xor d a b => [.d d, .s a, .s b]
  | .andn d a b => [.d d, .s a, .s b]
  | .shl d a b => [.d d, .s a, .s b]
  | .shrl d a b => [.d d, .s a, .s b]
  | .shra d a b => [.d d, .s a, .s b]
  | .rotl d a b => [.d d, .s a, .s b]
  | .bfx d a b => [.d d, .s a, .s b]
  | .bfi d a b => [.d d, .s a, .s b]
  | .iadd64 d a b => [.d2 d, .s2 a, .s2 b]
  | .isub64 d a b => [.d2 d, .s2 a, .s2 b]
  | .imulw d a b => [.d2 d, .s a, .s b]
  | .imulwu d a b => [.d2 d, .s a, .s b]
  | .icmpEq _ a b => [.s a, .s b]
  | .icmpNe _ a b => [.s a, .s b]
  | .icmpLt _ a b => [.s a, .s b]
  | .icmpLe _ a b => [.s a, .s b]
  | .icmpLtu _ a b => [.s a, .s b]
  | .icmpLeu _ a b => [.s a, .s b]
  | .sel d a b => [.d d, .s a, .s b]
  | .iaddsat d a b => [.d d, .s a, .s b]
  | .fadd d a b => [.d d, .s a, .s b]
  | .fsub d a b => [.d d, .s a, .s b]
  | .fmul d a b => [.d d, .s a, .s b]
  | .ffma d a b => [.acc d, .s a, .s b]
  | .fmin d a b => [.d d, .s a, .s b]
  | .fmax d a b => [.d d, .s a, .s b]
  | .fcmpEq _ a b => [.s a, .s b]
  | .fcmpLt _ a b => [.s a, .s b]
  | .fcmpLe _ a b => [.s a, .s b]
  | .fcmpUn _ a b => [.s a, .s b]
  | .fcopysign d a b => [.d d, .s a, .s b]
  | .fscale d a b => [.d d, .s a, .s b]
  | .fdot2Bf16 d a b => [.acc d, .s a, .s b]
  | .fdot4E4m3 d a b => [.acc d, .s a, .s b]
  | .fdot4E5m2 d a b => [.acc d, .s a, .s b]
  | .hadd2Bf16 d a b => [.d d, .s a, .s b]
  | .hmul2Bf16 d a b => [.d d, .s a, .s b]
  | .hfma2Bf16 d a b => [.acc d, .s a, .s b]
  | .hmin2Bf16 d a b => [.d d, .s a, .s b]
  | .hmax2Bf16 d a b => [.d d, .s a, .s b]
  | .hadd2F16 d a b => [.d d, .s a, .s b]
  | .hmul2F16 d a b => [.d d, .s a, .s b]
  | .hfma2F16 d a b => [.acc d, .s a, .s b]
  | .hmin2F16 d a b => [.d d, .s a, .s b]
  | .hmax2F16 d a b => [.d d, .s a, .s b]
  | .pack2Bf16 d a b => [.d d, .s a, .s b]
  | .pack2F16 d a b => [.d d, .s a, .s b]
  | .pack4E4m3 d a b => [.d d, .s a, .s b]
  | .pack4E5m2 d a b => [.d d, .s a, .s b]
  | .bmix d a b => [.d d, .s a, .s b]
  | .iaddi d _ => [.rw d]
  | .andi d _ => [.rw d]
  | .ori d _ => [.rw d]
  | .xori d _ => [.rw d]
  | .movi d _ => [.d d]
  | .movhi d _ => [.rw d]
  | .shli d _ => [.rw d]
  | .shrli d _ => [.rw d]
  | .shrai d _ => [.rw d]
  | .icmpiEq s _ _ => [.s s]
  | .icmpiLt s _ _ => [.s s]
  | .fmovi d _ => [.d d]
  | .lxPick d a b => [.r d, .s a, .s b]
  | .lxMirror d a b => [.r d, .s a, .s b]
  | .lxRot d a b => [.r d, .s a, .s b]
  | .lxSlide d a b => [.r d, .s a, .s b]
  | .ldB d a _ => [.r d, .s2 a]
  | .ldBs d a _ => [.r d, .s2 a]
  | .ldH d a _ => [.r d, .s2 a]
  | .ldHs d a _ => [.r d, .s2 a]
  | .ldW d a _ => [.r d, .s2 a]
  | .ldD d a _ => [.r2 d, .s2 a]
  | .ldQ d a _ => [.g4d d, .s2 a]
  | .stB d a _ => [.s d, .s2 a]
  | .stH d a _ => [.s d, .s2 a]
  | .stW d a _ => [.s d, .s2 a]
  | .stD d a _ => [.s2 d, .s2 a]
  | .stQ d a _ => [.g4 d, .s2 a]
  | .ldc d a _ => [.r d, .s a]
  | .ldrawW d a _ => [.r d, .s2 a]
  | .strawW d a _ => [.s d, .s2 a]
  | .atomAdd d a b => [.old d, .s2 a, .sw b]
  | .atomSmin d a b => [.old d, .s2 a, .sw b]
  | .atomSmax d a b => [.old d, .s2 a, .sw b]
  | .atomUmin d a b => [.old d, .s2 a, .sw b]
  | .atomUmax d a b => [.old d, .s2 a, .sw b]
  | .atomAnd d a b => [.old d, .s2 a, .sw b]
  | .atomOr d a b => [.old d, .s2 a, .sw b]
  | .atomXor d a b => [.old d, .s2 a, .sw b]
  | .atomXchg d a b => [.old d, .s2 a, .sw b]
  | .atomCas d a b => [.old d, .s2 a, .sw b]
  | .atomFadd d a b => [.old d, .s2 a, .sw b]
  | .atomaggAdd d a b => [.old d, .s2 a, .sw b]
  | .ldt d a _ => [.r d, .s a]
  | .stt d a _ => [.s d, .s a]
  | .tatomAdd d a b => [.old d, .s a, .s b]
  | .tatomCas d a b => [.old d, .s a, .s b]
  | .bra _ _ _ => []
  | .call _ _ _ => []
  | .bri a _ => [.s a]
  | .calli a _ => [.s a]
  | .ret _ _ => []
  | .exit _ _ => []
  | .trap _ _ _ => []
  | .mma _ _ a b => [.frag a, .s b]
  | .mvs _ a b => [.s a, .s2 b]
  | .mzero _ => []
  | .mcfg a => [.s a]
  | .mdrain _ a => [.wcmd a]
  | .mtbl _ a => [.s a]
  | .mstat d => [.r d]
  | .cvtF32I32 d a => [.d d, .s a]
  | .cvtF32U32 d a => [.d d, .s a]
  | .cvtI32F32 d a => [.d d, .s a]
  | .cvtU32F32 d a => [.d d, .s a]
  | .cvtF32Bf16 d a => [.d d, .s a]
  | .cvtF32Bf16h d a => [.d d, .s a]
  | .cvtF32F16 d a => [.d d, .s a]
  | .cvtF32F16h d a => [.d d, .s a]
  | .cvtBf16F32 d a => [.d d, .s a]
  | .cvtF16F32 d a => [.d d, .s a]
  | .cvtE4m3F32 d a => [.d d, .s a]
  | .cvtE5m2F32 d a => [.d d, .s a]
  | .cvtF32E4m3Bk d a _ => [.d d, .s a]
  | .cvtF32E5m2Bk d a _ => [.d d, .s a]
  | .frnd d a => [.d d, .s a]
  | .fclass d a => [.d d, .s a]
  | .fabs d a => [.d d, .s a]
  | .fneg d a => [.d d, .s a]
  | .ineg d a => [.d d, .s a]
  | .iabs d a => [.d d, .s a]
  | .not d a => [.d d, .s a]
  | .popc d a => [.d d, .s a]
  | .clz d a => [.d d, .s a]
  | .brev d a => [.d d, .s a]
  | .mov d a => [.d d, .s a]
  | .rcp d a => [.d d, .s a]
  | .rsq d a => [.d d, .s a]
  | .sqrt d a => [.d d, .s a]
  | .exp2 d a => [.d d, .s a]
  | .log2 d a => [.d d, .s a]
  | .sin d a => [.d d, .s a]
  | .cos d a => [.d d, .s a]
  | .tanh d a => [.d d, .s a]
  | .sigm d a => [.d d, .s a]
  | .voteAny _ _ => []
  | .voteAll _ _ => []
  | .ballot d _ => [.r2 d]
  | .reduceIadd d a => [.r d, .s a]
  | .reduceFadd d a => [.r d, .s a]
  | .reduceFmin d a => [.r d, .s a]
  | .reduceFmax d a => [.r d, .s a]
  | .reduceUmin d a => [.r d, .s a]
  | .reduceUmax d a => [.r d, .s a]
  | .reduceAnd d a => [.r d, .s a]
  | .reduceOr d a => [.r d, .s a]
  | .reduceXor d a => [.r d, .s a]
  | .scanIadd d a => [.r d, .s a]
  | .scanFadd d a => [.r d, .s a]
  | .bcast d a => [.r d, .s a]
  | .mand _ _ _ => []
  | .mor _ _ _ => []
  | .mxor _ _ _ => []
  | .mnot _ _ => []
  | .mmov _ _ => []
  | .mfromv _ a => [.s a]
  | .mtov d _ => [.r d]
  | .srd d n => [.special d n]
  | .swr n a => [.setSpecial n a]
  | .swrOther n a => [.setOther n a]
  | .c16Mov d s => [.ds6d d, .s5 s]
  | .c16Iadd d s => [.ds6 d, .s5 s]
  | .c16Isub d s => [.ds6 d, .s5 s]
  | .c16Imul d s => [.ds6 d, .s5 s]
  | .c16And d s => [.ds6 d, .s5 s]
  | .c16Or d s => [.ds6 d, .s5 s]
  | .c16Xor d s => [.ds6 d, .s5 s]
  | .c16Shl d s => [.ds6 d, .s5 s]
  | .c16Shrl d s => [.ds6 d, .s5 s]
  | .c16Shra d s => [.ds6 d, .s5 s]
  | .c16Fadd d s => [.ds6 d, .s5 s]
  | .c16Fsub d s => [.ds6 d, .s5 s]
  | .c16Fmul d s => [.ds6 d, .s5 s]
  | .c16Fmax d s => [.ds6 d, .s5 s]
  | .c16Fmin d s => [.ds6 d, .s5 s]
  | .nop => []
  | .c16Yield => []
  | .tcopyIn _ a => [.g4 a]
  | .tcopyOut _ a => [.g4 a]
  | .waitany a => [.s2 a]
  | .waitall a => [.s2 a]
  | .tffr d => [.r d]
  | .tclr a => [.s2 a]
  | .park a => [.s a]
  | .yield => []
  | .ovlLoad _ _ => []
  | .ovlLoadTab _ a => [.s2 a]
  | .ovlWait _ => []
  | .vfPush _ a => [.s a]
  | .vfPop d _ => [.r d]
  | .vfFree d _ => [.r d]
  | .barInit _ a => [.s a]
  | .barArrive _ => []
  | .barWait _ => []
  | .barSync _ => []
  | .barExpect _ a => [.s a]
  | .xcopy _ a => [.g8 a]
  | .xchain _ a => [.s2 a]
  | .xstat d _ => [.r d]
  | .gateReq _ => []
  | .gateWake _ => []
  | .gateStat d _ => [.r d]
  | .nthint h => [.sel h.toNat 2]
  | .spawn a => [.s2 a]
  | .gang a => [.s2 a]
  | .done => []
  | .join a => [.s2 a]
  | .tsbSet a => [.s a]
  | .tsbRet => []
  | .pmask => []
  | .punmask => []
  | .strmPut _ a => [.s a]
  | .strmGet d _ => [.r d]
  | .strmEos _ => []
  | .tlSig _ a => [.s2 a]
  | .tlWait _ a => [.s2 a]
  | .tlRead d _ => [.r2 d]
  | .pref _ a => [.g4 a]
  | .swin a => [.g4 a]
  | .rft => []
  | .cclr a => [.s a]
  | .freply c a => [.s2 a, .sel c.toNat 2]
  | .watchArm d a => [.r d, .s2 a]
  | .watchOff a => [.s a]
  | .watchStat d a => [.r d, .s a]
  | .xsemSig d a => [.s d, .s a]
  | .xsemWait d a => [.s d, .s a]
  | .cmpClear a => [.g4 a]
  | .cmpDecomp a => [.g4 a]
  | .cmpStat d a => [.r d, .s2 a]
  | .fence => []
  | .rayGo d a => [.r d, .s2 a]
  | .rayGet d a => [.g4d d, .s a]
  | .rayPoll _ a => [.s a]
  | .genPin d a => [.r d, .s2 a]
  | .genUnpin d a => [.s d, .s2 a]
  | .bldBuild a => [.s2 a]
  | .bldBuildNft a => [.s2 a]
  | .bldRefit a => [.s2 a]
  | .bldRebal a => [.s2 a]
  | .bldStat d a => [.r d, .s2 a]
  | .bldQual d a => [.g4d d, .s2 a]
  | .mvEmit a => [.g4 a]
  | .mvEnd => []
  | .atlReq d a => [.r d, .s2 a]
  | .atlSmp d a => [.g4d d, .s2 a]
  | .atlDone a => [.s a]
  | .rgnWait a => [.s a]
  | .notedCauseDelivery => []
  | .windowEnter _ => []
  | .shotReservation _ => []
  | .shotRingVisit _ => []
  | .shotReservoirFill _ => []
  | .islandEnterNear _ _ => []
  | .islandSwitchNominal _ _ => []
  | .parkWriteOut _ => []
  | .continuationResume _ _ => []
  | .teamAdmit _ _ => []
  | .tcopyComplete _ _ => []
  | .ovlLoadComplete _ _ => []
  | .drainColumnReady _ _ => []
  | .eccScrub _ => []
  | .copyRecordStart _ _ => []
  | .copyRecordComplete _ _ => []
  | .gateDrainDone _ _ => []
  | .gateHoldEnd _ _ => []
  | .gateRampStart _ _ => []
  | .gateRampDone _ _ => []
  | .gateRampFail _ _ => []
  | .gateMcWake _ _ => []
  | .xinvPage _ _ => []
  | .xinvAsid _ _ => []
  | .xinvAll _ => []
  | .xinvComplete _ => []
  | .fqcfgWrite _ _ => []
  | .faultRecordWrite _ => []
  | .prefComplete _ _ => []
  | .timelineValueStore _ _ _ => []
  | .storeReachHome _ _ => []
  | .viewUpdate _ _ => []
  | .qtbaseWrite _ _ => []
  | .coreenWrite _ _ _ => []
  | .preemptWrite _ _ => []
  | .preemptSelect _ _ => []
  | .pmaskTimeout _ => []
  | .queueEnable _ _ => []
  | .queueTailStore _ _ _ => []
  | .recordTake _ _ => []
  | .remapTick _ => []
  | .queueAging _ _ => []
  | .launchComplete _ => []
  | .completionWrite _ => []
  | .streamEnable _ _ => []
  | .springRetry _ => []
  | .doneTakeEffect _ => []
  | .builderJobStart _ => []
  | .builderPublish _ _ => []
  | .builderJobFail _ _ => []
  | .rayQueryComplete _ => []
  | .rayQueryFault _ => []
  | .semaphoreStore _ _ => []
  | .watchHoldoffEnd _ => []
  | .watchIntervalEnd _ => []
  | .memoryPatrolScrub _ => []
  | .frameStart _ _ => []
  | .packetForward _ => []
  | .watermarkUpdate _ _ => []
  | .packetConsume _ _ => []
  | .atlasRequestWalk _ => []
  | .moduleBoot _ _ _ => []
  | .freqSwitch => []
  | .powerSample _ _ => []
  | .thermalCut _ => []
  | .sensorSample _ => []
  | .reasonClear _ => []
  | .snapArm _ => []
  | .snapFire _ => []
  | .snapPin => []
  | .snapLatch => []
  | .mbLog => []
  | .mbStage => []
  | .mbActivate => []
  | .mbAttest => []
  | .mbSnapread => []
  | .mbCert => []
  | .flitReceive _ _ => []
  | .portRetrain _ => []
  | .remoteAccessTimeout _ => []
  | .hostWrite _ _ _ => []
  | .hostRead _ _ _ => []
  | .registerWrite _ _ => []
  | .illegalEncoding => []
  | .portTrain _ _ _ => []
  | .queueDisable _ _ => []
  | .byteBudgetInterval _ => []
  | .eccError _ _ => []
  | .supplyLoss _ => []
  | .mcNominalDemand _ _ => []
  | .pcieCompletion _ _ => []

/-- The prefixes an instruction accepts. -/
def Instr.prefixes : Instr → PrefixUse
  | .iadd _ _ _ => .vector .none .zero false
  | .isub _ _ _ => .vector .none .zero false
  | .imul _ _ _ => .vector .none .zero false
  | .imulh _ _ _ => .vector .none .zero false
  | .imulhu _ _ _ => .vector .none .zero false
  | .imad _ _ _ => .vector .optional .zero false
  | .imin _ _ _ => .vector .none .zero false
  | .imax _ _ _ => .vector .none .zero false
  | .iminu _ _ _ => .vector .none .zero false
  | .imaxu _ _ _ => .vector .none .zero false
  | .and _ _ _ => .vector .none .zero false
  | .or _ _ _ => .vector .none .zero false
  | .xor _ _ _ => .vector .none .zero false
  | .andn _ _ _ => .vector .none .zero false
  | .shl _ _ _ => .vector .none .zero false
  | .shrl _ _ _ => .vector .none .zero false
  | .shra _ _ _ => .vector .none .zero false
  | .rotl _ _ _ => .vector .none .zero false
  | .bfx _ _ _ => .vector .none .zero false
  | .bfi _ _ _ => .vector .none .zero false
  | .iadd64 _ _ _ => .vector .none .zero false
  | .isub64 _ _ _ => .vector .none .zero false
  | .imulw _ _ _ => .vector .none .zero false
  | .imulwu _ _ _ => .vector .none .zero false
  | .sel _ _ _ => .vector .none .zero true
  | .iaddsat _ _ _ => .vector .none .zero false
  | .fadd _ _ _ => .vector .none .directed false
  | .fsub _ _ _ => .vector .none .directed false
  | .fmul _ _ _ => .vector .none .directed false
  | .ffma _ _ _ => .vector .optional .directed false
  | .fmin _ _ _ => .vector .none .directed false
  | .fmax _ _ _ => .vector .none .directed false
  | .fcopysign _ _ _ => .vector .none .zero false
  | .fscale _ _ _ => .vector .none .directed false
  | .fdot2Bf16 _ _ _ => .vector .optional .directed false
  | .fdot4E4m3 _ _ _ => .vector .optional .directed false
  | .fdot4E5m2 _ _ _ => .vector .optional .directed false
  | .hadd2Bf16 _ _ _ => .vector .none .directed false
  | .hmul2Bf16 _ _ _ => .vector .none .directed false
  | .hfma2Bf16 _ _ _ => .vector .optional .directed false
  | .hmin2Bf16 _ _ _ => .vector .none .directed false
  | .hmax2Bf16 _ _ _ => .vector .none .directed false
  | .hadd2F16 _ _ _ => .vector .none .directed false
  | .hmul2F16 _ _ _ => .vector .none .directed false
  | .hfma2F16 _ _ _ => .vector .optional .directed false
  | .hmin2F16 _ _ _ => .vector .none .directed false
  | .hmax2F16 _ _ _ => .vector .none .directed false
  | .pack2Bf16 _ _ _ => .vector .none .stochastic false
  | .pack2F16 _ _ _ => .vector .none .stochastic false
  | .pack4E4m3 _ _ _ => .vector .none .stochastic false
  | .pack4E5m2 _ _ _ => .vector .none .stochastic false
  | .bmix _ _ _ => .vector .required .zero false
  | .iaddi _ _ => .vector .none .zero false
  | .andi _ _ => .vector .none .zero false
  | .ori _ _ => .vector .none .zero false
  | .xori _ _ => .vector .none .zero false
  | .movi _ _ => .vector .none .zero false
  | .movhi _ _ => .vector .none .zero false
  | .shli _ _ => .vector .none .zero false
  | .shrli _ _ => .vector .none .zero false
  | .shrai _ _ => .vector .none .zero false
  | .fmovi _ _ => .vector .none .directed false
  | .ldB _ _ _ => .memory .load false false
  | .ldBs _ _ _ => .memory .load false false
  | .ldH _ _ _ => .memory .load false false
  | .ldHs _ _ _ => .memory .load false false
  | .ldW _ _ _ => .memory .load false false
  | .ldD _ _ _ => .memory .load false false
  | .ldQ _ _ _ => .memory .load false false
  | .stB _ _ _ => .memory .store false false
  | .stH _ _ _ => .memory .store false false
  | .stW _ _ _ => .memory .store false false
  | .stD _ _ _ => .memory .store false false
  | .stQ _ _ _ => .memory .store false false
  | .ldrawW _ _ _ => .memory .load false false
  | .strawW _ _ _ => .memory .store false false
  | .atomAdd _ _ _ => .memory .atomic true false
  | .atomSmin _ _ _ => .memory .atomic true false
  | .atomSmax _ _ _ => .memory .atomic true false
  | .atomUmin _ _ _ => .memory .atomic true false
  | .atomUmax _ _ _ => .memory .atomic true false
  | .atomAnd _ _ _ => .memory .atomic true false
  | .atomOr _ _ _ => .memory .atomic true false
  | .atomXor _ _ _ => .memory .atomic true false
  | .atomXchg _ _ _ => .memory .atomic true false
  | .atomCas _ _ _ => .cas false
  | .atomFadd _ _ _ => .memory .atomic false false
  | .atomaggAdd _ _ _ => .memory .atomic true false
  | .ldt _ _ _ => .memory .load false true
  | .stt _ _ _ => .memory .store false true
  | .tatomAdd _ _ _ => .memory .atomic false true
  | .tatomCas _ _ _ => .cas true
  | .cvtF32I32 _ _ => .vector .none .directed false
  | .cvtF32U32 _ _ => .vector .none .directed false
  | .cvtI32F32 _ _ => .vector .none .directed false
  | .cvtU32F32 _ _ => .vector .none .directed false
  | .cvtF32Bf16 _ _ => .vector .none .directed false
  | .cvtF32Bf16h _ _ => .vector .none .directed false
  | .cvtF32F16 _ _ => .vector .none .directed false
  | .cvtF32F16h _ _ => .vector .none .directed false
  | .cvtBf16F32 _ _ => .vector .none .stochastic false
  | .cvtF16F32 _ _ => .vector .none .stochastic false
  | .cvtE4m3F32 _ _ => .vector .none .stochastic false
  | .cvtE5m2F32 _ _ => .vector .none .stochastic false
  | .cvtF32E4m3Bk _ _ _ => .vector .none .directed false
  | .cvtF32E5m2Bk _ _ _ => .vector .none .directed false
  | .frnd _ _ => .vector .none .directed false
  | .fclass _ _ => .vector .none .zero false
  | .fabs _ _ => .vector .none .zero false
  | .fneg _ _ => .vector .none .zero false
  | .ineg _ _ => .vector .none .zero false
  | .iabs _ _ => .vector .none .zero false
  | .not _ _ => .vector .none .zero false
  | .popc _ _ => .vector .none .zero false
  | .clz _ _ => .vector .none .zero false
  | .brev _ _ => .vector .none .zero false
  | .mov _ _ => .vector .none .zero false
  | .rcp _ _ => .vector .none .zero false
  | .rsq _ _ => .vector .none .zero false
  | .sqrt _ _ => .vector .none .zero false
  | .exp2 _ _ => .vector .none .zero false
  | .log2 _ _ => .vector .none .zero false
  | .sin _ _ => .vector .none .zero false
  | .cos _ _ => .vector .none .zero false
  | .tanh _ _ => .vector .none .zero false
  | .sigm _ _ => .vector .none .zero false
  | .c16Mov _ _ => .vector .none .zero false
  | .c16Iadd _ _ => .vector .none .zero false
  | .c16Isub _ _ => .vector .none .zero false
  | .c16Imul _ _ => .vector .none .zero false
  | .c16And _ _ => .vector .none .zero false
  | .c16Or _ _ => .vector .none .zero false
  | .c16Xor _ _ => .vector .none .zero false
  | .c16Shl _ _ => .vector .none .zero false
  | .c16Shrl _ _ => .vector .none .zero false
  | .c16Shra _ _ => .vector .none .zero false
  | .c16Fadd _ _ => .vector .none .directed false
  | .c16Fsub _ _ => .vector .none .directed false
  | .c16Fmul _ _ => .vector .none .directed false
  | .c16Fmax _ _ => .vector .none .directed false
  | .c16Fmin _ _ => .vector .none .directed false
  | .fence => .memory .fence false false
  | .icmpEq _ _ _
  | .icmpNe _ _ _
  | .icmpLt _ _ _
  | .icmpLe _ _ _
  | .icmpLtu _ _ _
  | .icmpLeu _ _ _
  | .fcmpEq _ _ _
  | .fcmpLt _ _ _
  | .fcmpLe _ _ _
  | .fcmpUn _ _ _
  | .icmpiEq _ _ _
  | .icmpiLt _ _ _
  | .lxPick _ _ _
  | .lxMirror _ _ _
  | .lxRot _ _ _
  | .lxSlide _ _ _
  | .ldc _ _ _
  | .bra _ _ _
  | .call _ _ _
  | .bri _ _
  | .calli _ _
  | .ret _ _
  | .exit _ _
  | .trap _ _ _
  | .mma _ _ _ _
  | .mvs _ _ _
  | .mzero _
  | .mcfg _
  | .mdrain _ _
  | .mtbl _ _
  | .mstat _
  | .voteAny _ _
  | .voteAll _ _
  | .ballot _ _
  | .reduceIadd _ _
  | .reduceFadd _ _
  | .reduceFmin _ _
  | .reduceFmax _ _
  | .reduceUmin _ _
  | .reduceUmax _ _
  | .reduceAnd _ _
  | .reduceOr _ _
  | .reduceXor _ _
  | .scanIadd _ _
  | .scanFadd _ _
  | .bcast _ _
  | .mand _ _ _
  | .mor _ _ _
  | .mxor _ _ _
  | .mnot _ _
  | .mmov _ _
  | .mfromv _ _
  | .mtov _ _
  | .srd _ _
  | .swr _ _
  | .swrOther _ _
  | .nop
  | .c16Yield
  | .tcopyIn _ _
  | .tcopyOut _ _
  | .waitany _
  | .waitall _
  | .tffr _
  | .tclr _
  | .park _
  | .yield
  | .ovlLoad _ _
  | .ovlLoadTab _ _
  | .ovlWait _
  | .vfPush _ _
  | .vfPop _ _
  | .vfFree _ _
  | .barInit _ _
  | .barArrive _
  | .barWait _
  | .barSync _
  | .barExpect _ _
  | .xcopy _ _
  | .xchain _ _
  | .xstat _ _
  | .gateReq _
  | .gateWake _
  | .gateStat _ _
  | .nthint _
  | .spawn _
  | .gang _
  | .done
  | .join _
  | .tsbSet _
  | .tsbRet
  | .pmask
  | .punmask
  | .strmPut _ _
  | .strmGet _ _
  | .strmEos _
  | .tlSig _ _
  | .tlWait _ _
  | .tlRead _ _
  | .pref _ _
  | .swin _
  | .rft
  | .cclr _
  | .freply _ _
  | .watchArm _ _
  | .watchOff _
  | .watchStat _ _
  | .xsemSig _ _
  | .xsemWait _ _
  | .cmpClear _
  | .cmpDecomp _
  | .cmpStat _ _
  | .rayGo _ _
  | .rayGet _ _
  | .rayPoll _ _
  | .genPin _ _
  | .genUnpin _ _
  | .bldBuild _
  | .bldBuildNft _
  | .bldRefit _
  | .bldRebal _
  | .bldStat _ _
  | .bldQual _ _
  | .mvEmit _
  | .mvEnd
  | .atlReq _ _
  | .atlSmp _ _
  | .atlDone _
  | .rgnWait _
  | .notedCauseDelivery
  | .windowEnter _
  | .shotReservation _
  | .shotRingVisit _
  | .shotReservoirFill _
  | .islandEnterNear _ _
  | .islandSwitchNominal _ _
  | .parkWriteOut _
  | .continuationResume _ _
  | .teamAdmit _ _
  | .tcopyComplete _ _
  | .ovlLoadComplete _ _
  | .drainColumnReady _ _
  | .eccScrub _
  | .copyRecordStart _ _
  | .copyRecordComplete _ _
  | .gateDrainDone _ _
  | .gateHoldEnd _ _
  | .gateRampStart _ _
  | .gateRampDone _ _
  | .gateRampFail _ _
  | .gateMcWake _ _
  | .xinvPage _ _
  | .xinvAsid _ _
  | .xinvAll _
  | .xinvComplete _
  | .fqcfgWrite _ _
  | .faultRecordWrite _
  | .prefComplete _ _
  | .timelineValueStore _ _ _
  | .storeReachHome _ _
  | .viewUpdate _ _
  | .qtbaseWrite _ _
  | .coreenWrite _ _ _
  | .preemptWrite _ _
  | .preemptSelect _ _
  | .pmaskTimeout _
  | .queueEnable _ _
  | .queueTailStore _ _ _
  | .recordTake _ _
  | .remapTick _
  | .queueAging _ _
  | .launchComplete _
  | .completionWrite _
  | .streamEnable _ _
  | .springRetry _
  | .doneTakeEffect _
  | .builderJobStart _
  | .builderPublish _ _
  | .builderJobFail _ _
  | .rayQueryComplete _
  | .rayQueryFault _
  | .semaphoreStore _ _
  | .watchHoldoffEnd _
  | .watchIntervalEnd _
  | .memoryPatrolScrub _
  | .frameStart _ _
  | .packetForward _
  | .watermarkUpdate _ _
  | .packetConsume _ _
  | .atlasRequestWalk _
  | .moduleBoot _ _ _
  | .freqSwitch
  | .powerSample _ _
  | .thermalCut _
  | .sensorSample _
  | .reasonClear _
  | .snapArm _
  | .snapFire _
  | .snapPin
  | .snapLatch
  | .mbLog
  | .mbStage
  | .mbActivate
  | .mbAttest
  | .mbSnapread
  | .mbCert
  | .flitReceive _ _
  | .portRetrain _
  | .remoteAccessTimeout _
  | .hostWrite _ _ _
  | .hostRead _ _ _
  | .registerWrite _ _
  | .illegalEncoding
  | .portTrain _ _ _
  | .queueDisable _ _
  | .byteBudgetInterval _
  | .eccError _ _
  | .supplyLoss _
  | .mcNominalDemand _ _
  | .pcieCompletion _ _ => .none

/-- The latch-pushing instructions (R16) are those that take a vector prefix other than a CAS. -/
def Instr.pushes (i : Instr) : Bool :=
  match i.prefixes with
  | .vector _ _ _ => true
  | .none | .memory _ _ _ | .cas _ => false

end Sys2Proof
end

