-- ==== Sys2Proof/WellFormed.lean ====
section
/-! DEFINITION. Well-formed instructions: those that encoding rules R29 to R44 assign, as far as the instruction word alone decides it. Checks
that need the `.regs` budget, a prefix, the wave's width or a register value are made at issue. -/

namespace Sys2Proof

/-- An encoded instruction whose every operand field holds a code or selector value that its rule assigns. -/
def Instr.wellFormed (i : Instr) : Bool := i.operands.all Operand.ok

/-- Whether an instruction has an encoding, as against the steps of the hardware and the outside world. -/
def Instr.encoded : Instr → Bool
  | .iadd _ _ _
  | .isub _ _ _
  | .imul _ _ _
  | .imulh _ _ _
  | .imulhu _ _ _
  | .imad _ _ _
  | .imin _ _ _
  | .imax _ _ _
  | .iminu _ _ _
  | .imaxu _ _ _
  | .and _ _ _
  | .or _ _ _
  | .xor _ _ _
  | .andn _ _ _
  | .shl _ _ _
  | .shrl _ _ _
  | .shra _ _ _
  | .rotl _ _ _
  | .bfx _ _ _
  | .bfi _ _ _
  | .iadd64 _ _ _
  | .isub64 _ _ _
  | .imulw _ _ _
  | .imulwu _ _ _
  | .icmpEq _ _ _
  | .icmpNe _ _ _
  | .icmpLt _ _ _
  | .icmpLe _ _ _
  | .icmpLtu _ _ _
  | .icmpLeu _ _ _
  | .sel _ _ _
  | .iaddsat _ _ _
  | .fadd _ _ _
  | .fsub _ _ _
  | .fmul _ _ _
  | .ffma _ _ _
  | .fmin _ _ _
  | .fmax _ _ _
  | .fcmpEq _ _ _
  | .fcmpLt _ _ _
  | .fcmpLe _ _ _
  | .fcmpUn _ _ _
  | .fcopysign _ _ _
  | .fscale _ _ _
  | .fdot2Bf16 _ _ _
  | .fdot4E4m3 _ _ _
  | .fdot4E5m2 _ _ _
  | .hadd2Bf16 _ _ _
  | .hmul2Bf16 _ _ _
  | .hfma2Bf16 _ _ _
  | .hmin2Bf16 _ _ _
  | .hmax2Bf16 _ _ _
  | .hadd2F16 _ _ _
  | .hmul2F16 _ _ _
  | .hfma2F16 _ _ _
  | .hmin2F16 _ _ _
  | .hmax2F16 _ _ _
  | .pack2Bf16 _ _ _
  | .pack2F16 _ _ _
  | .pack4E4m3 _ _ _
  | .pack4E5m2 _ _ _
  | .bmix _ _ _
  | .iaddi _ _
  | .andi _ _
  | .ori _ _
  | .xori _ _
  | .movi _ _
  | .movhi _ _
  | .shli _ _
  | .shrli _ _
  | .shrai _ _
  | .icmpiEq _ _ _
  | .icmpiLt _ _ _
  | .fmovi _ _
  | .lxPick _ _ _
  | .lxMirror _ _ _
  | .lxRot _ _ _
  | .lxSlide _ _ _
  | .ldB _ _ _
  | .ldBs _ _ _
  | .ldH _ _ _
  | .ldHs _ _ _
  | .ldW _ _ _
  | .ldD _ _ _
  | .ldQ _ _ _
  | .stB _ _ _
  | .stH _ _ _
  | .stW _ _ _
  | .stD _ _ _
  | .stQ _ _ _
  | .ldc _ _ _
  | .ldrawW _ _ _
  | .strawW _ _ _
  | .atomAdd _ _ _
  | .atomSmin _ _ _
  | .atomSmax _ _ _
  | .atomUmin _ _ _
  | .atomUmax _ _ _
  | .atomAnd _ _ _
  | .atomOr _ _ _
  | .atomXor _ _ _
  | .atomXchg _ _ _
  | .atomCas _ _ _
  | .atomFadd _ _ _
  | .atomaggAdd _ _ _
  | .ldt _ _ _
  | .stt _ _ _
  | .tatomAdd _ _ _
  | .tatomCas _ _ _
  | .bra _ _ _
  | .call _ _ _
  | .bri _ _
  | .calli _ _
  | .ret _ _
  | .exit _ _
  | .trap _ _ _
  | .mma _ _ _ _
  | .mvs _ _ _
  | .mzero _
  | .mcfg _
  | .mdrain _ _
  | .mtbl _ _
  | .mstat _
  | .cvtF32I32 _ _
  | .cvtF32U32 _ _
  | .cvtI32F32 _ _
  | .cvtU32F32 _ _
  | .cvtF32Bf16 _ _
  | .cvtF32Bf16h _ _
  | .cvtF32F16 _ _
  | .cvtF32F16h _ _
  | .cvtBf16F32 _ _
  | .cvtF16F32 _ _
  | .cvtE4m3F32 _ _
  | .cvtE5m2F32 _ _
  | .cvtF32E4m3Bk _ _ _
  | .cvtF32E5m2Bk _ _ _
  | .frnd _ _
  | .fclass _ _
  | .fabs _ _
  | .fneg _ _
  | .ineg _ _
  | .iabs _ _
  | .not _ _
  | .popc _ _
  | .clz _ _
  | .brev _ _
  | .mov _ _
  | .rcp _ _
  | .rsq _ _
  | .sqrt _ _
  | .exp2 _ _
  | .log2 _ _
  | .sin _ _
  | .cos _ _
  | .tanh _ _
  | .sigm _ _
  | .voteAny _ _
  | .voteAll _ _
  | .ballot _ _
  | .reduceIadd _ _
  | .reduceFadd _ _
  | .reduceFmin _ _
  | .reduceFmax _ _
  | .reduceUmin _ _
  | .reduceUmax _ _
  | .reduceAnd _ _
  | .reduceOr _ _
  | .reduceXor _ _
  | .scanIadd _ _
  | .scanFadd _ _
  | .bcast _ _
  | .mand _ _ _
  | .mor _ _ _
  | .mxor _ _ _
  | .mnot _ _
  | .mmov _ _
  | .mfromv _ _
  | .mtov _ _
  | .srd _ _
  | .swr _ _
  | .swrOther _ _
  | .c16Mov _ _
  | .c16Iadd _ _
  | .c16Isub _ _
  | .c16Imul _ _
  | .c16And _ _
  | .c16Or _ _
  | .c16Xor _ _
  | .c16Shl _ _
  | .c16Shrl _ _
  | .c16Shra _ _
  | .c16Fadd _ _
  | .c16Fsub _ _
  | .c16Fmul _ _
  | .c16Fmax _ _
  | .c16Fmin _ _
  | .nop
  | .c16Yield
  | .tcopyIn _ _
  | .tcopyOut _ _
  | .waitany _
  | .waitall _
  | .tffr _
  | .tclr _
  | .park _
  | .yield
  | .ovlLoad _ _
  | .ovlLoadTab _ _
  | .ovlWait _
  | .vfPush _ _
  | .vfPop _ _
  | .vfFree _ _
  | .barInit _ _
  | .barArrive _
  | .barWait _
  | .barSync _
  | .barExpect _ _
  | .xcopy _ _
  | .xchain _ _
  | .xstat _ _
  | .gateReq _
  | .gateWake _
  | .gateStat _ _
  | .nthint _
  | .spawn _
  | .gang _
  | .done
  | .join _
  | .tsbSet _
  | .tsbRet
  | .pmask
  | .punmask
  | .strmPut _ _
  | .strmGet _ _
  | .strmEos _
  | .tlSig _ _
  | .tlWait _ _
  | .tlRead _ _
  | .pref _ _
  | .swin _
  | .rft
  | .cclr _
  | .freply _ _
  | .watchArm _ _
  | .watchOff _
  | .watchStat _ _
  | .xsemSig _ _
  | .xsemWait _ _
  | .cmpClear _
  | .cmpDecomp _
  | .cmpStat _ _
  | .fence
  | .rayGo _ _
  | .rayGet _ _
  | .rayPoll _ _
  | .genPin _ _
  | .genUnpin _ _
  | .bldBuild _
  | .bldBuildNft _
  | .bldRefit _
  | .bldRebal _
  | .bldStat _ _
  | .bldQual _ _
  | .mvEmit _
  | .mvEnd
  | .atlReq _ _
  | .atlSmp _ _
  | .atlDone _
  | .rgnWait _ => true
  | .notedCauseDelivery
  | .windowEnter _
  | .shotReservation _
  | .shotRingVisit _
  | .shotReservoirFill _
  | .islandEnterNear _ _
  | .islandSwitchNominal _ _
  | .parkWriteOut _
  | .continuationResume _ _
  | .teamAdmit _ _
  | .tcopyComplete _ _
  | .ovlLoadComplete _ _
  | .drainColumnReady _ _
  | .eccScrub _
  | .copyRecordStart _ _
  | .copyRecordComplete _ _
  | .gateDrainDone _ _
  | .gateHoldEnd _ _
  | .gateRampStart _ _
  | .gateRampDone _ _
  | .gateRampFail _ _
  | .gateMcWake _ _
  | .xinvPage _ _
  | .xinvAsid _ _
  | .xinvAll _
  | .xinvComplete _
  | .fqcfgWrite _ _
  | .faultRecordWrite _
  | .prefComplete _ _
  | .timelineValueStore _ _ _
  | .storeReachHome _ _
  | .viewUpdate _ _
  | .qtbaseWrite _ _
  | .coreenWrite _ _ _
  | .preemptWrite _ _
  | .preemptSelect _ _
  | .pmaskTimeout _
  | .queueEnable _ _
  | .queueTailStore _ _ _
  | .recordTake _ _
  | .remapTick _
  | .queueAging _ _
  | .launchComplete _
  | .completionWrite _
  | .streamEnable _ _
  | .springRetry _
  | .doneTakeEffect _
  | .builderJobStart _
  | .builderPublish _ _
  | .builderJobFail _ _
  | .rayQueryComplete _
  | .rayQueryFault _
  | .semaphoreStore _ _
  | .watchHoldoffEnd _
  | .watchIntervalEnd _
  | .memoryPatrolScrub _
  | .frameStart _ _
  | .packetForward _
  | .watermarkUpdate _ _
  | .packetConsume _ _
  | .atlasRequestWalk _
  | .moduleBoot _ _ _
  | .freqSwitch
  | .powerSample _ _
  | .thermalCut _
  | .sensorSample _
  | .reasonClear _
  | .snapArm _
  | .snapFire _
  | .snapPin
  | .snapLatch
  | .mbLog
  | .mbStage
  | .mbActivate
  | .mbAttest
  | .mbSnapread
  | .mbCert
  | .flitReceive _ _
  | .portRetrain _
  | .remoteAccessTimeout _
  | .hostWrite _ _ _
  | .hostRead _ _ _
  | .registerWrite _ _
  | .illegalEncoding
  | .portTrain _ _ _
  | .queueDisable _ _
  | .byteBudgetInterval _
  | .eccError _ _
  | .supplyLoss _
  | .mcNominalDemand _ _
  | .pcieCompletion _ _ => false

end Sys2Proof
end

