-- ==== Sys2Proof/Decode.lean ====
section
/-! DEFINITION. Decoding and encoding of instruction words (R26, R29, R31, R39 to R44). A 32-bit word is four bytes lo, d, a, b, lowest address
first: lo holds MAJ and bit 0, and d, a, b are the fields of R29. The prefixes (R34, R36) are decoded here too, as words.
Lean's code generator cannot build values of an inductive type past its 245th constructor, so the functions that answer an Instr are
marked noncomputable: that concerns compiled code alone, and the kernel evaluates them. -/

namespace Sys2Proof

/-- Why bytes are not an instruction. -/
inductive DecodeError where
  /-- fewer bytes than the instruction has -/
  | short
  /-- no rule assigns the encoding (R44) -/
  | unassigned
  /-- an operand code or selector value that its field does not allow (R14, R30 to R33) -/
  | operand
  deriving DecidableEq, Repr

/-- The format-C16 decoding of a halfword (R31, R32). -/
def decode16 (h : BitVec 16) : Option Instr :=
  let ds := h.extractLsb' 5 6
  let s := h.extractLsb' 11 5
  match (h.extractLsb' 1 4).toNat with
  | 0 => some (.c16Mov ds s)
  | 1 => some (.c16Iadd ds s)
  | 2 => some (.c16Isub ds s)
  | 3 => some (.c16Imul ds s)
  | 4 => some (.c16And ds s)
  | 5 => some (.c16Or ds s)
  | 6 => some (.c16Xor ds s)
  | 7 => some (.c16Shl ds s)
  | 8 => some (.c16Shrl ds s)
  | 9 => some (.c16Shra ds s)
  | 10 => some (.c16Fadd ds s)
  | 11 => some (.c16Fsub ds s)
  | 12 => some (.c16Fmul ds s)
  | 13 => some (.c16Fmax ds s)
  | 14 => some (.c16Fmin ds s)
  | _ => if h = 0x001E#16 then some .nop else if h = 0x081E#16 then some .c16Yield else none

/-- Family X (R41, R42), by FN. -/
def decodeX (d a b : Byte) : Option Instr :=
  match b.toNat with
  | 0x00 => some (.cvtF32I32 d a)
  | 0x01 => some (.cvtF32U32 d a)
  | 0x02 => some (.cvtI32F32 d a)
  | 0x03 => some (.cvtU32F32 d a)
  | 0x04 => some (.cvtF32Bf16 d a)
  | 0x05 => some (.cvtF32Bf16h d a)
  | 0x06 => some (.cvtF32F16 d a)
  | 0x07 => some (.cvtF32F16h d a)
  | 0x08 => some (.cvtBf16F32 d a)
  | 0x09 => some (.cvtF16F32 d a)
  | 0x0A => some (.cvtE4m3F32 d a)
  | 0x0B => some (.cvtE5m2F32 d a)
  | 0x0C => some (.cvtF32E4m3Bk d a 0#2)
  | 0x0D => some (.cvtF32E4m3Bk d a 1#2)
  | 0x0E => some (.cvtF32E4m3Bk d a 2#2)
  | 0x0F => some (.cvtF32E4m3Bk d a 3#2)
  | 0x10 => some (.cvtF32E5m2Bk d a 0#2)
  | 0x11 => some (.cvtF32E5m2Bk d a 1#2)
  | 0x12 => some (.cvtF32E5m2Bk d a 2#2)
  | 0x13 => some (.cvtF32E5m2Bk d a 3#2)
  | 0x14 => some (.frnd d a)
  | 0x15 => some (.fclass d a)
  | 0x16 => some (.fabs d a)
  | 0x17 => some (.fneg d a)
  | 0x18 => some (.ineg d a)
  | 0x19 => some (.iabs d a)
  | 0x1A => some (.not d a)
  | 0x1B => some (.popc d a)
  | 0x1C => some (.clz d a)
  | 0x1D => some (.brev d a)
  | 0x1E => some (.mov d a)
  | 0x20 => some (.rcp d a)
  | 0x21 => some (.rsq d a)
  | 0x22 => some (.sqrt d a)
  | 0x23 => some (.exp2 d a)
  | 0x24 => some (.log2 d a)
  | 0x25 => some (.sin d a)
  | 0x26 => some (.cos d a)
  | 0x27 => some (.tanh d a)
  | 0x28 => some (.sigm d a)
  | 0x30 => if d &&& 0xF8#8 = 0x00#8 ∧ a &&& 0xF8#8 = 0x00#8 then some (.voteAny (d.extractLsb' 0 3) (a.extractLsb' 0 3)) else none
  | 0x31 => if d &&& 0xF8#8 = 0x00#8 ∧ a &&& 0xF8#8 = 0x00#8 then some (.voteAll (d.extractLsb' 0 3) (a.extractLsb' 0 3)) else none
  | 0x32 => if a &&& 0xF8#8 = 0x00#8 then some (.ballot d (a.extractLsb' 0 3)) else none
  | 0x38 => some (.reduceIadd d a)
  | 0x39 => some (.reduceFadd d a)
  | 0x3A => some (.reduceFmin d a)
  | 0x3B => some (.reduceFmax d a)
  | 0x3C => some (.reduceUmin d a)
  | 0x3D => some (.reduceUmax d a)
  | 0x3E => some (.reduceAnd d a)
  | 0x3F => some (.reduceOr d a)
  | 0x40 => some (.reduceXor d a)
  | 0x42 => some (.scanIadd d a)
  | 0x43 => some (.scanFadd d a)
  | 0x44 => some (.bcast d a)
  | 0x50 => if d &&& 0xC0#8 = 0x00#8 ∧ a &&& 0xF8#8 = 0x00#8 then some (.mand (d.extractLsb' 0 3) (d.extractLsb' 3 3) (a.extractLsb' 0 3)) else none
  | 0x51 => if d &&& 0xC0#8 = 0x00#8 ∧ a &&& 0xF8#8 = 0x00#8 then some (.mor (d.extractLsb' 0 3) (d.extractLsb' 3 3) (a.extractLsb' 0 3)) else none
  | 0x52 => if d &&& 0xC0#8 = 0x00#8 ∧ a &&& 0xF8#8 = 0x00#8 then some (.mxor (d.extractLsb' 0 3) (d.extractLsb' 3 3) (a.extractLsb' 0 3)) else none
  | 0x53 => if d &&& 0xC0#8 = 0x00#8 ∧ a = 0x00#8 then some (.mnot (d.extractLsb' 0 3) (d.extractLsb' 3 3)) else none
  | 0x54 => if d &&& 0xC0#8 = 0x00#8 ∧ a = 0x00#8 then some (.mmov (d.extractLsb' 0 3) (d.extractLsb' 3 3)) else none
  | 0x55 => if d &&& 0xF8#8 = 0x00#8 then some (.mfromv (d.extractLsb' 0 3) a) else none
  | 0x56 => if a &&& 0xF8#8 = 0x00#8 then some (.mtov d (a.extractLsb' 0 3)) else none
  | 0x60 => some (.srd d a)
  | 0x61 => if d &&& 0x80#8 = 0x00#8 then some (.swr (d.extractLsb' 0 7) a) else if d &&& 0x80#8 = 0x80#8 then some (.swrOther (d.extractLsb' 0 7) a) else none
  | _ => none

/-- Family S (R41, R42), by FN. -/
noncomputable def decodeS (d a b : Byte) : Option Instr :=
  match b.toNat with
  | 0x00 => if d &&& 0xC0#8 = 0x00#8 then some (.tcopyIn (d.extractLsb' 0 6) a) else none
  | 0x01 => if d &&& 0xC0#8 = 0x00#8 then some (.tcopyOut (d.extractLsb' 0 6) a) else none
  | 0x02 => if d = 0x00#8 then some (.waitany a) else none
  | 0x03 => if d = 0x00#8 then some (.waitall a) else none
  | 0x04 => if a = 0x00#8 then some (.tffr d) else none
  | 0x05 => if d = 0x00#8 then some (.tclr a) else none
  | 0x06 => if d = 0x00#8 then some (.park a) else none
  | 0x07 => if d = 0x00#8 ∧ a = 0x00#8 then some .yield else none
  | 0x08 => if d &&& 0xE0#8 = 0x00#8 ∧ a = 0x00#8 then some (.ovlLoad (d.extractLsb' 0 4) (d.extractLsb' 4 1)) else if d &&& 0xF0#8 = 0x80#8 then some (.ovlLoadTab (d.extractLsb' 0 4) a) else none
  | 0x09 => if d &&& 0xFE#8 = 0x00#8 ∧ a = 0x00#8 then some (.ovlWait (d.extractLsb' 0 1)) else none
  | 0x10 => if d &&& 0xFE#8 = 0x00#8 then some (.vfPush (d.extractLsb' 0 1) a) else none
  | 0x11 => if a &&& 0xFE#8 = 0x00#8 then some (.vfPop d (a.extractLsb' 0 1)) else none
  | 0x12 => if a &&& 0xFE#8 = 0x00#8 then some (.vfFree d (a.extractLsb' 0 1)) else none
  | 0x13 => if d &&& 0xF0#8 = 0x00#8 then some (.barInit (d.extractLsb' 0 4) a) else none
  | 0x14 => if d &&& 0xF0#8 = 0x00#8 ∧ a = 0x00#8 then some (.barArrive (d.extractLsb' 0 4)) else none
  | 0x15 => if d &&& 0xF0#8 = 0x00#8 ∧ a = 0x00#8 then some (.barWait (d.extractLsb' 0 4)) else none
  | 0x16 => if d &&& 0xF0#8 = 0x00#8 ∧ a = 0x00#8 then some (.barSync (d.extractLsb' 0 4)) else none
  | 0x17 => if d &&& 0xF0#8 = 0x00#8 then some (.barExpect (d.extractLsb' 0 4) a) else none
  | 0x18 => if d &&& 0xFC#8 = 0x00#8 then some (.xcopy (d.extractLsb' 0 2) a) else none
  | 0x19 => if d &&& 0xFC#8 = 0x00#8 then some (.xchain (d.extractLsb' 0 2) a) else none
  | 0x1A => if a &&& 0xFC#8 = 0x00#8 then some (.xstat d (a.extractLsb' 0 2)) else none
  | 0x1B => if d &&& 0xFC#8 = 0x00#8 ∧ a = 0x00#8 then some (.gateReq (d.extractLsb' 0 2)) else none
  | 0x1C => if d &&& 0xFC#8 = 0x00#8 ∧ a = 0x00#8 then some (.gateWake (d.extractLsb' 0 2)) else none
  | 0x1D => if a &&& 0xFC#8 = 0x00#8 then some (.gateStat d (a.extractLsb' 0 2)) else none
  | 0x1E => if d &&& 0xFC#8 = 0x00#8 ∧ a = 0x00#8 then some (.nthint (d.extractLsb' 0 2)) else none
  | 0x20 => if d = 0x00#8 then some (.spawn a) else none
  | 0x21 => if d = 0x00#8 then some (.gang a) else none
  | 0x22 => if d = 0x00#8 ∧ a = 0x00#8 then some .done else none
  | 0x23 => if d = 0x00#8 then some (.join a) else none
  | 0x24 => if d = 0x00#8 then some (.tsbSet a) else none
  | 0x25 => if d = 0x00#8 ∧ a = 0x00#8 then some .tsbRet else none
  | 0x26 => if d = 0x00#8 ∧ a = 0x00#8 then some .pmask else none
  | 0x27 => if d = 0x00#8 ∧ a = 0x00#8 then some .punmask else none
  | 0x28 => some (.strmPut d a)
  | 0x29 => some (.strmGet d a)
  | 0x2A => if a = 0x00#8 then some (.strmEos d) else none
  | 0x2B => some (.tlSig d a)
  | 0x2C => some (.tlWait d a)
  | 0x2D => some (.tlRead d a)
  | 0x2E => some (.pref d a)
  | 0x2F => if d = 0x00#8 then some (.swin a) else none
  | 0x30 => if d = 0x00#8 ∧ a = 0x00#8 then some .rft else none
  | 0x31 => if d = 0x00#8 then some (.cclr a) else none
  | 0x32 => if d &&& 0xFC#8 = 0x00#8 then some (.freply (d.extractLsb' 0 2) a) else none
  | 0x38 => some (.watchArm d a)
  | 0x39 => if d = 0x00#8 then some (.watchOff a) else none
  | 0x3A => some (.watchStat d a)
  | 0x3B => some (.xsemSig d a)
  | 0x3C => some (.xsemWait d a)
  | 0x3D => if d = 0x00#8 then some (.cmpClear a) else none
  | 0x3E => if d = 0x00#8 then some (.cmpDecomp a) else none
  | 0x3F => some (.cmpStat d a)
  | 0x40 => if d = 0x00#8 ∧ a = 0x00#8 then some .fence else none
  | _ => none

/-- Family G (R41, R42), by FN. -/
noncomputable def decodeG (d a b : Byte) : Option Instr :=
  match b.toNat with
  | 0x00 => some (.rayGo d a)
  | 0x01 => some (.rayGet d a)
  | 0x02 => if d &&& 0xF8#8 = 0x00#8 then some (.rayPoll (d.extractLsb' 0 3) a) else none
  | 0x03 => some (.genPin d a)
  | 0x04 => some (.genUnpin d a)
  | 0x05 => if d = 0x00#8 then some (.bldBuild a) else if d = 0x01#8 then some (.bldBuildNft a) else none
  | 0x06 => if d = 0x00#8 then some (.bldRefit a) else none
  | 0x07 => if d = 0x00#8 then some (.bldRebal a) else none
  | 0x08 => some (.bldStat d a)
  | 0x09 => some (.bldQual d a)
  | 0x10 => if d = 0x00#8 then some (.mvEmit a) else none
  | 0x11 => if d = 0x00#8 ∧ a = 0x00#8 then some .mvEnd else none
  | 0x12 => some (.atlReq d a)
  | 0x13 => some (.atlSmp d a)
  | 0x14 => if d = 0x00#8 then some (.atlDone a) else none
  | 0x15 => if d = 0x00#8 then some (.rgnWait a) else none
  | _ => none

/-- Family MFN (R41, R42), by FN. -/
def decodeMfn (d a b : Byte) : Option Instr :=
  match b.toNat with
  | 0x00 => if d &&& 0x80#8 = 0x00#8 ∧ a = 0x00#8 then some (.mzero (d.extractLsb' 0 7)) else none
  | 0x01 => if d = 0x00#8 then some (.mcfg a) else none
  | 0x02 => if d &&& 0x80#8 = 0x00#8 then some (.mdrain (d.extractLsb' 0 7) a) else none
  | 0x03 => if d &&& 0xFC#8 = 0x00#8 then some (.mtbl (d.extractLsb' 0 2) a) else none
  | 0x04 => if a = 0x00#8 then some (.mstat d) else none
  | _ => none

/-- A 32-bit word, by major opcode (R39). -/
noncomputable def decode32 (lo d a b : Byte) : Option Instr :=
  match lo.toNat with
  | 0x01 => some (.iadd d a b)
  | 0x03 => some (.isub d a b)
  | 0x05 => some (.imul d a b)
  | 0x07 => some (.imulh d a b)
  | 0x09 => some (.imulhu d a b)
  | 0x0B => some (.imad d a b)
  | 0x0D => some (.imin d a b)
  | 0x0F => some (.imax d a b)
  | 0x11 => some (.iminu d a b)
  | 0x13 => some (.imaxu d a b)
  | 0x15 => some (.and d a b)
  | 0x17 => some (.or d a b)
  | 0x19 => some (.xor d a b)
  | 0x1B => some (.andn d a b)
  | 0x1D => some (.shl d a b)
  | 0x1F => some (.shrl d a b)
  | 0x21 => some (.shra d a b)
  | 0x23 => some (.rotl d a b)
  | 0x25 => some (.bfx d a b)
  | 0x27 => some (.bfi d a b)
  | 0x29 => some (.iadd64 d a b)
  | 0x2B => some (.isub64 d a b)
  | 0x2D => some (.imulw d a b)
  | 0x2F => some (.imulwu d a b)
  | 0x31 => if d &&& 0xF8#8 = 0x00#8 then some (.icmpEq (d.extractLsb' 0 3) a b) else none
  | 0x33 => if d &&& 0xF8#8 = 0x00#8 then some (.icmpNe (d.extractLsb' 0 3) a b) else none
  | 0x35 => if d &&& 0xF8#8 = 0x00#8 then some (.icmpLt (d.extractLsb' 0 3) a b) else none
  | 0x37 => if d &&& 0xF8#8 = 0x00#8 then some (.icmpLe (d.extractLsb' 0 3) a b) else none
  | 0x39 => if d &&& 0xF8#8 = 0x00#8 then some (.icmpLtu (d.extractLsb' 0 3) a b) else none
  | 0x3B => if d &&& 0xF8#8 = 0x00#8 then some (.icmpLeu (d.extractLsb' 0 3) a b) else none
  | 0x3D => some (.sel d a b)
  | 0x3F => some (.iaddsat d a b)
  | 0x41 => some (.fadd d a b)
  | 0x43 => some (.fsub d a b)
  | 0x45 => some (.fmul d a b)
  | 0x47 => some (.ffma d a b)
  | 0x49 => some (.fmin d a b)
  | 0x4B => some (.fmax d a b)
  | 0x4D => if d &&& 0xF8#8 = 0x00#8 then some (.fcmpEq (d.extractLsb' 0 3) a b) else none
  | 0x4F => if d &&& 0xF8#8 = 0x00#8 then some (.fcmpLt (d.extractLsb' 0 3) a b) else none
  | 0x51 => if d &&& 0xF8#8 = 0x00#8 then some (.fcmpLe (d.extractLsb' 0 3) a b) else none
  | 0x53 => if d &&& 0xF8#8 = 0x00#8 then some (.fcmpUn (d.extractLsb' 0 3) a b) else none
  | 0x55 => some (.fcopysign d a b)
  | 0x57 => some (.fscale d a b)
  | 0x59 => some (.fdot2Bf16 d a b)
  | 0x5B => some (.fdot4E4m3 d a b)
  | 0x5D => some (.fdot4E5m2 d a b)
  | 0x61 => some (.hadd2Bf16 d a b)
  | 0x63 => some (.hmul2Bf16 d a b)
  | 0x65 => some (.hfma2Bf16 d a b)
  | 0x67 => some (.hmin2Bf16 d a b)
  | 0x69 => some (.hmax2Bf16 d a b)
  | 0x6B => some (.hadd2F16 d a b)
  | 0x6D => some (.hmul2F16 d a b)
  | 0x6F => some (.hfma2F16 d a b)
  | 0x71 => some (.hmin2F16 d a b)
  | 0x73 => some (.hmax2F16 d a b)
  | 0x75 => some (.pack2Bf16 d a b)
  | 0x77 => some (.pack2F16 d a b)
  | 0x79 => some (.pack4E4m3 d a b)
  | 0x7B => some (.pack4E5m2 d a b)
  | 0x7D => some (.bmix d a b)
  | 0x81 => some (.iaddi d (b ++ a))
  | 0x83 => some (.andi d (b ++ a))
  | 0x85 => some (.ori d (b ++ a))
  | 0x87 => some (.xori d (b ++ a))
  | 0x89 => some (.movi d (b ++ a))
  | 0x8B => some (.movhi d (b ++ a))
  | 0x8D => if a &&& 0xE0#8 = 0x00#8 ∧ b = 0x00#8 then some (.shli d (a.extractLsb' 0 5)) else none
  | 0x8F => if a &&& 0xE0#8 = 0x00#8 ∧ b = 0x00#8 then some (.shrli d (a.extractLsb' 0 5)) else none
  | 0x91 => if a &&& 0xE0#8 = 0x00#8 ∧ b = 0x00#8 then some (.shrai d (a.extractLsb' 0 5)) else none
  | 0x93 => some (.icmpiEq d (a.extractLsb' 0 3) (b ++ a.extractLsb' 3 5))
  | 0x95 => some (.icmpiLt d (a.extractLsb' 0 3) (b ++ a.extractLsb' 3 5))
  | 0x97 => some (.fmovi d (b ++ a))
  | 0x99 => some (.lxPick d a b)
  | 0x9B => some (.lxMirror d a b)
  | 0x9D => some (.lxRot d a b)
  | 0x9F => some (.lxSlide d a b)
  | 0xA1 => some (.ldB d a b)
  | 0xA3 => some (.ldBs d a b)
  | 0xA5 => some (.ldH d a b)
  | 0xA7 => some (.ldHs d a b)
  | 0xA9 => some (.ldW d a b)
  | 0xAB => some (.ldD d a b)
  | 0xAD => some (.ldQ d a b)
  | 0xAF => some (.stB d a b)
  | 0xB1 => some (.stH d a b)
  | 0xB3 => some (.stW d a b)
  | 0xB5 => some (.stD d a b)
  | 0xB7 => some (.stQ d a b)
  | 0xB9 => some (.ldc d a b)
  | 0xBB => some (.ldrawW d a b)
  | 0xBD => some (.strawW d a b)
  | 0xC1 => some (.atomAdd d a b)
  | 0xC3 => some (.atomSmin d a b)
  | 0xC5 => some (.atomSmax d a b)
  | 0xC7 => some (.atomUmin d a b)
  | 0xC9 => some (.atomUmax d a b)
  | 0xCB => some (.atomAnd d a b)
  | 0xCD => some (.atomOr d a b)
  | 0xCF => some (.atomXor d a b)
  | 0xD1 => some (.atomXchg d a b)
  | 0xD3 => some (.atomCas d a b)
  | 0xD5 => some (.atomFadd d a b)
  | 0xD7 => some (.atomaggAdd d a b)
  | 0xD9 => some (.ldt d a b)
  | 0xDB => some (.stt d a b)
  | 0xDD => some (.tatomAdd d a b)
  | 0xDF => some (.tatomCas d a b)
  | 0xE1 => some (.bra (d.extractLsb' 0 3) (d.extractLsb' 3 1) (b ++ a ++ d.extractLsb' 4 4))
  | 0xE3 => some (.call (d.extractLsb' 0 3) (d.extractLsb' 3 1) (b ++ a ++ d.extractLsb' 4 4))
  | 0xE5 => if d = 0x00#8 ∧ b &&& 0xF0#8 = 0x00#8 then some (.bri a (b.extractLsb' 0 4)) else none
  | 0xE7 => if d = 0x00#8 ∧ b &&& 0xF0#8 = 0x00#8 then some (.calli a (b.extractLsb' 0 4)) else none
  | 0xE9 => if d &&& 0xF0#8 = 0x00#8 ∧ a = 0x00#8 ∧ b = 0x00#8 then some (.ret (d.extractLsb' 0 3) (d.extractLsb' 3 1)) else none
  | 0xEB => if d &&& 0xF0#8 = 0x00#8 ∧ a = 0x00#8 ∧ b = 0x00#8 then some (.exit (d.extractLsb' 0 3) (d.extractLsb' 3 1)) else none
  | 0xED => if a &&& 0xF0#8 = 0x00#8 ∧ b = 0x00#8 then some (.trap (d.extractLsb' 0 3) (d.extractLsb' 3 1) (a.extractLsb' 0 4 ++ d.extractLsb' 4 4)) else none
  | 0xF1 => some (.mma (d.extractLsb' 0 7) (d.extractLsb' 7 1) a b)
  | 0xF3 => if d &&& 0x80#8 = 0x00#8 then some (.mvs (d.extractLsb' 0 7) a b) else none
  | 0xF5 => decodeMfn d a b
  | 0xF9 => decodeX d a b
  | 0xFB => decodeS d a b
  | 0xFD => decodeG d a b
  | _ => none

/-- The decoding of a whole instruction: what is assigned, and then well formed. -/
def checked : Option Instr → Except DecodeError Instr
  | none => .error .unassigned
  | some i => if i.wellFormed then .ok i else .error .operand

/-- Reads one instruction from bytes, lowest address first, and answers it with the bytes after it. Bit 0 of the first byte gives the
length (R26). -/
noncomputable def decode : List Byte → Except DecodeError (Instr × List Byte)
  | lo :: d :: rest =>
    if lo.getLsbD 0 then
      match rest with
      | a :: b :: rest' => (checked (decode32 lo d a b)).map fun i => (i, rest')
      | _ => .error .short
    else (checked (decode16 (d ++ lo))).map fun i => (i, rest)
  | _ => .error .short

/-- The four bytes of a word, lowest address first. -/
def wordBytes (w : Word) : List Byte :=
  [w.extractLsb' 0 8, w.extractLsb' 8 8, w.extractLsb' 16 8, w.extractLsb' 24 8]

/-- The instruction that stands in a word numbered as the opcode table numbers it, `nbits` bits long; the bits above are 0. -/
noncomputable def decodeTableWord (nbits w : Nat) : Option Instr :=
  match decode (wordBytes (BitVec.ofNat 32 (w % 2 ^ nbits))) with
  | .ok (i, _) => some i
  | .error _ => none

/-- The fields of a vector prefix word (R34), or none where a reserved bit is set. -/
structure VectorFields where
  c : Code
  rm : BitVec 3
  zero : Bool
  men : Bool
  pred : PredNo
  deriving DecidableEq, Repr

/-- The fields of a memory prefix word (R36). -/
structure MemoryFields where
  wide : Bool
  nt : Bool
  sc : Bool
  ord : BitVec 2
  scope : BitVec 3
  deriving DecidableEq, Repr

/-- A prefix word: its low byte is 0xFF and bits [9:8] are KIND. -/
inductive PrefixWord where
  | vector (f : VectorFields)
  | memory (f : MemoryFields)
  deriving DecidableEq, Repr

/-- Decodes a prefix word. KIND 2 and 3, reserved bits, RM 5 to 7 and SCOPE 5 to 7 are refused (R34, R36, R44). -/
def decodePrefix (w : Word) : Option PrefixWord :=
  match (w.extractLsb' 8 2).toNat with
  | 0 =>
    if w.extractLsb' 26 6 = 0#6 ∧ (w.extractLsb' 15 3).toNat ≤ 4 then
      some (.vector ⟨w.extractLsb' 18 8, w.extractLsb' 15 3, w.getLsbD 14, w.getLsbD 13, w.extractLsb' 10 3⟩)
    else none
  | 1 =>
    if w.extractLsb' 18 14 = 0#14 ∧ (w.extractLsb' 10 3).toNat ≤ 4 then
      some (.memory ⟨w.getLsbD 17, w.getLsbD 16, w.getLsbD 15, w.extractLsb' 13 2, w.extractLsb' 10 3⟩)
    else none
  | _ => none

/-- The encoding of an instruction: its bytes, lowest address first (R29 to R42). The steps that have no encoding have no bytes. -/
def encode : Instr → List Byte
  | .iadd d a b => [0x1#8, d, a, b]
  | .isub d a b => [0x3#8, d, a, b]
  | .imul d a b => [0x5#8, d, a, b]
  | .imulh d a b => [0x7#8, d, a, b]
  | .imulhu d a b => [0x9#8, d, a, b]
  | .imad d a b => [0xB#8, d, a, b]
  | .imin d a b => [0xD#8, d, a, b]
  | .imax d a b => [0xF#8, d, a, b]
  | .iminu d a b => [0x11#8, d, a, b]
  | .imaxu d a b => [0x13#8, d, a, b]
  | .and d a b => [0x15#8, d, a, b]
  | .or d a b => [0x17#8, d, a, b]
  | .xor d a b => [0x19#8, d, a, b]
  | .andn d a b => [0x1B#8, d, a, b]
  | .shl d a b => [0x1D#8, d, a, b]
  | .shrl d a b => [0x1F#8, d, a, b]
  | .shra d a b => [0x21#8, d, a, b]
  | .rotl d a b => [0x23#8, d, a, b]
  | .bfx d a b => [0x25#8, d, a, b]
  | .bfi d a b => [0x27#8, d, a, b]
  | .iadd64 d a b => [0x29#8, d, a, b]
  | .isub64 d a b => [0x2B#8, d, a, b]
  | .imulw d a b => [0x2D#8, d, a, b]
  | .imulwu d a b => [0x2F#8, d, a, b]
  | .icmpEq m a b => [0x31#8, 0x0#5 ++ m, a, b]
  | .icmpNe m a b => [0x33#8, 0x0#5 ++ m, a, b]
  | .icmpLt m a b => [0x35#8, 0x0#5 ++ m, a, b]
  | .icmpLe m a b => [0x37#8, 0x0#5 ++ m, a, b]
  | .icmpLtu m a b => [0x39#8, 0x0#5 ++ m, a, b]
  | .icmpLeu m a b => [0x3B#8, 0x0#5 ++ m, a, b]
  | .sel d a b => [0x3D#8, d, a, b]
  | .iaddsat d a b => [0x3F#8, d, a, b]
  | .fadd d a b => [0x41#8, d, a, b]
  | .fsub d a b => [0x43#8, d, a, b]
  | .fmul d a b => [0x45#8, d, a, b]
  | .ffma d a b => [0x47#8, d, a, b]
  | .fmin d a b => [0x49#8, d, a, b]
  | .fmax d a b => [0x4B#8, d, a, b]
  | .fcmpEq m a b => [0x4D#8, 0x0#5 ++ m, a, b]
  | .fcmpLt m a b => [0x4F#8, 0x0#5 ++ m, a, b]
  | .fcmpLe m a b => [0x51#8, 0x0#5 ++ m, a, b]
  | .fcmpUn m a b => [0x53#8, 0x0#5 ++ m, a, b]
  | .fcopysign d a b => [0x55#8, d, a, b]
  | .fscale d a b => [0x57#8, d, a, b]
  | .fdot2Bf16 d a b => [0x59#8, d, a, b]
  | .fdot4E4m3 d a b => [0x5B#8, d, a, b]
  | .fdot4E5m2 d a b => [0x5D#8, d, a, b]
  | .hadd2Bf16 d a b => [0x61#8, d, a, b]
  | .hmul2Bf16 d a b => [0x63#8, d, a, b]
  | .hfma2Bf16 d a b => [0x65#8, d, a, b]
  | .hmin2Bf16 d a b => [0x67#8, d, a, b]
  | .hmax2Bf16 d a b => [0x69#8, d, a, b]
  | .hadd2F16 d a b => [0x6B#8, d, a, b]
  | .hmul2F16 d a b => [0x6D#8, d, a, b]
  | .hfma2F16 d a b => [0x6F#8, d, a, b]
  | .hmin2F16 d a b => [0x71#8, d, a, b]
  | .hmax2F16 d a b => [0x73#8, d, a, b]
  | .pack2Bf16 d a b => [0x75#8, d, a, b]
  | .pack2F16 d a b => [0x77#8, d, a, b]
  | .pack4E4m3 d a b => [0x79#8, d, a, b]
  | .pack4E5m2 d a b => [0x7B#8, d, a, b]
  | .bmix d a b => [0x7D#8, d, a, b]
  | .iaddi d i => [0x81#8, d, i.extractLsb' 0 8, i.extractLsb' 8 8]
  | .andi d i => [0x83#8, d, i.extractLsb' 0 8, i.extractLsb' 8 8]
  | .ori d i => [0x85#8, d, i.extractLsb' 0 8, i.extractLsb' 8 8]
  | .xori d i => [0x87#8, d, i.extractLsb' 0 8, i.extractLsb' 8 8]
  | .movi d i => [0x89#8, d, i.extractLsb' 0 8, i.extractLsb' 8 8]
  | .movhi d i => [0x8B#8, d, i.extractLsb' 0 8, i.extractLsb' 8 8]
  | .shli d i => [0x8D#8, d, 0x0#3 ++ i, 0x0#8]
  | .shrli d i => [0x8F#8, d, 0x0#3 ++ i, 0x0#8]
  | .shrai d i => [0x91#8, d, 0x0#3 ++ i, 0x0#8]
  | .icmpiEq s m i => [0x93#8, s, i.extractLsb' 0 5 ++ m, i.extractLsb' 5 8]
  | .icmpiLt s m i => [0x95#8, s, i.extractLsb' 0 5 ++ m, i.extractLsb' 5 8]
  | .fmovi d i => [0x97#8, d, i.extractLsb' 0 8, i.extractLsb' 8 8]
  | .lxPick d a b => [0x99#8, d, a, b]
  | .lxMirror d a b => [0x9B#8, d, a, b]
  | .lxRot d a b => [0x9D#8, d, a, b]
  | .lxSlide d a b => [0x9F#8, d, a, b]
  | .ldB d a o => [0xA1#8, d, a, o]
  | .ldBs d a o => [0xA3#8, d, a, o]
  | .ldH d a o => [0xA5#8, d, a, o]
  | .ldHs d a o => [0xA7#8, d, a, o]
  | .ldW d a o => [0xA9#8, d, a, o]
  | .ldD d a o => [0xAB#8, d, a, o]
  | .ldQ d a o => [0xAD#8, d, a, o]
  | .stB d a o => [0xAF#8, d, a, o]
  | .stH d a o => [0xB1#8, d, a, o]
  | .stW d a o => [0xB3#8, d, a, o]
  | .stD d a o => [0xB5#8, d, a, o]
  | .stQ d a o => [0xB7#8, d, a, o]
  | .ldc d a o => [0xB9#8, d, a, o]
  | .ldrawW d a o => [0xBB#8, d, a, o]
  | .strawW d a o => [0xBD#8, d, a, o]
  | .atomAdd d a b => [0xC1#8, d, a, b]
  | .atomSmin d a b => [0xC3#8, d, a, b]
  | .atomSmax d a b => [0xC5#8, d, a, b]
  | .atomUmin d a b => [0xC7#8, d, a, b]
  | .atomUmax d a b => [0xC9#8, d, a, b]
  | .atomAnd d a b => [0xCB#8, d, a, b]
  | .atomOr d a b => [0xCD#8, d, a, b]
  | .atomXor d a b => [0xCF#8, d, a, b]
  | .atomXchg d a b => [0xD1#8, d, a, b]
  | .atomCas d a b => [0xD3#8, d, a, b]
  | .atomFadd d a b => [0xD5#8, d, a, b]
  | .atomaggAdd d a b => [0xD7#8, d, a, b]
  | .ldt d a o => [0xD9#8, d, a, o]
  | .stt d a o => [0xDB#8, d, a, o]
  | .tatomAdd d a b => [0xDD#8, d, a, b]
  | .tatomCas d a b => [0xDF#8, d, a, b]
  | .bra p n o => [0xE1#8, o.extractLsb' 0 4 ++ n ++ p, o.extractLsb' 4 8, o.extractLsb' 12 8]
  | .call p n o => [0xE3#8, o.extractLsb' 0 4 ++ n ++ p, o.extractLsb' 4 8, o.extractLsb' 12 8]
  | .bri a t => [0xE5#8, 0x0#8, a, 0x0#4 ++ t]
  | .calli a t => [0xE7#8, 0x0#8, a, 0x0#4 ++ t]
  | .ret p n => [0xE9#8, 0x0#4 ++ n ++ p, 0x0#8, 0x0#8]
  | .exit p n => [0xEB#8, 0x0#4 ++ n ++ p, 0x0#8, 0x0#8]
  | .trap p n i => [0xED#8, i.extractLsb' 0 4 ++ n ++ p, 0x0#4 ++ i.extractLsb' 4 4, 0x0#8]
  | .mma t r a b => [0xF1#8, r ++ t, a, b]
  | .mvs t a b => [0xF3#8, 0x0#1 ++ t, a, b]
  | .mzero t => [0xF5#8, 0x0#1 ++ t, 0x0#8, 0x0#8]
  | .mcfg a => [0xF5#8, 0x0#8, a, 0x1#8]
  | .mdrain t a => [0xF5#8, 0x0#1 ++ t, a, 0x2#8]
  | .mtbl t a => [0xF5#8, 0x0#6 ++ t, a, 0x3#8]
  | .mstat d => [0xF5#8, d, 0x0#8, 0x4#8]
  | .cvtF32I32 d a => [0xF9#8, d, a, 0x0#8]
  | .cvtF32U32 d a => [0xF9#8, d, a, 0x1#8]
  | .cvtI32F32 d a => [0xF9#8, d, a, 0x2#8]
  | .cvtU32F32 d a => [0xF9#8, d, a, 0x3#8]
  | .cvtF32Bf16 d a => [0xF9#8, d, a, 0x4#8]
  | .cvtF32Bf16h d a => [0xF9#8, d, a, 0x5#8]
  | .cvtF32F16 d a => [0xF9#8, d, a, 0x6#8]
  | .cvtF32F16h d a => [0xF9#8, d, a, 0x7#8]
  | .cvtBf16F32 d a => [0xF9#8, d, a, 0x8#8]
  | .cvtF16F32 d a => [0xF9#8, d, a, 0x9#8]
  | .cvtE4m3F32 d a => [0xF9#8, d, a, 0xA#8]
  | .cvtE5m2F32 d a => [0xF9#8, d, a, 0xB#8]
  | .cvtF32E4m3Bk d a k => [0xF9#8, d, a, 0x3#6 ++ k]
  | .cvtF32E5m2Bk d a k => [0xF9#8, d, a, 0x4#6 ++ k]
  | .frnd d a => [0xF9#8, d, a, 0x14#8]
  | .fclass d a => [0xF9#8, d, a, 0x15#8]
  | .fabs d a => [0xF9#8, d, a, 0x16#8]
  | .fneg d a => [0xF9#8, d, a, 0x17#8]
  | .ineg d a => [0xF9#8, d, a, 0x18#8]
  | .iabs d a => [0xF9#8, d, a, 0x19#8]
  | .not d a => [0xF9#8, d, a, 0x1A#8]
  | .popc d a => [0xF9#8, d, a, 0x1B#8]
  | .clz d a => [0xF9#8, d, a, 0x1C#8]
  | .brev d a => [0xF9#8, d, a, 0x1D#8]
  | .mov d a => [0xF9#8, d, a, 0x1E#8]
  | .rcp d a => [0xF9#8, d, a, 0x20#8]
  | .rsq d a => [0xF9#8, d, a, 0x21#8]
  | .sqrt d a => [0xF9#8, d, a, 0x22#8]
  | .exp2 d a => [0xF9#8, d, a, 0x23#8]
  | .log2 d a => [0xF9#8, d, a, 0x24#8]
  | .sin d a => [0xF9#8, d, a, 0x25#8]
  | .cos d a => [0xF9#8, d, a, 0x26#8]
  | .tanh d a => [0xF9#8, d, a, 0x27#8]
  | .sigm d a => [0xF9#8, d, a, 0x28#8]
  | .voteAny d a => [0xF9#8, 0x0#5 ++ d, 0x0#5 ++ a, 0x30#8]
  | .voteAll d a => [0xF9#8, 0x0#5 ++ d, 0x0#5 ++ a, 0x31#8]
  | .ballot d a => [0xF9#8, d, 0x0#5 ++ a, 0x32#8]
  | .reduceIadd d a => [0xF9#8, d, a, 0x38#8]
  | .reduceFadd d a => [0xF9#8, d, a, 0x39#8]
  | .reduceFmin d a => [0xF9#8, d, a, 0x3A#8]
  | .reduceFmax d a => [0xF9#8, d, a, 0x3B#8]
  | .reduceUmin d a => [0xF9#8, d, a, 0x3C#8]
  | .reduceUmax d a => [0xF9#8, d, a, 0x3D#8]
  | .reduceAnd d a => [0xF9#8, d, a, 0x3E#8]
  | .reduceOr d a => [0xF9#8, d, a, 0x3F#8]
  | .reduceXor d a => [0xF9#8, d, a, 0x40#8]
  | .scanIadd d a => [0xF9#8, d, a, 0x42#8]
  | .scanFadd d a => [0xF9#8, d, a, 0x43#8]
  | .bcast d a => [0xF9#8, d, a, 0x44#8]
  | .mand d s t => [0xF9#8, 0x0#2 ++ s ++ d, 0x0#5 ++ t, 0x50#8]
  | .mor d s t => [0xF9#8, 0x0#2 ++ s ++ d, 0x0#5 ++ t, 0x51#8]
  | .mxor d s t => [0xF9#8, 0x0#2 ++ s ++ d, 0x0#5 ++ t, 0x52#8]
  | .mnot d s => [0xF9#8, 0x0#2 ++ s ++ d, 0x0#8, 0x53#8]
  | .mmov d s => [0xF9#8, 0x0#2 ++ s ++ d, 0x0#8, 0x54#8]
  | .mfromv d a => [0xF9#8, 0x0#5 ++ d, a, 0x55#8]
  | .mtov d a => [0xF9#8, d, 0x0#5 ++ a, 0x56#8]
  | .srd d n => [0xF9#8, d, n, 0x60#8]
  | .swr n a => [0xF9#8, 0x0#1 ++ n, a, 0x61#8]
  | .swrOther n a => [0xF9#8, 0x1#1 ++ n, a, 0x61#8]
  | .c16Mov d s => [d.extractLsb' 0 3 ++ 0x0#5, s ++ d.extractLsb' 3 3]
  | .c16Iadd d s => [d.extractLsb' 0 3 ++ 0x2#5, s ++ d.extractLsb' 3 3]
  | .c16Isub d s => [d.extractLsb' 0 3 ++ 0x4#5, s ++ d.extractLsb' 3 3]
  | .c16Imul d s => [d.extractLsb' 0 3 ++ 0x6#5, s ++ d.extractLsb' 3 3]
  | .c16And d s => [d.extractLsb' 0 3 ++ 0x8#5, s ++ d.extractLsb' 3 3]
  | .c16Or d s => [d.extractLsb' 0 3 ++ 0xA#5, s ++ d.extractLsb' 3 3]
  | .c16Xor d s => [d.extractLsb' 0 3 ++ 0xC#5, s ++ d.extractLsb' 3 3]
  | .c16Shl d s => [d.extractLsb' 0 3 ++ 0xE#5, s ++ d.extractLsb' 3 3]
  | .c16Shrl d s => [d.extractLsb' 0 3 ++ 0x10#5, s ++ d.extractLsb' 3 3]
  | .c16Shra d s => [d.extractLsb' 0 3 ++ 0x12#5, s ++ d.extractLsb' 3 3]
  | .c16Fadd d s => [d.extractLsb' 0 3 ++ 0x14#5, s ++ d.extractLsb' 3 3]
  | .c16Fsub d s => [d.extractLsb' 0 3 ++ 0x16#5, s ++ d.extractLsb' 3 3]
  | .c16Fmul d s => [d.extractLsb' 0 3 ++ 0x18#5, s ++ d.extractLsb' 3 3]
  | .c16Fmax d s => [d.extractLsb' 0 3 ++ 0x1A#5, s ++ d.extractLsb' 3 3]
  | .c16Fmin d s => [d.extractLsb' 0 3 ++ 0x1C#5, s ++ d.extractLsb' 3 3]
  | .nop => [0x1E#8, 0x0#8]
  | .c16Yield => [0x1E#8, 0x8#8]
  | .tcopyIn t a => [0xFB#8, 0x0#2 ++ t, a, 0x0#8]
  | .tcopyOut t a => [0xFB#8, 0x0#2 ++ t, a, 0x1#8]
  | .waitany a => [0xFB#8, 0x0#8, a, 0x2#8]
  | .waitall a => [0xFB#8, 0x0#8, a, 0x3#8]
  | .tffr d => [0xFB#8, d, 0x0#8, 0x4#8]
  | .tclr a => [0xFB#8, 0x0#8, a, 0x5#8]
  | .park a => [0xFB#8, 0x0#8, a, 0x6#8]
  | .yield => [0xFB#8, 0x0#8, 0x0#8, 0x7#8]
  | .ovlLoad n s => [0xFB#8, 0x0#3 ++ s ++ n, 0x0#8, 0x8#8]
  | .ovlLoadTab n a => [0xFB#8, 0x8#4 ++ n, a, 0x8#8]
  | .ovlWait s => [0xFB#8, 0x0#7 ++ s, 0x0#8, 0x9#8]
  | .vfPush f a => [0xFB#8, 0x0#7 ++ f, a, 0x10#8]
  | .vfPop d f => [0xFB#8, d, 0x0#7 ++ f, 0x11#8]
  | .vfFree d f => [0xFB#8, d, 0x0#7 ++ f, 0x12#8]
  | .barInit n a => [0xFB#8, 0x0#4 ++ n, a, 0x13#8]
  | .barArrive n => [0xFB#8, 0x0#4 ++ n, 0x0#8, 0x14#8]
  | .barWait n => [0xFB#8, 0x0#4 ++ n, 0x0#8, 0x15#8]
  | .barSync n => [0xFB#8, 0x0#4 ++ n, 0x0#8, 0x16#8]
  | .barExpect n a => [0xFB#8, 0x0#4 ++ n, a, 0x17#8]
  | .xcopy c a => [0xFB#8, 0x0#6 ++ c, a, 0x18#8]
  | .xchain c a => [0xFB#8, 0x0#6 ++ c, a, 0x19#8]
  | .xstat d c => [0xFB#8, d, 0x0#6 ++ c, 0x1A#8]
  | .gateReq p => [0xFB#8, 0x0#6 ++ p, 0x0#8, 0x1B#8]
  | .gateWake p => [0xFB#8, 0x0#6 ++ p, 0x0#8, 0x1C#8]
  | .gateStat d p => [0xFB#8, d, 0x0#6 ++ p, 0x1D#8]
  | .nthint h => [0xFB#8, 0x0#6 ++ h, 0x0#8, 0x1E#8]
  | .spawn a => [0xFB#8, 0x0#8, a, 0x20#8]
  | .gang a => [0xFB#8, 0x0#8, a, 0x21#8]
  | .done => [0xFB#8, 0x0#8, 0x0#8, 0x22#8]
  | .join a => [0xFB#8, 0x0#8, a, 0x23#8]
  | .tsbSet a => [0xFB#8, 0x0#8, a, 0x24#8]
  | .tsbRet => [0xFB#8, 0x0#8, 0x0#8, 0x25#8]
  | .pmask => [0xFB#8, 0x0#8, 0x0#8, 0x26#8]
  | .punmask => [0xFB#8, 0x0#8, 0x0#8, 0x27#8]
  | .strmPut s a => [0xFB#8, s, a, 0x28#8]
  | .strmGet d s => [0xFB#8, d, s, 0x29#8]
  | .strmEos s => [0xFB#8, s, 0x0#8, 0x2A#8]
  | .tlSig k a => [0xFB#8, k, a, 0x2B#8]
  | .tlWait k a => [0xFB#8, k, a, 0x2C#8]
  | .tlRead d k => [0xFB#8, d, k, 0x2D#8]
  | .pref k a => [0xFB#8, k, a, 0x2E#8]
  | .swin a => [0xFB#8, 0x0#8, a, 0x2F#8]
  | .rft => [0xFB#8, 0x0#8, 0x0#8, 0x30#8]
  | .cclr a => [0xFB#8, 0x0#8, a, 0x31#8]
  | .freply c a => [0xFB#8, 0x0#6 ++ c, a, 0x32#8]
  | .watchArm d a => [0xFB#8, d, a, 0x38#8]
  | .watchOff a => [0xFB#8, 0x0#8, a, 0x39#8]
  | .watchStat d a => [0xFB#8, d, a, 0x3A#8]
  | .xsemSig d a => [0xFB#8, d, a, 0x3B#8]
  | .xsemWait d a => [0xFB#8, d, a, 0x3C#8]
  | .cmpClear a => [0xFB#8, 0x0#8, a, 0x3D#8]
  | .cmpDecomp a => [0xFB#8, 0x0#8, a, 0x3E#8]
  | .cmpStat d a => [0xFB#8, d, a, 0x3F#8]
  | .fence => [0xFB#8, 0x0#8, 0x0#8, 0x40#8]
  | .rayGo d a => [0xFD#8, d, a, 0x0#8]
  | .rayGet d a => [0xFD#8, d, a, 0x1#8]
  | .rayPoll m a => [0xFD#8, 0x0#5 ++ m, a, 0x2#8]
  | .genPin d a => [0xFD#8, d, a, 0x3#8]
  | .genUnpin d a => [0xFD#8, d, a, 0x4#8]
  | .bldBuild a => [0xFD#8, 0x0#8, a, 0x5#8]
  | .bldBuildNft a => [0xFD#8, 0x1#8, a, 0x5#8]
  | .bldRefit a => [0xFD#8, 0x0#8, a, 0x6#8]
  | .bldRebal a => [0xFD#8, 0x0#8, a, 0x7#8]
  | .bldStat d a => [0xFD#8, d, a, 0x8#8]
  | .bldQual d a => [0xFD#8, d, a, 0x9#8]
  | .mvEmit a => [0xFD#8, 0x0#8, a, 0x10#8]
  | .mvEnd => [0xFD#8, 0x0#8, 0x0#8, 0x11#8]
  | .atlReq d a => [0xFD#8, d, a, 0x12#8]
  | .atlSmp d a => [0xFD#8, d, a, 0x13#8]
  | .atlDone a => [0xFD#8, 0x0#8, a, 0x14#8]
  | .rgnWait a => [0xFD#8, 0x0#8, a, 0x15#8]
  | .notedCauseDelivery
  | .windowEnter _
  | .shotReservation _
  | .shotRingVisit _
  | .shotReservoirFill _
  | .islandEnterNear _ _
  | .islandSwitchNominal _ _
  | .parkWriteOut _
  | .continuationResume _ _
  | .teamAdmit _ _
  | .tcopyComplete _ _
  | .ovlLoadComplete _ _
  | .drainColumnReady _ _
  | .eccScrub _
  | .copyRecordStart _ _
  | .copyRecordComplete _ _
  | .gateDrainDone _ _
  | .gateHoldEnd _ _
  | .gateRampStart _ _
  | .gateRampDone _ _
  | .gateRampFail _ _
  | .gateMcWake _ _
  | .xinvPage _ _
  | .xinvAsid _ _
  | .xinvAll _
  | .xinvComplete _
  | .fqcfgWrite _ _
  | .faultRecordWrite _
  | .prefComplete _ _
  | .timelineValueStore _ _ _
  | .storeReachHome _ _
  | .viewUpdate _ _
  | .qtbaseWrite _ _
  | .coreenWrite _ _ _
  | .preemptWrite _ _
  | .preemptSelect _ _
  | .pmaskTimeout _
  | .queueEnable _ _
  | .queueTailStore _ _ _
  | .recordTake _ _
  | .remapTick _
  | .queueAging _ _
  | .launchComplete _
  | .completionWrite _
  | .streamEnable _ _
  | .springRetry _
  | .doneTakeEffect _
  | .builderJobStart _
  | .builderPublish _ _
  | .builderJobFail _ _
  | .rayQueryComplete _
  | .rayQueryFault _
  | .semaphoreStore _ _
  | .watchHoldoffEnd _
  | .watchIntervalEnd _
  | .memoryPatrolScrub _
  | .frameStart _ _
  | .packetForward _
  | .watermarkUpdate _ _
  | .packetConsume _ _
  | .atlasRequestWalk _
  | .moduleBoot _ _ _
  | .freqSwitch
  | .powerSample _ _
  | .thermalCut _
  | .sensorSample _
  | .reasonClear _
  | .snapArm _
  | .snapFire _
  | .snapPin
  | .snapLatch
  | .mbLog
  | .mbStage
  | .mbActivate
  | .mbAttest
  | .mbSnapread
  | .mbCert
  | .flitReceive _ _
  | .portRetrain _
  | .remoteAccessTimeout _
  | .hostWrite _ _ _
  | .hostRead _ _ _
  | .registerWrite _ _
  | .illegalEncoding
  | .portTrain _ _ _
  | .queueDisable _ _
  | .byteBudgetInterval _
  | .eccError _ _
  | .supplyLoss _
  | .mcNominalDemand _ _
  | .pcieCompletion _ _ => []

end Sys2Proof
end

