-- ==== Sys2Proof/Machine/Tab.lean ====
section
/-! DEFINITION. Sparse tables: lists of key and value with strictly rising keys, and the few list helpers the machine uses. All
recursion is structural, so that Lean's kernel can evaluate it. -/

namespace Sys2Proof

/-- A sparse table: strictly rising keys. -/
abbrev Tab (α : Type) := List (Nat × α)

/-- The value at a key, if it is listed. -/
def Tab.find {α : Type} : Tab α → Nat → Option α
  | [], _ => none
  | (j, a) :: t, k => if j = k then some a else Tab.find t k

/-- The value at a key, or the default. -/
def Tab.get {α : Type} (t : Tab α) (dflt : α) (k : Nat) : α := (Tab.find t k).getD dflt

/-- Put a value at a key, in order. -/
def Tab.put {α : Type} : Tab α → Nat → α → Tab α
  | [], k, a => [(k, a)]
  | (j, b) :: t, k, a =>
    if k < j then (k, a) :: (j, b) :: t
    else if j = k then (k, a) :: t
    else (j, b) :: Tab.put t k a

/-- Remove a key. -/
def Tab.del {α : Type} : Tab α → Nat → Tab α
  | [], _ => []
  | (j, b) :: t, k => if j = k then Tab.del t k else (j, b) :: Tab.del t k

/-- Put a value at a key, in the canonical form in which the default is not listed. -/
def Tab.putD {α : Type} [DecidableEq α] (t : Tab α) (dflt : α) (k : Nat) (a : α) : Tab α :=
  if a = dflt then Tab.del t k else Tab.put t k a

/-- The least key that is not listed, from `k` on. -/
def Tab.freeFrom {α : Type} : Tab α → Nat → Nat
  | [], k => k
  | (j, _) :: t, k => if j = k then Tab.freeFrom t (k + 1) else if j < k then Tab.freeFrom t k else k

/-- The numbers from `a`, `n` of them. -/
def upFrom (a : Nat) : Nat → List Nat
  | 0 => []
  | n + 1 => a :: upFrom (a + 1) n

/-- Replace the element at a position. -/
def listSet {α : Type} : List α → Nat → α → List α
  | [], _, _ => []
  | _ :: t, 0, a => a :: t
  | b :: t, n + 1, a => b :: listSet t n a

/-- Remove the element at a position. -/
def listDel {α : Type} : List α → Nat → List α
  | [], _ => []
  | _ :: t, 0 => t
  | b :: t, n + 1 => b :: listDel t n

/-- Insert a number into a rising list without repeats. -/
def sortedInsert : List Nat → Nat → List Nat
  | [], a => [a]
  | b :: t, a => if a < b then a :: b :: t else if a = b then b :: t else b :: sortedInsert t a

/-- Insertion in rising order of a measure, before its equals, and the list in that order. -/
def insertBy (f : Nat → Nat) (a : Nat) : List Nat → List Nat
  | [] => [a]
  | b :: t => if f a ≤ f b then a :: b :: t else b :: insertBy f a t
def sortBy (f : Nat → Nat) : List Nat → List Nat
  | [] => []
  | a :: t => insertBy f a (sortBy f t)

end Sys2Proof
end

