-- ==== Sys2Proof/Machine/Bits.lean ====
section
/-! DEFINITION. Bit fields, byte order and sign extension. Multi-byte values are little-endian everywhere (R26, R54, R106). -/

namespace Sys2Proof

/-- Bits [lo + len − 1 : lo] of a number. -/
def fld (n lo len : Nat) : Nat := (n >>> lo) % 2 ^ len

/-- One bit of a number. -/
def bit (n k : Nat) : Bool := (n >>> k) % 2 == 1

/-- A Boolean as a bit. -/
def ofBool (b : Bool) : Nat := if b then 1 else 0

/-- The number that bytes hold, lowest address first. -/
def leNat : List Byte → Nat
  | [] => 0
  | b :: t => b.toNat + 256 * leNat t

/-- The low `len` bytes of a number, lowest address first. -/
def leBytes (n : Nat) : Nat → List Byte
  | 0 => []
  | len + 1 => BitVec.ofNat 8 n :: leBytes (n / 256) len

/-- A two's-complement number of `w` bits as an integer. -/
def toSigned (n w : Nat) : Int := if n < 2 ^ (w - 1) then (n : Int) else (n : Int) - (2 ^ w : Nat)

/-- The low 32 bits of a number. -/
def word (n : Nat) : Word := BitVec.ofNat 32 n

/-- The ceiling of a quotient. -/
def ceilDiv (a b : Nat) : Nat := (a + b - 1) / b

/-- Bytes `at` to `at + len - 1` of a list, missing bytes reading 0. -/
def slice (bs : List Byte) (at_ len : Nat) : List Byte :=
  let x := (bs.drop at_).take len
  x ++ List.replicate (len - x.length) 0

/-- The little-endian field of `len` bytes at an offset of a memory structure. -/
def field (bs : List Byte) (at_ len : Nat) : Nat := leNat (slice bs at_ len)

/-- Replaces bytes of a list from an offset on. -/
def patch (bs : List Byte) (at_ : Nat) (new : List Byte) : List Byte :=
  bs.take at_ ++ new ++ bs.drop (at_ + new.length)

/-- `len` copies of byte 0. -/
def zeros (len : Nat) : List Byte := List.replicate len 0

/-- Whether a number is a power of two from 2^lo to 2^hi. -/
def isPow2 (n lo hi : Nat) : Bool := (upFrom lo (hi + 1 - lo)).any fun k => n == 2 ^ k

/-- Cuts a list into pieces of `k` elements; `fuel` bounds the pieces. -/
def chunks {α : Type} (k : Nat) : Nat → List α → List (List α)
  | 0, _ => []
  | _, [] => []
  | fuel + 1, l => l.take k :: chunks k fuel (l.drop k)

end Sys2Proof
end

