-- ==== Sys2Proof/Machine/Numeric.lean ====
section
/-! DEFINITION. Number formats and exact arithmetic (03_number_formats.md). A finite value is held exactly, as a sign, a magnitude and a power of
two, so that every operation is computed exactly and rounded once, at its end (R63). -/

namespace Sys2Proof

/-- A value of a floating-point format. -/
inductive FVal where
  | nan
  | inf (neg : Bool)
  | fin (neg : Bool) (m : Nat) (e : Int)
  deriving DecidableEq, Repr, Inhabited

/-- A floating-point format (R55): fraction bits, bias, largest finite magnitude, infinity if it has one, canonical NaN (R56), and the
width in bits. -/
structure Fmt where
  frac : Nat
  bias : Nat
  maxFin : Nat
  infinity : Option Nat
  nan : Nat
  width : Nat
  deriving DecidableEq, Repr

def fp32 : Fmt := ⟨23, 127, 0x7F7FFFFF, some 0x7F800000, 0x7FC00000, 32⟩
def fp16 : Fmt := ⟨10, 15, 0x7BFF, some 0x7C00, 0x7E00, 16⟩
def bf16 : Fmt := ⟨7, 127, 0x7F7F, some 0x7F80, 0x7FC0, 16⟩
def e4m3 : Fmt := ⟨3, 7, 0x7E, none, 0x7F, 8⟩
def e5m2 : Fmt := ⟨2, 15, 0x7B, some 0x7C, 0x7F, 8⟩
def f36 : Fmt := ⟨27, 127, 0x7F7FFFFFF, some 0x7F8000000, 0x7FC000000, 36⟩

/-- The rounding modes of R63. SR is `roundSR`. -/
inductive Rm where
  | rne | rtz | rdn | rup
  deriving DecidableEq, Repr

/-- RM of a vector prefix (R34); 0 when SR stands there. -/
def Rm.ofField (n : Nat) : Rm := match n with | 1 => .rtz | 2 => .rdn | 3 => .rup | _ => .rne

/-- Zero. -/
def FVal.zero (neg : Bool) : FVal := .fin neg 0 0

def FVal.isNan : FVal → Bool | .nan => true | .inf _ | .fin _ _ _ => false
def FVal.isInf : FVal → Bool | .inf _ => true | .nan | .fin _ _ _ => false
def FVal.isZero : FVal → Bool | .fin _ 0 _ => true | .fin _ (_ + 1) _ | .nan | .inf _ => false
def FVal.neg? : FVal → Bool | .nan => false | .inf n => n | .fin n _ _ => n

/-- The value that bits of a format hold (R55). -/
def Fmt.dec (f : Fmt) (bits : Nat) : FVal :=
  let neg := bit bits (f.width - 1)
  let mag := bits % 2 ^ (f.width - 1)
  if mag ≤ f.maxFin then
    let e := mag >>> f.frac
    let m := mag % 2 ^ f.frac
    if e = 0 then .fin neg m (1 - (f.bias : Int) - f.frac)
    else .fin neg (m + 2 ^ f.frac) ((e : Int) - f.bias - f.frac)
  else if f.infinity = some mag then .inf neg
  else .nan

/-- A magnitude m × 2^e in units of the format's spacing there, exactly: the bits of the value rounded toward zero with an unbounded
exponent, the discarded part and the weight of one unit, both in the same scale. -/
def Fmt.split (f : Fmt) (m : Nat) (e : Int) : Nat × Nat × Nat :=
  let top : Int := (Nat.log2 m : Int) + e
  let ulp : Int := max top (1 - (f.bias : Int)) - f.frac
  let base : Nat := ((ulp + f.frac + f.bias - 1).toNat) <<< f.frac
  if ulp ≤ e then (base + m <<< (e - ulp).toNat, 0, 1)
  else
    let sh := (ulp - e).toNat
    (base + m >>> sh, m % 2 ^ sh, 2 ^ sh)

/-- Whether a discarded part makes the magnitude rise by one unit. -/
def Rm.up (rm : Rm) (neg : Bool) (odd : Bool) (rem unit : Nat) : Bool :=
  match rm with
  | .rne => unit < 2 * rem || (2 * rem == unit && odd)
  | .rtz => false
  | .rdn => neg && rem != 0
  | .rup => !neg && rem != 0

/-- Adds the sign bit. -/
def Fmt.signed (f : Fmt) (neg : Bool) (mag : Nat) : Nat := if neg then mag + 2 ^ (f.width - 1) else mag

/-- Round with an unbounded exponent: the magnitude's bits, which may lie above the largest finite value. -/
def Fmt.roundMag (f : Fmt) (rm : Rm) (neg : Bool) (m : Nat) (e : Int) : Nat :=
  if m = 0 then 0
  else
    let (q, rem, unit) := f.split m e
    if rm.up neg (q % 2 == 1) rem unit then q + 1 else q

/-- Arithmetic within a format (R63): overflow follows IEEE 754. -/
def Fmt.round (f : Fmt) (rm : Rm) : FVal → Nat
  | .nan => f.nan
  | .inf neg => f.signed neg (f.infinity.getD f.maxFin)
  | .fin neg m e =>
    let q := f.roundMag rm neg m e
    if q ≤ f.maxFin then f.signed neg q
    else
      let toMax := match rm with | .rne => false | .rtz => true | .rdn => !neg | .rup => neg
      f.signed neg (if toMax then f.maxFin else f.infinity.getD f.maxFin)

/-- A narrowing conversion (R64): saturation after rounding, infinities included. -/
def Fmt.sat (f : Fmt) (rm : Rm) : FVal → Nat
  | .nan => f.nan
  | .inf neg => f.signed neg f.maxFin
  | .fin neg m e => f.signed neg (min (f.roundMag rm neg m e) f.maxFin)

/-- LfsrStep of R66. -/
def lfsrStep (l : Word) : Word := if l.getLsbD 0 then (l >>> 1) ^^^ 0x80200003#32 else l >>> 1

/-- RoundSR of R66, before the step of the LFSR. -/
def Fmt.roundSR (f : Fmt) (lfsr : Word) : FVal → Nat
  | .nan => f.nan
  | .inf neg => f.signed neg f.maxFin
  | .fin neg 0 _ => f.signed neg 0
  | .fin neg m e =>
    let (q, rem, unit) := f.split m e
    let n := if 2 ^ 32 ≤ rem * 2 ^ 32 / unit + lfsr.toNat then q + 1 else q
    f.signed neg (min n f.maxFin)

/-! ### Exact arithmetic -/

/-- ± m × 2^e as an integer multiple of 2^low, for low ≤ e. -/
def scaled (neg : Bool) (m : Nat) (e low : Int) : Int :=
  let n : Int := (m <<< (e - low).toNat : Nat)
  if neg then -n else n

/-- The least exponent among finite values. -/
def lowExp : List FVal → Int → Int
  | [], low => low
  | .fin _ _ e :: t, low => lowExp t (min e low)
  | .nan :: t, low => lowExp t low
  | .inf _ :: t, low => lowExp t low

/-- The exact sum of finite values as a multiple of 2^low. -/
def sumAt (low : Int) : List FVal → Int
  | [] => 0
  | .fin n m e :: t => scaled n m e low + sumAt low t
  | .nan :: t => sumAt low t
  | .inf _ :: t => sumAt low t

/-- An integer multiple of 2^low as a value; a zero takes the given sign. -/
def FVal.ofInt (i : Int) (low : Int) (zeroNeg : Bool) : FVal :=
  if i = 0 then .zero zeroNeg else .fin (i < 0) i.natAbs low

/-- Exact sums (R74, R75): NaN, infinities, and an exact zero that is +0. -/
def exactSum (l : List FVal) : FVal :=
  if l.any FVal.isNan || (l.contains (.inf true) && l.contains (.inf false)) then .nan
  else if l.contains (.inf true) then .inf true
  else if l.contains (.inf false) then .inf false
  else
    let low := lowExp l 0
    .ofInt (sumAt low l) low false

/-- The exact product. -/
def FVal.mul : FVal → FVal → FVal
  | .nan, _ | .inf _, .nan | .fin _ _ _, .nan => .nan
  | .inf a, .inf b => .inf (a != b)
  | .inf a, .fin b m _ => if m = 0 then .nan else .inf (a != b)
  | .fin a m _, .inf b => if m = 0 then .nan else .inf (a != b)
  | .fin a m e, .fin b n g => .fin (a != b) (m * n) (e + g)

/-- The exact sum of two values under IEEE 754's rule for a zero sum (R63, R88). -/
def FVal.add (rm : Rm) (a b : FVal) : FVal :=
  match a, b with
  | .fin s m e, .fin t n g =>
    if m = 0 ∧ n = 0 then .zero (if s = t then s else rm == .rdn)
    else
      let low := min e g
      .ofInt (scaled s m e low + scaled t n g low) low (rm == .rdn)
  | a, b => exactSum [a, b]

/-- The value with its sign inverted. -/
def FVal.negate : FVal → FVal
  | .nan => .nan
  | .inf n => .inf (!n)
  | .fin n m e => .fin (!n) m e

/-- Comparison of two values that are not NaN: less, equal or greater, −0 equal to +0. -/
def FVal.cmp : FVal → FVal → Ordering
  | .inf a, .inf b => compare (if a then 0 else 1) (if b then 0 else 1)
  | .inf a, _ => if a then .lt else .gt
  | _, .inf b => if b then .gt else .lt
  | .fin s m e, .fin t n g =>
    let low := min e g
    compare (scaled s m e low) (scaled t n g low)
  | .nan, _ | _, .nan => .eq

/-- FCMP relations (R90). -/
def FVal.eq (a b : FVal) : Bool := !a.isNan && !b.isNan && a.cmp b == .eq
def FVal.lt (a b : FVal) : Bool := !a.isNan && !b.isNan && a.cmp b == .lt
def FVal.le (a b : FVal) : Bool := !a.isNan && !b.isNan && a.cmp b != .gt

/-- R89's order, in which −0 lies below +0. -/
def FVal.below (a b : FVal) : Bool :=
  match a.cmp b with
  | .lt => true
  | .eq => a.neg? && !b.neg?
  | .gt => false

/-- FMIN and FMAX on bits of a format (R89): the operand's own bits, or the canonical NaN. -/
def Fmt.min (f : Fmt) (a b : Nat) : Nat :=
  let x := f.dec a
  let y := f.dec b
  if x.isNan || y.isNan then f.nan else if y.below x then b else a
def Fmt.max (f : Fmt) (a b : Nat) : Nat :=
  let x := f.dec a
  let y := f.dec b
  if x.isNan || y.isNan then f.nan else if x.below y then b else a

/-- Operations of R88 and R93 on bits of a format. -/
def Fmt.add (f : Fmt) (rm : Rm) (a b : Nat) : Nat := f.round rm ((f.dec a).add rm (f.dec b))
def Fmt.sub (f : Fmt) (rm : Rm) (a b : Nat) : Nat := f.round rm ((f.dec a).add rm (f.dec b).negate)
def Fmt.mul (f : Fmt) (rm : Rm) (a b : Nat) : Nat := f.round rm ((f.dec a).mul (f.dec b))
def Fmt.fma (f : Fmt) (rm : Rm) (a b c : Nat) : Nat := f.round rm (((f.dec a).mul (f.dec b)).add rm (f.dec c))

/-- A × 2^n (R91): NaN becomes canonical, infinities and zeros stay. An n beyond ±1000 acts as ±1000, past every FP32 value. -/
def fscale (rm : Rm) (a : Nat) (n : Int) : Nat :=
  match fp32.dec a with
  | .fin s m e => fp32.round rm (.fin s m (e + Max.max (-1000) (Min.min 1000 n)))
  | x => fp32.round rm x

/-- Dot products with an FP32 addend (R75, R92), on `k` elements of format `f`. -/
def dot (f : Fmt) (k : Nat) (rm : Rm) (a b c : Nat) : Nat :=
  fp32.round rm (exactSum (fp32.dec c :: (List.range k).map fun i =>
    (f.dec (fld a (f.width * i) f.width)).mul (f.dec (fld b (f.width * i) f.width))))

/-! ### Conversions -/

/-- Rounds a magnitude to an integer. -/
def roundInt (rm : Rm) (neg : Bool) (m : Nat) (e : Int) : Nat :=
  if 0 ≤ e then m <<< e.toNat
  else
    let sh := (-e).toNat
    let q := m >>> sh
    if rm.up neg (q % 2 == 1) (m % 2 ^ sh) (2 ^ sh) then q + 1 else q

/-- FP32 to INT32 or UINT32 with saturation (R65). -/
def toIntSat (rm : Rm) (lo hi : Int) : FVal → Int
  | .nan => 0
  | .inf neg => if neg then lo else hi
  | .fin neg m e =>
    let q : Int := roundInt rm neg m e
    Max.max lo (Min.min hi (if neg then -q else q))

/-- An integer to FP32 (R65). -/
def ofIntF32 (rm : Rm) (i : Int) : Nat := fp32.round rm (.fin (i < 0) i.natAbs 0)

/-- FRND (R97): to an integral value, keeping the sign of zero. -/
def frnd (rm : Rm) (a : Nat) : Nat :=
  match fp32.dec a with
  | .fin neg m e => if 0 ≤ e then a else fp32.round .rne (.fin neg (roundInt rm neg m e) 0)
  | .inf _ => a
  | .nan => fp32.nan

/-- FCLASS (R97): the number of the bit that is set. -/
def fclass (a : Nat) : Nat :=
  let neg := bit a 31
  let mag := a % 2 ^ 31
  if mag > 0x7F800000 then 8
  else if mag = 0x7F800000 then (if neg then 0 else 7)
  else if 0x00800000 ≤ mag then (if neg then 1 else 6)
  else if mag ≠ 0 then (if neg then 2 else 5)
  else if neg then 3 else 4

/-! ### Scales, blocks and typed elements -/

/-- The finite S8 scale as a magnitude and power of two (R58). -/
def s8Value (s : Nat) : Nat × Int :=
  let e := s / 8
  if e = 0 then (s % 8, -17) else (8 + s % 8, (e : Int) - 18)

/-- The bytes of a padded BFP-m block (R59). -/
def bfpBytes (m : Nat) : Nat :=
  match m with | 2 => 16 | 3 => 24 | 4 => 32 | 5 => 32 | 6 => 40 | 7 => 48 | _ => 56

/-- Element j of a BFP-m block image held as a number (R59). -/
def bfpElement (img m j : Nat) : FVal :=
  let e := img % 256
  if e = 255 then .nan
  else
    let q := toSigned (fld img (8 + m * j) m) m
    .ofInt q ((e : Int) - 127 - ((m : Int) - 1)) false

/-- Element j of a scaled FP8 block image (R61). -/
def scaledElement (f : Fmt) (img j : Nat) : FVal :=
  let s := img % 256
  let x := f.dec (fld img (8 + 8 * j) 8)
  if s = 255 then .nan
  else
    let (sm, se) := s8Value s
    match x with
    | .nan => .nan
    | .inf n => if s = 0 then .nan else .inf n
    | .fin n m e => .fin n (m * sm) (e + se)

/-- The largest magnitude among finite values, as a multiple of 2^low. -/
def maxMag (low : Int) : List FVal → Nat
  | [] => 0
  | .fin _ m e :: t => Nat.max (m <<< (e - low).toNat) (maxMag low t)
  | .nan :: t => maxMag low t
  | .inf _ :: t => maxMag low t

/-- EncodeBFP of R60: the block image as a number; padding is 0. -/
def encodeBfp (vs : List FVal) (m : Nat) : Nat :=
  if vs.any FVal.isNan then 255
  else
    let low := lowExp vs 0
    let a := maxMag low vs
    let e : Nat :=
      if vs.any FVal.isInf then 254
      else if a = 0 then 0
      else Nat.min 254 ((Nat.log2 a : Int) + low + 128).toNat
    let q (v : FVal) : Int :=
      match v with
      | .nan => 0
      | .inf n => if n then -(2 ^ (m - 1) : Nat) else (2 ^ (m - 1) - 1 : Nat)
      | .fin n x g =>
        let r : Int := roundInt .rne n x (g + ((m : Int) - 1) - ((e : Int) - 127))
        Max.max (-(2 ^ (m - 1) : Nat)) (Min.min ((2 ^ (m - 1) : Nat) - 1 : Int) (if n then -r else r))
    let rec pack : List FVal → Nat
      | [] => 0
      | v :: t => (q v % (2 ^ m : Nat)).toNat + pack t <<< m
    e + pack vs <<< 8

/-- Whether p / 2^k-scaled a ≤ F × S, for the magnitude a × 2^low, the largest element F = fm × 2^fe and the scale sm × 2^se. -/
def scaleCovers (a : Nat) (low : Int) (fm : Nat) (fe : Int) (s : Nat) : Bool :=
  let (sm, se) := s8Value s
  let lo := Min.min low (fe + se)
  decide (a <<< (low - lo).toNat ≤ (fm * sm) <<< (fe + se - lo).toNat)

/-- The smallest S8 code from `s` on whose value covers the magnitude; 0xFE when none does. -/
def leastScale (a : Nat) (low : Int) (fm : Nat) (fe : Int) : Nat → Nat → Nat
  | 0, _ => 0xFE
  | fuel + 1, s => if scaleCovers a low fm fe s then s else leastScale a low fm fe fuel (s + 1)

/-- v ÷ S rounded once to an FP8 format (R62). The quotient by 8 + F is formed with 16 more bits than the format has and a sticky bit,
which leaves its one rounding exact. -/
def divideScale (f : Fmt) (s : Nat) : FVal → Nat
  | .nan => f.nan
  | .inf n => f.sat .rne (.inf n)
  | .fin n m e =>
    let (sm, se) := s8Value s
    let q := (m <<< 24) / sm
    let sticky := ofBool ((m <<< 24) % sm != 0)
    f.sat .rne (.fin n (2 * q + sticky) (e - se - 25))

/-- The encoding of a scaled FP8 block (R62) as a number; padding is 0. -/
def encodeScaled (f : Fmt) (vs : List FVal) : Nat :=
  let rec pack (g : FVal → Nat) : List FVal → Nat
    | [] => 0
    | v :: t => g v + (pack g t) <<< 8
  if vs.any FVal.isNan then 255 + pack (fun _ => f.nan) vs <<< 8
  else
    let low := lowExp vs 0
    let a := maxMag low vs
    let (fm, fe) := match f.dec f.maxFin with | .fin _ m e => (m, e) | _ => (0, 0)
    let s := if vs.any FVal.isInf then 0xFE else if a = 0 then 0 else leastScale a low fm fe 0xFE 1
    if s = 0 then pack (fun v => f.signed v.neg? 0) vs <<< 8
    else s + pack (divideScale f s) vs <<< 8

/-- What a typed page stores (R67): elements of a format, or blocks of 48 elements. -/
inductive Units where
  | elements (f : Fmt)
  | scaled (f : Fmt)
  | bfp (m : Nat)
  deriving DecidableEq, Repr

/-- FMT 1 to 14 (R67). -/
def unitsOf (fmt : Nat) : Option Units :=
  match fmt with
  | 1 => some (.elements fp32)
  | 2 => some (.elements bf16)
  | 3 => some (.elements fp16)
  | 4 => some (.elements e4m3)
  | 5 => some (.elements e5m2)
  | 6 => some (.scaled e4m3)
  | 7 => some (.scaled e5m2)
  | n => if 8 ≤ n ∧ n ≤ 14 then some (.bfp (n - 6)) else none

/-- Bytes of one unit. -/
def Units.bytes : Units → Nat
  | .elements f => f.width / 8
  | .scaled _ => 56
  | .bfp m => bfpBytes m

/-- Elements of one unit. -/
def Units.count : Units → Nat
  | .elements _ => 1
  | .scaled _ | .bfp _ => 48

/-- Element capacity of a frame of P bytes (R67). -/
def Units.capacity (u : Units) (p : Nat) : Nat := p / u.bytes * u.count

/-- The first index that GEOM shows (R68). -/
def Units.first (u : Units) (p geom : Nat) : Nat :=
  match u with
  | .elements _ => geom * (u.capacity p / 8)
  | .scaled _ | .bfp _ => 48 * geom * (p / u.bytes / 8)

/-- The exact value of element j of a unit whose bytes are a number. -/
def Units.element (u : Units) (img j : Nat) : FVal :=
  match u with
  | .elements f => f.dec img
  | .scaled f => scaledElement f img j
  | .bfp m => bfpElement img m j

/-- Decoding to a register format (R69): infinities stay, finite values saturate. A value of a block format that BF16 cannot hold is rounded to nearest
even, where R69 calls the decoding exact (log 58). -/
def decodeTo (f : Fmt) : FVal → Nat
  | .inf n => f.signed n (f.infinity.getD f.maxFin)
  | v => f.sat .rne v

/-- A unit's bytes after the elements at positions from j on take values (R70). -/
def Units.encode (u : Units) (img j : Nat) (vs : List FVal) : Nat :=
  let all (old : List FVal) := old.take j ++ vs ++ old.drop (j + vs.length)
  match u with
  | .elements f =>
    match vs with
    | v :: _ => if f = fp32 then f.round .rne v else f.sat .rne v
    | [] => img
  | .scaled f => encodeScaled f (all ((List.range 48).map fun k => scaledElement f img k))
  | .bfp m => encodeBfp (all ((List.range 48).map fun k => bfpElement img m k)) m

end Sys2Proof
end

