-- ==== Sys2Proof/Config.lean ====
section
/-! DEFINITION. What an implementation fixes, and the free values (log 1). Every opaque constant below is a value the specification
leaves open: nothing in Lean can evaluate it, so a statement proved here holds whatever it is. -/

namespace Sys2Proof.Config

/-- A free bit, selected by the counter State.freeCtr (log 1). -/
opaque freeBit : Nat → Bool

/-- A free 32-bit value, selected by the counter State.freeCtr: registers that R156 calls undefined on resumption (log 13). -/
opaque freeWord : Nat → Word

/-- A free byte, selected by the counter State.freeCtr (log 1). -/
opaque freeByte : Nat → Byte

/-- What the special functions of R99 return before the bound of R99 is applied (log 12): FN number, then the FP32 input. -/
opaque special : Nat → Word → Word

/-- The bytes of host memory and of other devices' memory that this module has not written, by time in clk and outside address (log 8). -/
opaque outsideByte : Nat → Nat → Byte

/-- What the 16 bytes of a packet's header say (R424 gives no layout, log 18): none where no packet begins. -/
opaque packetHead : List Byte → Option PacketHead

/-- The default shot supply rate that the MC firmware sets for a cluster key (R394 step 5, log 5). -/
opaque rateDefault : Nat → Nat

/-- The default byte budget that the MC firmware sets for a cluster key, in 64-byte units (R394 step 5, log 5). -/
opaque bytesDefault : Nat → Nat

/-- The bits [29:0] of a query handle, by query number (R328, log 1). -/
opaque handleBits : Nat → BitVec 30

/-- SAH estimate, overlap ratio and mean COUNT of R303 are bounded, not fixed: the bits the H7 returns for the exact value
num / den, by word number (log 12). -/
opaque qualBits : Nat → Nat → Nat → Word

/-- Whether a firmware image verifies under R403: result code 2, 4 or 5 from its bytes (log 17). -/
opaque verifyImage : List (Nat × Byte) → Nat

/-- The topology that the builder's method gives some records, by INDEX, under a format (TEST, ORDER, LEAFMAX): a root first, each block's place left
out (R293, log 14). -/
opaque builderTree : Nat → Nat → Nat → List (Nat × List Byte) → List PlanBlock

/-- The offsets at which the builder places a topology's blocks in a pool, of a length and with some ranges that are not free; none where its method
finds no place (R293, R298, log 14). -/
opaque builderPlaces : Nat → List (Nat × Nat) → List PlanBlock → Option (List Nat)

/-- The bytes that the builder writes as the boxes of a node's empty child slots, by the records, the plan and the position (R288 gives none, log 14). -/
opaque emptyBox : List (Nat × List Byte) → List PlanBlock → Nat → Byte

/-- The firmware image that a bank holds as the module is delivered, bank A first (R404, log 17). -/
opaque factoryByte : Bool → Nat → Byte
opaque factoryLen : Bool → Nat

/-- A byte of the SM2 signature over some bytes under the device identity key (R404, log 17). -/
opaque signByte : List Byte → Nat → Byte

/-- The module serial number's bytes, and the boots since manufacture before the one that State.reset follows (R404, log 17). -/
opaque serialByte : Nat → Byte
opaque bootsBefore : Nat

/-- The device identity certificate (R402 command 6), and its length (log 17). -/
opaque certByte : Nat → Byte
opaque certLen : Nat

/-- The result of LOG (R402 gives no layout): length and bytes, from the entries as kind and number, and ARG (log 17). -/
opaque logLen : List (Nat × Nat) → Nat → Nat
opaque logByte : List (Nat × Nat) → Nat → Nat → Byte

/-- The neighbours of a sensor: region and index of each (R400: "a fixed list", not given; log 17). -/
opaque sensorNeighbours : Nat → Nat → List (Nat × Nat)

/-- The Die Mix Table of the flagship SX-H7-512M (R1). The order of its kinds is not given (log 4). -/
def flagshipMix : List DieKind :=
  [.geometry, .geometry, .shading, .shading, .shading, .shading, .shading, .shading, .shading, .shading,
   .basin, .basin, .basin, .basin, .absent, .absent]

end Sys2Proof.Config
end

