-- ==== Sys2Proof/Machine/State.lean ====
section
/-! DEFINITION. The state of the module: everything spec/ gives the H7 (INVENTORY.md, heading State), as plain data, and the state after
reset. Keys: a die is its Die Mix Table index d; a cluster is 16 d + cluster; a core is 128 d + 8 cluster + c; a wave is
16 core + slot (R186, R127). A key that a table does not list stands for the reset value of that thing. -/

namespace Sys2Proof.Machine

open Sys2Proof

/-! ### Threads and waves -/

/-- A history latch and its valid flag (R16 to R19). -/
structure Latch where
  valid : Bool := false
  val : Word := 0
  deriving DecidableEq, Repr, Inhabited

/-- The causes of R281; `bit` gives the CAUSE bit. -/
inductive Cause where
  | ill | priv | align | xlate | prot | fmtmix | latch | target | ovlmiss | tarnr | softerr | poison | drain | trapi | flood | bexh
  | degen | genstale | qovf | eosafter | fifo | barrier | timeout
  deriving DecidableEq, Repr, Inhabited

/-- A join mark (R123): which issue of BRI or CALLI made it, and its join address. -/
structure JoinMark where
  id : Nat
  addr : Word
  deriving DecidableEq, Repr, Inhabited

/-- A thread: what R11, R12, R23, R123, R141, R175 and R433 give one lane of one wave. -/
structure Thread where
  ended : Bool := false
  pc : Word := 0
  v : Tab Word := []
  o : Tab Word := []
  h0 : Latch := {}
  h1 : Latch := {}
  h2 : Latch := {}
  h3 : Latch := {}
  m : BitVec 8 := 1
  tpc : Word := 0
  tval : Word := 0
  lfsr : Word := 0
  gens : Word := 0
  starve : Nat := 0
  mark : Option JoinMark := none
  inHandler : Bool := false
  held : Option Nat := none
  noted : List (Cause × Word) := []
  drainPos : Nat := 0
  bad : List Nat := []
  deriving DecidableEq, Repr, Inhabited

/-- What a wave waits for in place after its unit has issued (R152, R191, R322, R362). -/
inductive Wait where
  | tags (any : Bool) (mask : Word64)
  | barrier (b : Nat) (target : BitVec 32)
  | timeline (k : Nat) (v : Word64)
  | semaphore (k : Nat) (n : Word)
  deriving DecidableEq, Repr, Inhabited

/-- An address space: context, ASID and root table (R233, R255). -/
structure Space where
  ctx : Nat := 0
  asid : Nat := 0
  root : Nat := 0
  deriving DecidableEq, Repr, Inhabited

/-- A unit that waits in place (R212, R313): the members that wait, its address and its code bytes. `issued` says that it has issued, `led` that other
members have completed in it, and `w` is the W registers that it reads. -/
structure InPlace where
  group : List Nat
  addr : Word
  code : List Byte
  issued : Bool := false
  led : Bool := false
  w : Tab Word := []
  deriving DecidableEq, Repr, Inhabited

/-- A wave in its slot (R127, R128, R131). `uid` is fresh for each admission; `launch` and `team` are identifiers of tables below. `waitReads`
says that the instruction it waits in reads a latch. `cand` holds the first and the last clk of the present run of clk in which it was a candidate
(R132), and `denied` the same for a candidate in every respect but the pocket, with its price (R201); `nextClk` is the first clk in which it may
issue again. `answers` are the bytes from outside the module that the unit it waits in has obtained, by outside address; none for poisoned ones. -/
structure Wave where
  uid : Nat := 0
  launch : Nat := 0
  team : Nat := 0
  wid : Nat := 0
  teamIdx : Nat := 0
  width : Nat := 16
  base : Nat := 0
  tidBase : Nat := 0
  budget : Nat := 16
  obj : Nat := 0
  constBase : Nat := 0
  clen : Nat := 0
  space : Space := {}
  priv : Bool := false
  threads : List Thread := []
  w : Tab Word := []
  cause : Word := 0
  tvec : Word := 0
  mtype : Word := 0
  inWindow : Bool := true
  nextClk : Nat := 0
  inPlace : Option InPlace := none
  admitted : Nat := 0
  coldWait : Bool := false
  yieldTo : List Nat := []
  wait : Option Wait := none
  waitSince : Nat := 0
  waitReads : Bool := false
  holdSince : Option Nat := none
  cand : Option (Nat × Nat) := none
  denied : Option (Nat × Nat × Nat) := none
  park : Option Word := none
  override : Option (BitVec 12) := none
  pmask : Nat := 0
  collector : List (Nat × Nat × Nat × Word) := []
  answers : Tab (Option (List Byte)) := []
  deriving DecidableEq, Repr, Inhabited

/-- A parked wave and its continuation's place (R155, R276, R277); `ready` is set for good when its wait is satisfied, at reference count
`readyAt`. -/
structure Parked where
  launch : Nat
  team : Nat
  wid : Nat
  die : Nat
  homeCore : Nat
  frameVa : Nat
  wait : Wait
  wave : Wave
  ready : Bool
  readyAt : Nat := 0
  deriving DecidableEq, Repr, Inhabited

/-- A named barrier (R189). -/
structure Barrier where
  exp : Nat := 0
  left : Nat := 0
  phase : BitVec 32 := 0
  part : List Nat := []
  token : Tab (BitVec 32) := []
  bad : Bool := false
  deriving DecidableEq, Repr, Inhabited

/-- A resident team (R129, R134, R136, R189). `cores` are its core keys (two for a pair team, lower first), `tarn` the share's base
on each; `waves` are the WIDs that have not ended. -/
structure Team where
  launch : Nat := 0
  idx : Nat := 0
  pair : Bool := false
  cores : List Nat := []
  tarn : List Nat := []
  tarnLen : Nat := 0
  waves : List Nat := []
  windows : Tab (Word × Word) := []
  barriers : Tab Barrier := []
  deriving DecidableEq, Repr, Inhabited

/-! ### Launches and task records -/

/-- The fields of a task record (R260); `raw` keeps whether a reserved field is not zero. -/
structure TaskRec where
  kdesc : Nat := 0
  frame : Nat := 0
  join : Nat := 0
  teams : Nat := 0
  lanes : Nat := 0
  waves : Nat := 0
  width : Nat := 0
  prio : Nat := 0
  flags : Nat := 0
  attempt : Nat := 0
  tile : Nat := 0
  stencil : Nat := 0
  isores : Nat := 0
  reservedOk : Bool := true
  unif : List Word := []
  deriving DecidableEq, Repr, Inhabited

/-- The fields of a kernel descriptor (R52). -/
structure Kernel where
  entry : Nat := 0
  tvec : Nat := 0
  width : Nat := 16
  regs : Nat := 16
  flags : Nat := 0
  prio : Nat := 0
  tarn : Nat := 0
  cbase : Nat := 0
  clen : Nat := 0
  obj : Nat := 0
  reservedOk : Bool := true
  deriving DecidableEq, Repr, Inhabited

/-- One team shape of a launch: an ordinary launch has one role repeated TEAMS times, a gang one per present role (R261, R265). -/
structure Role where
  idx : Nat := 0
  kernel : Kernel := {}
  waves : Nat := 1
  lanes : Nat := 1
  deriving DecidableEq, Repr, Inhabited

/-- Where a launch stands between RECORD_TAKE and the end of COMPLETION_WRITE (R264, R269, R279). A launch that is `joining` waits for the decrement
of a counter on another device (R269, R427). A launch that is `away` was discarded by fault-and-replay: its record is held outside its queue until
the reply (R241). -/
inductive LaunchPhase where
  | taken | running | ended | completing | joining | away
  deriving DecidableEq, Repr, Inhabited

/-- A launch (R260 to R280). -/
structure Launch where
  die : Nat := 0
  queue : Nat := 0
  pos : Nat := 0
  recPa : Nat := 0
  rcd : TaskRec := {}
  roles : List Role := []
  space : Space := {}
  priv : Bool := false
  idem : Bool := false
  phase : LaunchPhase := .taken
  teamsIn : Nat := 0
  cluster : Nat := 0
  status : Nat := 0
  causeAcc : Word := 0
  endTpc : Word := 0
  endTval : Word := 0
  doneAt : Option Nat := none
  request : Option Nat := none
  timedOut : Bool := false
  tileRetired : Bool := false
  offered : Nat := 0
  began : Nat := 0
  slot : Nat := 0
  deriving DecidableEq, Repr, Inhabited

/-- An object's copy on a die (R432): the overlay table, target-table addresses and counts of its load record. -/
structure ObjCopy where
  obj : Nat := 0
  const : Nat := 0
  constLen : Nat := 0
  ovltab : Tab Word64 := []
  tabaddr : Tab Word64 := []
  ntab : Tab Nat := []
  deriving DecidableEq, Repr, Inhabited

/-! ### Cores -/

/-- A copy tag (R138). -/
inductive TagState where
  | idle | busy | done
  deriving DecidableEq, Repr, Inhabited

/-- A TCOPY in flight (R150, R151): its tag and direction, the launch, the core and absolute offset of its Tarn range with its length, and
the 16-byte units that have not moved, as Tarn offset and physical address as translated at issue; its ASID and memory range. -/
structure TCopy where
  tag : Nat
  isIn : Bool
  asid : Nat
  va : Nat
  launch : Nat
  die : Nat
  tarnCore : Nat
  tarnOff : Nat
  len : Nat
  units : List (Nat × Nat)
  deriving DecidableEq, Repr, Inhabited

/-- A target table kept with an overlay slot (R51, R432). -/
structure TargetTable where
  entries : List Word := []
  join : Word := 0
  deriving DecidableEq, Repr, Inhabited

/-- An overlay slot's state (R140). -/
inductive OvlState where
  | empty | loading | resident
  deriving DecidableEq, Repr, Inhabited

/-- A load into an overlay slot (R159, R432): object, overlay, image and table ranges, and their pages as translated at issue, each as
virtual address, physical address and leaf; and the ASID they were taken from. -/
structure OvlLoad where
  asid : Nat
  obj : Nat
  n : Nat
  va : Nat
  len : Nat
  map : List (Nat × Nat × Nat)
  tabVa : Nat
  ntab : Nat
  tabMap : List (Nat × Nat × Nat)
  deriving DecidableEq, Repr, Inhabited

/-- An overlay slot: state, object, overlay number, code bytes by offset (unlisted bytes are 0), target tables, whether its ECC holds
an uncorrectable error; and the load that is pending. -/
structure Ovl where
  st : OvlState := .empty
  obj : Nat := 0
  n : Nat := 0
  code : Tab Byte := []
  tables : List TargetTable := []
  bad : Bool := false
  pend : Option OvlLoad := none
  deriving DecidableEq, Repr, Inhabited

/-- A drain context of an octet (R174, R175): the wave's key, the tile, the chained results by 16 row + column, the start clk, and how many
columns have become readable. -/
structure Drain where
  wave : Nat
  tile : Nat
  vals : List Word
  badCols : List Nat := []
  start : Nat
  ready : Nat := 0
  deriving DecidableEq, Repr, Inhabited

/-- A cached translation (R238): ASID, page number at its level, the leaf and its level. -/
structure TlbEnt where
  asid : Nat
  vpn : Nat
  level : Nat
  leaf : Word64
  deriving DecidableEq, Repr, Inhabited

/-- A core (06_core.md). Tarn bytes are keyed by absolute offset, tiles by 128 tile + 16 row + column, table entries by
256 table + entry. `tlb` is its translation cache, the newest entry first, and `nextIssue` the first clk in which it may issue again (R132). -/
structure CoreSt where
  pocket : Nat := 0
  reservation : Option (Nat × Nat) := none
  tags : Tab TagState := []
  copies : List TCopy := []
  tiles : Tab (BitVec 36) := []
  badTiles : List Nat := []
  tlb : List TlbEnt := []
  nextIssue : Nat := 0
  slot0 : Ovl := {}
  slot1 : Ovl := {}
  acts : Tab Word64 := []
  actsLoaded : BitVec 4 := 0
  drains : Tab Drain := []
  occupied : Tab Nat := []
  tarn : Tab Byte := []
  tarnPoison : List Nat := []
  tarnBad : List Nat := []
  deriving DecidableEq, Repr, Inhabited

/-! ### Clusters -/

/-- Upper-tier gate states (R205), numbered as GATE.STAT numbers them (R225). -/
inductive GateState where
  | on | drain | hold | gated | wakeq | ramp
  deriving DecidableEq, Repr, Inhabited

/-- A gate (R205, R210): state, reference count and clk at which it was entered, pending wake, place k of R207, wake time, FAILED; `stuck` says
that the ramp it is in will not reach ON, and `evClk` and `evRank` are the clk and the place of its last event in the order of R224. -/
structure Gate where
  st : GateState := .on
  since : Nat := 0
  clk : Nat := 0
  pend : Bool := false
  qpos : Nat := 0
  wakeAt : Nat := 0
  failed : Bool := false
  stuck : Bool := false
  evClk : Nat := 0
  evRank : Nat := 0
  deriving DecidableEq, Repr, Inhabited

/-- An entry of a vertical FIFO (R192); `bad` marks an uncorrectable error. -/
structure FifoEntry where
  width : Nat
  vals : List Word
  bad : Bool := false
  deriving DecidableEq, Repr, Inhabited

/-- A voltage island's mode (R203); a switch to NOMINAL ends at the clk it holds. -/
inductive Island where
  | nominal | near | switching (until_ : Nat)
  deriving DecidableEq, Repr, Inhabited

/-- Channel states (R195). -/
inductive ChanState where
  | idle | run | halt
  deriving DecidableEq, Repr, Inhabited

/-- A transfer record's fields (R196), from memory or from XCOPY (R218). `bad` is set when a field marked "must be 0" is not. -/
structure XferRec where
  next : Nat := 0
  ctrl : Nat := 0
  cmd : Nat := 0
  src : Nat := 0
  dst : Nat := 0
  len : Nat := 0
  bar : Nat := 0
  tlval : Nat := 0
  tl : Nat := 0
  bad : Bool := false
  deriving DecidableEq, Repr, Inhabited

/-- An end of a channel's transfer: Tarn bytes of a core, or a physical address. -/
inductive CopyEnd where
  | tarn (core off : Nat)
  | mem (pa : Nat)
  deriving DecidableEq, Repr, Inhabited

/-- A 16-byte destination unit of a record that has not moved (R199): its source in pieces of 8 bytes, its destination, and the channel's
LFSR at its first element. -/
structure ChanUnit where
  src : List CopyEnd
  dst : CopyEnd
  lfsr : Word
  deriving DecidableEq, Repr, Inhabited

/-- What the next event of a running channel is: read the record at an address, perform an XCOPY command, or complete the record in
flight (with its address and the physical address of its CTRL word when it came from memory). -/
inductive ChanWork where
  | none
  | atRecord (va : Nat)
  | command (r : XferRec)
  | moving (at_ : Option (Nat × Nat)) (r : XferRec) (units : List ChanUnit)
  deriving DecidableEq, Repr, Inhabited

/-- An instruction that holds on a running channel (R221): the clk of its first attempt, its wave's key and uid, and its address. -/
structure Holder where
  clk : Nat
  wave : Nat
  uid : Nat
  pc : Word
  deriving DecidableEq, Repr, Inhabited

/-- A channel (R195, R222): the issuer's space, privilege and team go with the chain. `since` is the reference count at which its record began to
move, `epoch` the number of that record among the channel's (R352), and `taken` the clk in which it last took an instruction, with core and slot. -/
structure Channel where
  st : ChanState := .idle
  work : ChanWork := .none
  code : Nat := 0
  last : Nat := 0
  done : BitVec 16 := 0
  space : Space := {}
  priv : Bool := false
  team : Nat := 0
  launch : Nat := 0
  core : Nat := 0
  lfsr : Word := 0xACE1
  holders : List Holder := []
  since : Nat := 0
  epoch : Nat := 0
  taken : Option (Nat × Nat) := none
  deriving DecidableEq, Repr, Inhabited

/-- A GATE.STAT of the present clk, whose value stands at the end of the clk (R225): its wave's key and uid, members, destination and pair. -/
structure StatRead where
  wave : Nat
  uid : Nat
  ps : List Nat
  code : Code
  pair : Nat
  deriving DecidableEq, Repr, Inhabited

/-- A cluster (09_cluster.md). FIFO keys are 2 pair + f; `fifoClk` holds the clk of a FIFO's last push or pop, its entries at the start of that
clk, and its pops in it (R215). -/
structure Cluster where
  reservoir : Nat := 0
  frac : Nat := 0
  lastFill : Nat := 0
  isoCredit : Tab Nat := []
  islands : Tab Island := []
  islandQuiet : Tab Nat := []
  fifos : Tab (List FifoEntry) := []
  fifoOwner : Tab Nat := []
  fifoClk : Tab (Nat × Nat × Nat) := []
  gates : Tab Gate := []
  statReads : List StatRead := []
  chans : Tab Channel := []
  visited : Option Nat := none
  deriving DecidableEq, Repr, Inhabited

/-! ### Dies -/

/-- A queued invalidation (R240). -/
inductive Inval where
  | page (asid va : Nat) | asid (asid : Nat) | all
  deriving DecidableEq, Repr, Inhabited

/-- Kinds of a faulting access (R243). -/
inductive AccKind where
  | read | write | rmw | exec
  deriving DecidableEq, Repr, Inhabited

/-- An outstanding translation fault (R242 to R244). `threads` are the held threads: wave uid, wave key, position, low address word,
unit address. `replay` is the discarded task: its queue and position. `region` is a stopped region of the sequencer (R380). -/
structure PFault where
  id : Nat
  launch : Nat := 0
  va : Nat := 0
  kind : AccKind := .read
  level : Nat := 0
  code : Nat := 0
  idem : Bool := false
  asid : Nat := 0
  queue : Nat := 0
  task : Nat := 0
  tpc : Word := 0
  core : Word := 0
  entry : Word64 := 0
  seq : Option Nat := none
  joins : Bool := true
  threads : List (Nat × Nat × Nat × Word × Word) := []
  replay : Option (Nat × Nat) := none
  region : Option Nat := none
  deriving DecidableEq, Repr, Inhabited

/-- Where a store outside the module came from (R430): the reference count at its issue, its virtual address, ASID and queue; and the number of its
packet once that has left. -/
structure OutStore where
  since : Nat := 0
  va : Nat := 0
  asid : Nat := 0
  queue : Nat := 0
  sent : Option Nat := none
  deriving DecidableEq, Repr, Inhabited

/-- A store of a die that has not reached its home (R352): the agent (Phys: agentOf for a thread, below that the die's engines), the
physical address, the bytes, whether it is itself a release at SYS scope (R355), and whether its bytes carry a poison mark (R247); `tile` says
that they are decoded bytes of an RGN page's tile (R384), `unit` numbers the record of a copy channel that moves them (R199), and `sc` says that
the store is sequentially consistent (R356); of a store into a block of a typed page, `redo` gives format, element position, whether the sources are
BF16, and the source words, with which it re-encodes the block that it finds at its home (R70). Releases without bytes stand among them: an XSEM.SIG
with its semaphore and addend (R361), a FENCE (R116), and that of an access which is performed next and which `op` names among State.outs. -/
structure PendStore where
  agent : Nat
  pa : Nat
  data : List Byte
  rel : Bool := false
  poisoned : Bool := false
  sem : Option (Nat × Word) := none
  out : Option OutStore := none
  tile : Bool := false
  unit : Option Nat := none
  sc : Bool := false
  redo : Option (Nat × Nat × Bool × List Word) := none
  op : Option Nat := none
  deriving DecidableEq, Repr, Inhabited

/-- A byte of a die's view that is older than the home's byte (R352): address, the version of the store that superseded it, value, and the agent
that made that store (0: none of this module's). For one address the first entry is the die's view. -/
structure StaleByte where
  pa : Nat
  ver : Nat
  val : Byte
  agent : Nat := 0
  deriving DecidableEq, Repr, Inhabited

/-- A queue that QP has taken up (R257 to R264): its descriptor as QP holds it; `headSeg` is the segment of position HEAD; hsegIdx, tsegIdx
and headIdx say how many links lie before the segments hseg, tseg and headSeg; `aged` is the number of levels added by aging; `slot` is the
hardware slot of a mapped queue; times are reference counts; `done` lists the positions at or after HSEG's first whose records have completed, and
`requeued` the discarded records, with their slots, in the order in which they are offered; `stuck` is set while QP has met a link of 0
and no later TAIL store, and `cleared` by a store that clears EN, until QP reads the descriptor again. -/
structure Queue where
  en : Bool := false
  tail : Nat := 0
  head : Nat := 0
  hseg : Nat := 0
  tseg : Nat := 0
  headSeg : Nat := 0
  hsegIdx : Nat := 0
  tsegIdx : Nat := 0
  headIdx : Nat := 0
  pmaskMax : Nat := 0
  ctx : Nat := 0
  pin : Bool := false
  hostq : Bool := false
  priv : Bool := false
  prio : Nat := 0
  cplEn : Bool := false
  cplTl : Nat := 0
  cplLen : Nat := 16
  cplBase : Nat := 0
  cplTail : Nat := 0
  tsbmap : Nat := 0
  aged : Nat := 0
  agedAt : Nat := 0
  mapped : Option Nat := none
  slot : Nat := 0
  unmappedAt : Nat := 0
  done : List Nat := []
  requeued : List (Nat × Nat) := []
  stuck : Bool := false
  cleared : Bool := false
  deriving DecidableEq, Repr, Inhabited

/-- A stream (R274, R275). Producers and EOS are kept by task record, as they survive a discard. `due` says that a store has set EN since the entry
was read. -/
structure Stream where
  due : Bool := false
  en : Bool := false
  base : Nat := 0
  logcap : Nat := 8
  nprod : Nat := 1
  ctx : Nat := 0
  head : Nat := 0
  tail : Nat := 0
  producers : List (Nat × Nat) := []
  eos : List (Nat × Nat) := []
  deriving DecidableEq, Repr, Inhabited

/-- A pin entry (R300). -/
structure Pin where
  id : Nat
  launch : Nat
  hdr : Nat
  gen : Word
  count : Nat
  deriving DecidableEq, Repr, Inhabited

/-- The fields of a build descriptor (R291). -/
structure BuildDesc where
  hdr : Nat := 0
  prim : Nat := 0
  nprim : Nat := 0
  nft : Nat := 0
  flags : Nat := 0
  tl : Nat := 0
  pool : Nat := 0
  poolLen : Nat := 0
  tlval : Nat := 0
  reservedOk : Bool := true
  deriving DecidableEq, Repr, Inhabited

/-- Kinds of builder job (R292, R332). -/
inductive JobKind where
  | build | refit | rebal | nft
  deriving DecidableEq, Repr, Inhabited

/-- A queued builder job (R292): the thread to note a cause in is its wave uid and position; `code` is a code that its start has found. For a
node-format job, `hdrPa` is the image's physical address. -/
structure Job where
  kind : JobKind
  desc : BuildDesc := {}
  descVa : Nat := 0
  hdrPa : Nat := 0
  space : Space := {}
  priv : Bool := false
  uid : Nat := 0
  pos : Nat := 0
  code : Option Nat := none
  deriving DecidableEq, Repr, Inhabited

/-- A node-format entry (R290). -/
structure NodeFmt where
  test : Nat := 0
  order : Nat := 0
  leafMax : Nat := 4
  deriving DecidableEq, Repr, Inhabited

/-- Blocks of a structure's pool (R293, R298, R302): offset and length, BORN, and the last generation once freed. -/
structure PoolBlock where
  off : Nat
  len : Nat
  born : Word
  freed : Option Word := none
  deriving DecidableEq, Repr, Inhabited

/-- What the builder keeps of a structure, by header address: the die that built it last, pool, blocks, and the plan of the current generation. -/
structure Struct where
  die : Nat := 0
  pool : Nat := 0
  poolLen : Nat := 0
  blocks : List PoolBlock := []
  plan : List PlanBlock := []
  deriving DecidableEq, Repr, Inhabited

/-- The weight-stream window (R249): its range, and the translations that SWIN took: for each 64 KiB granule its address, leaf and level. -/
structure StreamWin where
  asid : Nat
  base : Nat
  len : Nat
  pages : List (Nat × Nat × Nat) := []
  deriving DecidableEq, Repr, Inhabited

/-- A PREF in flight (R248). -/
structure Pref where
  ctx : Nat
  tl : Nat
  tlval : Nat
  deriving DecidableEq, Repr, Inhabited

/-- How a ray query stands (R309 to R312, R328). -/
inductive QueryState where
  | walking | ready (t prim inst uv : Word) | failed (cause : Cause) (tval : Word)
  deriving DecidableEq, Repr, Inhabited

/-- A ray state's fields (R304). -/
structure RayState where
  org : List Word := []
  dir : List Word := []
  tmin : Word := 0
  tmax : Word := 0
  node : Word64 := 0
  trail : Word64 := 0
  ctrl : Word := 0
  gen : Word := 0
  deriving DecidableEq, Repr, Inhabited

/-- A live ray query (R301, R305, R328). -/
structure Query where
  handle : Word := 0
  cl : Nat := 0
  uid : Nat := 0
  pos : Nat := 0
  launch : Nat := 0
  pin : Nat := 0
  stateVa : Nat := 0
  statePa : Nat := 0
  rs : RayState := {}
  miss : Bool := false
  hdrVa : Nat := 0
  root : Nat := 0
  fmt : NodeFmt := {}
  gen : Word := 0
  space : Space := {}
  priv : Bool := false
  st : QueryState := .walking
  deriving DecidableEq, Repr, Inhabited

/-- GFXSTAT states (R372). -/
inductive GfxState where
  | idle | run | done | fault
  deriving DecidableEq, Repr, Inhabited

/-- A frame descriptor's fields (R373). -/
structure FrameDesc where
  id : Nat := 0
  nseq : Nat := 0
  chunk : Nat := 64
  width : Nat := 1
  height : Nat := 1
  flags : Nat := 0
  tl : Nat := 0
  tlval : Nat := 0
  rmap : Nat := 0
  vb : Nat := 0
  atlas : Nat := 0
  abw : Nat := 1
  abh : Nat := 1
  atlq : Nat := 0
  astate : Nat := 0
  akdesc : Nat := 0
  stats : Nat := 0
  reservedOk : Bool := true
  deriving DecidableEq, Repr, Inhabited

/-- A visibility packet (R375, R376, R387): the geometry die that emitted it and its frame (descriptor address and FRAMEID); vertices as x, y,
z and UINT16 u, v; its triangles, with whether each is culled; the regions of its set, those that have not consumed it, and its samples so far. -/
structure GPacket where
  src : Nat
  frame : Nat × Nat
  seq : Nat
  qen : Bool
  query : Nat
  verts : List (Word × Word × Word × Nat × Nat)
  tris : List (List Nat × Bool)
  regions : List Nat
  left : List Nat
  samples : Nat := 0
  deriving DecidableEq, Repr, Inhabited

/-- A die's part of a frame (R372 to R382). On a geometry die: the sequence numbers accepted, whether MV.END has ended its stream, the cursor,
the accepted packets not yet forwarded, and the frames it has finished. On a shading die: the regions it owns, the watermarks received, the
stopped regions, the regions whose blocks have been requested, and whether the walk of R382 has been made. -/
structure Gfx where
  st : GfxState := .idle
  desc : FrameDesc := {}
  descPa : Nat := 0
  space : Space := {}
  owned : List Nat := []
  accepted : List Nat := []
  mvEnd : Bool := false
  cursor : Nat := 0
  reorder : List GPacket := []
  finished : List (Nat × Nat) := []
  wmark : Tab Nat := []
  stopped : List Nat := []
  requested : List Nat := []
  walked : Bool := false
  deriving DecidableEq, Repr, Inhabited

/-- A shading or geometry die (12 to 15, 18). `l2bad` lists the 16-byte units whose marks stand in its L2 alone (R247), and `slotAdmit` when each
hardware queue slot last admitted a team (R264). -/
structure Die where
  xinva : Word64 := 0
  invals : List Inval := []
  xinvDone : Word := 0
  tlb : List TlbEnt := []
  fqbase : Word64 := 0
  fqcfg : Word64 := 0
  fqtail : Word64 := 0
  fqhead : Word64 := 0
  faults : List PFault := []
  qtbase : Word64 := 0
  ctxbase : Word64 := 0
  segpool : Word64 := 0
  segfree : Word := 0
  coreen0 : Word64 := 0
  coreen1 : Word := 0
  strmbase : Word64 := 0
  discards : Word64 := 0
  tlOwner : Tab (BitVec 16) := []
  timelines : Tab Word64 := []
  hostirq : Tab Word64 := []
  queues : Tab Queue := []
  objs : Tab ObjCopy := []
  streams : Tab Stream := []
  pins : List Pin := []
  jobs : List Job := []
  running : Option Job := none
  nft : Tab (List NodeFmt) := []
  swin : Option StreamWin := none
  prefs : List Pref := []
  gfx : Gfx := {}
  pend : List PendStore := []
  stale : List StaleByte := []
  l2bad : List Nat := []
  slotAdmit : Tab Nat := []
  lastTick : Nat := 0
  deriving DecidableEq, Repr, Inhabited

/-! ### Package -/

/-- A Basin die's counters (R351, R406). `moved` holds the bytes read and the bytes written on channel k since module reset, under 2k and 2k + 1. -/
structure Basin where
  cecnt : Word64 := 0
  uecnt : Word64 := 0
  poisons : Word64 := 0
  moved : Tab Nat := []
  deriving DecidableEq, Repr, Inhabited

/-- A surface-table entry (R383). -/
structure Surface where
  base : Word64 := 0
  ntile : Word64 := 0
  pmeta : Word64 := 0
  clear : Word64 := 0
  deriving DecidableEq, Repr, Inhabited

/-- A pending spring (R366): its entry's number and BASE, count, last granule offset, and its record's queue slot once enqueued. -/
structure Spring where
  entry : Nat := 0
  base : Nat := 0
  count : Nat := 0
  granule : Nat := 0
  recPa : Option Nat := none
  deriving DecidableEq, Repr, Inhabited

/-- A watch entry (R363 to R371). Times are reference counts; `pending` names its pending spring, which may outlive the entry (R370). -/
structure Watch where
  armed : Bool := false
  flooded : Bool := false
  space : Space := {}
  die : Nat := 0
  uid : Nat := 0
  pos : Nat := 0
  base : Nat := 0
  len : Nat := 0
  pa : Nat := 0
  queue : Nat := 0
  tdie : Nat := 0
  flags : Nat := 0
  kdesc : Nat := 0
  frame : Nat := 0
  window : Nat := 0
  budget : Nat := 1
  lanes : Nat := 1
  user : List Word := []
  pending : Option Nat := none
  holdoff : Option Nat := none
  armedAt : Nat := 0
  interval : Nat := 0
  trig : Nat := 0
  deriving DecidableEq, Repr, Inhabited

/-- A record held for a later enqueue (R283, R382): die, queue, bytes, and the spring it is for, or the region whose walk requested it. -/
structure HeldRec where
  die : Nat
  queue : Nat
  bytes : List Byte
  spring : Option Nat
  region : Option Nat := none
  deriving DecidableEq, Repr, Inhabited

/-- A packet on its way to another device (R426): the device and its address that name the path, the packet, and the number of the store of this
module that it carries. -/
structure Parcel where
  dev : Nat
  pa : Nat
  pkt : Packet
  own : Option Nat := none
  deriving DecidableEq, Repr

/-- A Linwen Link port (R424 to R426). `out` are packets that no flit carries yet; `kept` are the flits that the peer has not confirmed, each by its
sequence number and the packets that end in it; `rx` is the part of a packet that has arrived; `downAt` is when the port last went down; and
`streak` counts the failed replays of the flit `failing`. -/
structure Port where
  st : Nat := 0
  enable : Bool := true
  width : Nat := 0
  peerDev : Nat := 0
  peerGrp : Nat := 0
  replays : Word := 0
  crcErr : Word := 0
  expect : BitVec 16 := 0
  nextSeq : BitVec 16 := 0
  out : List Parcel := []
  kept : List (BitVec 16 × List Parcel) := []
  rx : List Byte := []
  downAt : Nat := 0
  failing : Option (BitVec 16) := none
  streak : Nat := 0
  attempts : Nat := 0
  nakOut : List (BitVec 16) := []
  deriving DecidableEq, Repr, Inhabited

/-- A decrement of a join counter (R271): its die, the space and privilege under which CONT is read, whether it is poisoned; the queue, task, unit
address and CORE that a fault record for CONT names (R243); and the launch whose completion it is part of, with its entry's number. -/
structure Decrement where
  die : Nat := 0
  space : Space := {}
  priv : Bool := false
  poisoned : Bool := false
  queue : Nat := 0
  task : Nat := 0
  tpc : Word := 0
  core : Word := 0
  launch : Option (Nat × Nat) := none
  deriving DecidableEq, Repr, Inhabited

/-- What an access in flight is for: the threads of the wave that waits for it; a decrement (R271, R318); an ATL.REQ of this die, by member,
destination, block and leaf of the block's state (R388); the unit that the wave waits in; a pending store into a block of a typed page, by its
number (R70); another device's access of the host window (R429), by device and number; or a read of the host's (R429). -/
inductive OutFor where
  | threads
  | join (x : Decrement) (e : Nat)
  | request (p : Nat) (c : Code) (block leaf : Nat)
  | unit
  | block (own : Nat)
  | device (src tag : Nat)
  | host
  deriving DecidableEq, Repr, Inhabited

/-- What an access outside the module does beside reading: an atomic's operation, operand and compare value; or the exchange of a block of a typed
page for another, where it still holds some bytes (R70); with no bytes it reads the block alone. -/
inductive OutOp where
  | load
  | atomic (op : Nat) (b c : Word64)
  | swap (old new : List Byte)
  deriving DecidableEq, Repr, Inhabited

/-- A load or atomic in flight: outside the module (R428 to R430), or behind a release that has not taken effect (R355). Its launch, its wave and unit address,
its physical or outside address, virtual address and size; for each waiting thread the destination of its value and what the thread adds to it (0 but within
ATOMAGG.ADD); the format and element that a typed page's
bytes are decoded under, with the number of elements and whether to BF16; what it does; what it is for; whether it acquires at SYS; the reference
count at its issue; and the bytes of its die's own stores that had not reached their home then (R245). -/
structure OutAccess where
  die : Nat := 0
  launch : Nat := 0
  uid : Nat := 0
  wave : Nat := 0
  tpc : Word := 0
  addr : Nat := 0
  va : Nat := 0
  asid : Nat := 0
  size : Nat := 0
  dests : List (Nat × Code × Word64) := []
  signExt : Bool := false
  typed : Option (Nat × Nat × Nat × Bool) := none
  op : OutOp := .load
  to_ : OutFor := .threads
  acquire : Bool := false
  since : Nat := 0
  own : Tab Byte := []
  deriving DecidableEq, Repr, Inhabited

/-- Bytes from outside the module that a unit needs before it can execute: their virtual and outside address, and their number. -/
structure Need where
  va : Nat
  addr : Nat
  size : Nat
  deriving DecidableEq, Repr, Inhabited

/-- Entries of the MC log (R402). -/
inductive LogEntry where
  | corrected (core : Nat) | correctedBasin (rank : Nat) | sensorFailed (region idx : Nat) | gateFailed (cl pair : Nat) | comparator (die : Nat)
  | port (p : Nat) | replay (p : Nat) | abandoned (addr : Nat)
  deriving DecidableEq, Repr, Inhabited

/-- A sensor's record (R400): last raw code, reference count since it is unchanged, failed mark, value in use. -/
structure Sensor where
  raw : Nat := 0
  since : Nat := 0
  failed : Bool := false
  value : Int := 0
  deriving DecidableEq, Repr, Inhabited

/-- The Weir's registers (R393, R426) and the MC's own state (R398 to R406). `powered` says that the dies have power; `cut` that the comparator took
it, `alwaysOn` that the always-on domain has kept it; `trigger` is an accepted trigger's latch count and source; `mbRun` the command that the MC
executes with its argument, and `nonce` the first 32 bytes of BUF when it was posted; `overPower` and `lowSince` are the two sides of R398, the
latter the reference count since which the mean is below 1,700 W; `capped` is the figures that the MC restores, the last lowered first; `unsent` are
the packets that wait for a port of their path. -/
structure Weir where
  powered : Bool := true
  cut : Bool := false
  alwaysOn : Bool := true
  boots : Nat := 1
  dmt : List DieKind := []
  ready : Bool := false
  reason : BitVec 12 := 0
  mhz : Nat := 2250
  tgt : Nat := 2250
  floor : Bool := false
  switchAt : Option Nat := none
  fclock : Word64 := 0
  arm : Bool := false
  heldSnap : Bool := false
  imm : Byte := 0
  trapen : Bool := false
  snapclk : Word := 0
  trigger : Option (Nat × Nat) := none
  image : List Byte := []
  mbcmd : Byte := 0
  mbarg : Word64 := 0
  mbcode : Nat := 0
  mbRun : Option (Nat × Word64) := none
  nonce : List Byte := []
  mblen : Word := 0
  buf : Tab Byte := []
  rate : Tab Nat := []
  bytes : Tab Nat := []
  overPower : Bool := false
  lowSince : Option Nat := none
  capped : List PowerChange := []
  bankA : Tab Byte := []
  bankB : Tab Byte := []
  runA : Bool := true
  activate : Bool := false
  log : List LogEntry := []
  sensors : Tab Sensor := []
  grpcfg : BitVec 32 := 0
  devtab : Tab Word64 := []
  ports : Tab Port := []
  unsent : List Parcel := []
  lto : Word := 100000
  lost : Word64 := 0
  deriving DecidableEq, Repr, Inhabited

/-! ### The model's own fields -/

/-- The vector prefix of a unit, with the values of R34 when there is none. -/
structure VPrefix where
  present : Bool := false
  c : Code := 0xFF
  rm : BitVec 3 := 0
  zero : Bool := false
  men : Bool := false
  pred : PredNo := 0
  deriving DecidableEq, Repr, Inhabited

/-- The memory prefix of a unit, with the values of R36 when there is none. -/
structure MPrefix where
  present : Bool := false
  wide : Bool := false
  nt : Bool := false
  sc : Bool := false
  ord : BitVec 2 := 0
  scope : BitVec 3 := 3
  deriving DecidableEq, Repr, Inhabited

/-- A load of one thread that has issued and whose value is still open to stores of other dies (R353 point 5, log 9): its die, wave and uid, the
thread's position, the destination, where it reads and how many bytes, and whether they are sign-extended. -/
structure Delayed where
  die : Nat
  wave : Nat
  uid : Nat
  pos : Nat
  code : Code
  pa : Nat
  size : Nat
  signExt : Bool
  deriving DecidableEq, Repr, Inhabited

/-- The unit being issued (log 3): the wave's key, the issue group as positions in rising order (R12), the threads that were ready,
the unit's address and length (R38), its first 32 bits for TVAL (R24), its code bytes and its prefixes. `held` is set by a unit that does not
issue now or waits and has done nothing, and `inPlace` by one that has issued and waits in place (R212); `rest` lists the members that wait in
place when others have completed. `loads` lists the plain loads that it performed. `full` is the issue group with the members that a noted cause
stopped (R433). `part`, `led` and `regs` are those of the InPlace that it goes on with. `blocked` is set where an access must wait, for a release or
for an earlier store of its thread (R349, R353, R355), `need` where the unit first needs bytes from outside, and `away` where an access is in flight. -/
structure Cur where
  wave : Nat := 0
  group : List Nat := []
  ready : List Nat := []
  addr : Word := 0
  len : Nat := 4
  first : Word := 0
  code : List Byte := []
  vp : VPrefix := {}
  mp : MPrefix := {}
  held : Bool := false
  inPlace : Bool := false
  rest : List Nat := []
  loads : List Delayed := []
  full : List Nat := []
  part : Bool := false
  led : Bool := false
  regs : Tab Word := []
  blocked : Bool := false
  need : Option Need := none
  away : Bool := false
  deriving DecidableEq, Repr, Inhabited

/-- What moves next (log 2): time passes; a core issues, where `late` lists the slots whose next unit is not ready or finds its unit busy (R79,
R132), and `open_` says that the loads of the issue stay open (R353 point 5); a step of the hardware or of the outside world happens; a
marked unit is written back from a die's L2 (R247); or the MC sets a new arithmetic frequency (R395). -/
inductive Action where
  | tick (clks : Nat)
  | issue (core : Nat) (late : List Nat) (open_ : Bool)
  | event (i : Instr)
  | writeBack (die pa : Nat)
  | target (mhz : Nat)
  deriving DecidableEq, Repr

/-! ### The state -/

/-- The state of the module. -/
structure State where
  clock : Nat := 0
  refPhase : Nat := 0
  ref : Nat := 0
  mem : List Host.Cell := []
  poison : List Nat := []
  outside : Tab Byte := []
  ver : Nat := 0
  rgnOwner : Tab Nat := []
  surfaces : Tab Surface := []
  sems : Tab Word := []
  watches : Tab Watch := []
  springs : Tab Spring := []
  heldRecs : List HeldRec := []
  packets : List GPacket := []
  basins : Tab Basin := []
  dies : Tab Die := []
  clusters : Tab Cluster := []
  cores : Tab CoreSt := []
  waves : Tab Wave := []
  teams : Tab Team := []
  launches : Tab Launch := []
  parked : Tab Parked := []
  structs : Tab Struct := []
  queries : Tab Query := []
  outs : Tab OutAccess := []
  delayed : List Delayed := []
  weir : Weir := {}
  latent : List EccSite := []
  msix : List Nat := []
  hostReads : List (List Byte) := []
  agenda : List Action := []
  cur : Cur := {}
  freeCtr : Nat := 0
  nextId : Nat := 1
  deriving DecidableEq, Repr

/-- Why a step stops with a fault. -/
inductive Fault where
  /-- Raised by step when the dies have no power (R399, SUPPLY_LOSS) and the agenda holds no event: the module stays off until its
  supply is cycled or the host asserts reset, so nothing of it moves. Safe: the hardware does nothing either. -/
  | noPower
  deriving DecidableEq, Repr

/-- Why an instruction has no meaning. -/
inductive Refusal where
  /-- Raised by exec for a row that has no meaning in the model. Safe. -/
  | notModelled (mnemonic : String)
  deriving DecidableEq, Repr

/-- COREEN after boot: every present core (R254, R394): 96 on a shading die, 32 on a geometry die. -/
def dieAtBoot : DieKind → Die
  | .shading => { coreen0 := 0xFFFFFFFFFFFFFFFF, coreen1 := 0xFFFFFFFF }
  | .geometry => { coreen0 := 0xFFFFFFFF }
  | _ => {}

/-- The dies of a mix after boot; Basin dies have no entry here. -/
def diesAtBoot : Nat → List DieKind → Tab Die
  | _, [] => []
  | d, .shading :: t => (d, dieAtBoot .shading) :: diesAtBoot (d + 1) t
  | d, .geometry :: t => (d, dieAtBoot .geometry) :: diesAtBoot (d + 1) t
  | d, _ :: t => diesAtBoot (d + 1) t

/-- The machine right after reset: booted as R394 says, on the flagship's mix (log 4). -/
def State.reset : State :=
  { dies := diesAtBoot 0 Config.flagshipMix
    weir := { dmt := Config.flagshipMix, ready := true, reason := 1, grpcfg := 2 } }

end Sys2Proof.Machine
end

