-- ==== Sys2Proof/Machine/Access.lean ====
section
/-! DEFINITION. Reading and updating the pieces of the state by key, the numbering of cores and clusters (R186, R127), and the register
accessors of a thread (R13, R30). -/

namespace Sys2Proof.Machine

open Sys2Proof

/-! ### Keys -/

/-- The die, cluster and core of a key. -/
def dieOfCore (k : Nat) : Nat := k / 128
def clusterOfCore (k : Nat) : Nat := k / 8
def dieOfCluster (c : Nat) : Nat := c / 16
def coreOfWave (w : Nat) : Nat := w / 16
def slotOfWave (w : Nat) : Nat := w % 16
def clusterOfWave (w : Nat) : Nat := w / 128
def dieOfWave (w : Nat) : Nat := w / 2048

/-- The pair of a core within its cluster, and its tier (R186). -/
def pairOfCore (k : Nat) : Nat := k % 8 / 2
def tierOfCore (k : Nat) : Nat := k % 2

/-- The other core of a core's vertical pair. -/
def partnerCore (k : Nat) : Nat := if k % 2 = 0 then k + 1 else k - 1

/-- The CORE register of a core (R21). -/
def coreRegister (k : Nat) : Word :=
  word (256 * (dieOfCore k) + 16 * (k % 128 / 8) + k % 8)

/-! ### Pieces of the state -/

/-- What stands at a Die Mix Table index. -/
def State.kindOf (s : State) (d : Nat) : DieKind := s.weir.dmt.getD d .absent

def State.die (s : State) (d : Nat) : Die := s.dies.get {} d
def State.setDie (s : State) (d : Nat) (x : Die) : State := { s with dies := s.dies.put d x }
def State.modDie (s : State) (d : Nat) (f : Die → Die) : State := s.setDie d (f (s.die d))

def State.cluster (s : State) (k : Nat) : Cluster := s.clusters.get {} k
def State.setCluster (s : State) (k : Nat) (x : Cluster) : State := { s with clusters := s.clusters.put k x }
def State.modCluster (s : State) (k : Nat) (f : Cluster → Cluster) : State := s.setCluster k (f (s.cluster k))

def State.core (s : State) (k : Nat) : CoreSt := s.cores.get {} k
def State.setCore (s : State) (k : Nat) (x : CoreSt) : State := { s with cores := s.cores.put k x }
def State.modCore (s : State) (k : Nat) (f : CoreSt → CoreSt) : State := s.setCore k (f (s.core k))

/-- The wave of a slot; a slot without a wave reads as a wave without threads. -/
def State.wave (s : State) (k : Nat) : Wave := s.waves.get {} k
def State.setWave (s : State) (k : Nat) (x : Wave) : State := { s with waves := s.waves.put k x }
/-- Updates the wave of a slot, if there is one. -/
def State.modWave (s : State) (k : Nat) (f : Wave → Wave) : State :=
  match s.waves.find k with
  | some w => s.setWave k (f w)
  | none => s

def State.team (s : State) (t : Nat) : Team := s.teams.get {} t
def State.modTeam (s : State) (t : Nat) (f : Team → Team) : State :=
  match s.teams.find t with
  | some x => { s with teams := s.teams.put t (f x) }
  | none => s

def State.launch (s : State) (l : Nat) : Launch := s.launches.get {} l
def State.modLaunch (s : State) (l : Nat) (f : Launch → Launch) : State :=
  match s.launches.find l with
  | some x => { s with launches := s.launches.put l (f x) }
  | none => s

/-- A team's barriers by number (R189). -/
def Team.barrier (t : Team) (b : Nat) : Barrier := t.barriers.get {} b
def Team.setBarrier (t : Team) (b : Nat) (x : Barrier) : Team := { t with barriers := t.barriers.put b x }

def State.queue (s : State) (d q : Nat) : Queue := (s.die d).queues.get {} q
def State.modQueue (s : State) (d q : Nat) (f : Queue → Queue) : State :=
  s.modDie d fun x => { x with queues := x.queues.put q (f (x.queues.get {} q)) }

/-- The threads of a wave by position. A position without a thread reads as an ended one. -/
def Wave.thread (w : Wave) (p : Nat) : Thread := w.threads.getD p { ended := true }
def Wave.setThread (w : Wave) (p : Nat) (t : Thread) : Wave := { w with threads := listSet w.threads p t }
def Wave.modThread (w : Wave) (p : Nat) (f : Thread → Thread) : Wave := w.setThread p (f (w.thread p))

def State.thread (s : State) (k p : Nat) : Thread := (s.wave k).thread p
def State.modThread (s : State) (k p : Nat) (f : Thread → Thread) : State := s.modWave k fun w => w.modThread p f

/-- A fresh identifier, and the state in which it is taken. -/
def State.fresh (s : State) : Nat × State := (s.nextId, { s with nextId := s.nextId + 1 })

/-- Takes a free bit (log 1). -/
def State.freeBit (s : State) : Bool × State := (Config.freeBit s.freeCtr, { s with freeCtr := s.freeCtr + 1 })

/-- Free bytes (log 1). -/
def State.freeBytes (s : State) : Nat → List Byte × State
  | 0 => ([], s)
  | n + 1 =>
    let (t, s) := s.freeBytes n
    (Config.freeByte s.freeCtr :: t, { s with freeCtr := s.freeCtr + 1 })

/-- What an access that is not performed has chosen is not chosen again: later free values stand far from those it took (log 1). -/
def State.skipFree (s : State) : State := { s with freeCtr := s.freeCtr + 2 ^ 32 }

/-- The wave whose unit is being issued, its core and its die. -/
def State.me (s : State) : Wave := s.wave s.cur.wave
def State.myCore (s : State) : Nat := coreOfWave s.cur.wave
def State.myDie (s : State) : Nat := dieOfWave s.cur.wave
def State.myCluster (s : State) : Nat := clusterOfWave s.cur.wave
def State.myLaunch (s : State) : Launch := s.launch s.me.launch
def State.myTeam (s : State) : Team := s.team s.me.team

/-- Folds a state transformation over a list. -/
def foldState {α : Type} (f : α → State → State) : List α → State → State
  | [], s => s
  | a :: t, s => foldState f t (f a s)

/-! ### Registers -/

/-- A thread's latch n (R17). -/
def Thread.latch (t : Thread) (n : Nat) : Latch :=
  match n with
  | 0 => t.h0
  | 1 => t.h1
  | 2 => t.h2
  | _ => t.h3

/-- The value that a V, W or O code names, and that H, Z and LANE codes supply (R30). DRN and 0xFF name no register and read 0 here. -/
def Wave.readCode (w : Wave) (p : Nat) (c : Code) : Word :=
  let n := c.toNat
  let t := w.thread p
  if n < 0xE0 then t.v.get 0 n
  else if n < 0xF0 then w.w.get 0 (n - 0xE0)
  else if n < 0xF8 then t.o.get 0 (n - 0xF0)
  else if n < 0xFC then (t.latch (n - 0xF8)).val
  else if n = 0xFE then word (w.base + p)
  else 0

/-- A V or O register takes a value; its error mark, kept under its code, ends when it is written (R141). -/
def Thread.putV (t : Thread) (n : Nat) (x : Word) : Thread := { t with v := t.v.putD 0 n x, bad := t.bad.filter (· != n) }
def Thread.putO (t : Thread) (n : Nat) (x : Word) : Thread := { t with o := t.o.putD 0 (n - 0xF0) x, bad := t.bad.filter (· != n) }

/-- A collector hold on a V register ends when it is written (R167). -/
def Wave.endHolds (w : Wave) (n : Nat) : Wave := { w with collector := w.collector.filter fun h => !(h.2.1 ≤ n && n < h.2.1 + h.2.2.1) }

/-- A W register takes a value. -/
def Wave.putW (w : Wave) (n : Nat) (x : Word) : Wave := { w with w := w.w.putD 0 (n - 0xE0) x }

/-- Writes the register that a V, W or O code names; other codes name none. -/
def Wave.writeCode (w : Wave) (p : Nat) (c : Code) (x : Word) : Wave :=
  let n := c.toNat
  if n < 0xE0 then (w.modThread p fun t => t.putV n x).endHolds n
  else if n < 0xF0 then w.putW n x
  else if n < 0xF8 then w.modThread p fun t => t.putO n x
  else w

/-- Whether a code names a register of the wave rather than of a thread. -/
def isW (c : Code) : Bool := 0xE0 ≤ c.toNat && c.toNat < 0xF0

/-- Predicates: M0 is hard-wired true (R13). -/
def Thread.pred (t : Thread) (m : PredNo) : Bool := m == 0 || t.m.getLsbD m.toNat

/-- Writes a predicate; a write to M0 is discarded (R14). -/
def Thread.setPred (t : Thread) (m : PredNo) (b : Bool) : Thread :=
  if m == 0 then t
  else { t with m := if b then t.m ||| (1#8 <<< m.toNat) else t.m &&& ~~~(1#8 <<< m.toNat) }

/-- PushLatch of R17. -/
def Thread.push (t : Thread) (l : Latch) : Thread := { t with h3 := t.h2, h2 := t.h1, h1 := t.h0, h0 := l }

/-- R18: all four latches of a thread become invalid. -/
def Thread.dropLatches (t : Thread) : Thread :=
  { t with h0 := { t.h0 with valid := false }, h1 := { t.h1 with valid := false },
           h2 := { t.h2 with valid := false }, h3 := { t.h3 with valid := false } }

/-- R18 points 1, 2 and 4: the latches of every thread of a wave become invalid. -/
def Wave.dropLatches (w : Wave) : Wave := { w with threads := w.threads.map Thread.dropLatches }

/-- The positions of a wave. -/
def Wave.positions (w : Wave) : List Nat := List.range w.threads.length

/-- The octets of a core that a wave's lanes cover (R127). -/
def Wave.octets (w : Wave) : List Nat := upFrom (w.base / 8) (w.width / 8)

/-- The absolute octet of a position. -/
def Wave.octetOf (w : Wave) (p : Nat) : Nat := (w.base + p) / 8

/-- The element of a list that is least under a measure, the first of equals. -/
def argMin {α : Type} (f : α → Nat) : List α → Option α
  | [] => none
  | a :: t =>
    match argMin f t with
    | none => some a
    | some b => if f b < f a then some b else some a

end Sys2Proof.Machine
end

