-- ==== Sys2Proof/Machine/Phys.lean ====
section
/-! DEFINITION. Physical memory: the map (R234), homes (R347), each die's view of the homes (R352) and the stores of a die that have not
reached their home. One step of the machine is atomic here, so a die's order (R250) is the order of the steps and, inside a step, of the
accesses it performs (log 10). -/

namespace Sys2Proof.Machine

open Sys2Proof

/-- The Die Mix Table indices of a kind of die, in order. -/
def diesOfKind (k : DieKind) : Nat → List DieKind → List Nat
  | _, [] => []
  | i, x :: t => if x = k then i :: diesOfKind k (i + 1) t else diesOfKind k (i + 1) t

/-- The Basin dies by rank (R347). -/
def State.basinDies (s : State) : List Nat := diesOfKind .basin 0 s.weir.dmt

/-- The dies that run threads. -/
def State.computeDies (s : State) : List Nat := diesOfKind .geometry 0 s.weir.dmt ++ diesOfKind .shading 0 s.weir.dmt

/-- Bytes of device memory: 128 GB for each Basin die, in decimal (R3, R234). -/
def State.deviceBytes (s : State) : Nat := s.basinDies.length * (128 * 10 ^ 9)

/-- A control-space address lies in the control block of a die that the module lacks (R2, R234). -/
def State.inAbsentDie (s : State) (pa : Nat) : Bool :=
  pa - 2 ^ 40 < 0x10000000 && s.kindOf ((pa - 2 ^ 40) / 0x1000000) == .absent

/-- Regions of the physical map (R234). An outside address stands for memory of another device of the group: 2^60 + device × 2^46 +
address there (R427). What an absent die would hold is unpopulated, so that an access to it faults (R2). -/
inductive Region where
  | device | control | host | remote | hole
  deriving DecidableEq, Repr

def State.regionOf (s : State) (pa : Nat) : Region :=
  if pa < s.deviceBytes then .device
  else if 2 ^ 40 ≤ pa ∧ pa < 2 ^ 40 + 2 ^ 32 ∧ !s.inAbsentDie pa then .control
  else if 2 ^ 51 ≤ pa ∧ pa < 2 ^ 52 then .host
  else if 2 ^ 60 ≤ pa then .remote
  else .hole

/-- The rank of the Basin die that is the home of an address (R347). -/
def State.homeOf (s : State) (pa : Nat) : Nat := pa / 4096 % s.basinDies.length

/-! ### The homes -/

/-- Memory's canonical form: strictly rising addresses, and no entry equal to 0, what an unlisted address reads as (R394). -/
def Memory.wf : List Host.Cell → Bool
  | [] => true
  | [c] => c.2 != 0
  | c :: c' :: t => c.2 != 0 && c.1 < c'.1 && Memory.wf (c' :: t)

/-- The byte that stands at the home of a physical address; memory is 0 after boot (R394). -/
def State.homeByte (s : State) (pa : Nat) : Byte := Tab.get s.mem 0 pa

/-- Puts a byte at its home. -/
def State.putHomeByte (s : State) (pa : Nat) (b : Byte) : State := { s with mem := Tab.putD s.mem 0 pa b }

/-- A byte of host memory or of another device, as this module knows it (log 8). -/
def State.outsideByte (s : State) (pa : Nat) : Byte := (Tab.find s.outside pa).getD (Config.outsideByte s.clock pa)

/-- The byte in place at any address: device memory at its home, or outside memory. -/
def State.placeByte (s : State) (pa : Nat) : Byte := if pa < 2 ^ 51 then s.homeByte pa else s.outsideByte pa

/-! ### Views -/

/-- Whether a pending store of stored bytes covers an address. -/
def PendStore.covers (e : PendStore) (pa : Nat) : Bool := !e.tile && decide (e.pa ≤ pa) && decide (pa < e.pa + e.data.length)

/-- The bytes that a pending store is ordered by: those that it stores, or those of its whole tile (R384). -/
def PendStore.range (e : PendStore) : Nat × Nat := if e.tile then (e.pa / 256 * 256, 256) else (e.pa, e.data.length)

/-- The byte of the last store of the die that covers an address and has not reached its home. -/
def pendByte : List PendStore → Nat → Option Byte
  | [], _ => none
  | e :: t, pa =>
    match pendByte t pa with
    | some b => some b
    | none => if e.covers pa then some (e.data.getD (pa - e.pa) 0) else none

/-- The die's view of a byte when it is older than the home's. -/
def staleByte : List StaleByte → Nat → Option Byte
  | [], _ => none
  | e :: t, pa => if e.pa = pa then some e.val else staleByte t pa

/-- The byte that an access of die d reads (R250, R352): its own die's latest store, else the die's view. -/
def State.viewByte (s : State) (d pa : Nat) : Byte :=
  match pendByte (s.die d).pend pa with
  | some b => b
  | none => (staleByte (s.die d).stale pa).getD (s.placeByte pa)

/-- `len` bytes of die d's order from an address on. -/
def State.viewBytes (s : State) (d pa len : Nat) : List Byte := (upFrom pa len).map (s.viewByte d)

/-- A little-endian number of `len` bytes in die d's order. -/
def State.viewNat (s : State) (d pa len : Nat) : Nat := leNat (s.viewBytes d pa len)

/-- The 16-byte units that a range covers whole. -/
def wholeUnits (pa len : Nat) : List Nat :=
  (upFrom (ceilDiv pa 16) (len / 16 + 1)).filter fun u => pa ≤ 16 * u && 16 * u + 16 ≤ pa + len

/-- Whether the 16-byte unit that holds an address reads as poisoned on die d (R247): a mark in the die's own L2, or the home's. A pending store
of all the unit's bytes covers the home's mark, and a pending store that carries a mark shows it. -/
def State.poisonedAt (s : State) (d pa : Nat) : Bool :=
  let u := pa / 16
  let whole := (s.die d).pend.filter fun e => !e.tile && decide (e.pa ≤ 16 * u) && decide (16 * u + 16 ≤ e.pa + e.data.length)
  (s.die d).l2bad.contains u || match whole.getLast? with
    | some e => e.poisoned
    | none => s.poison.contains u || (s.die d).pend.any fun e => e.poisoned && e.pa < 16 * u + 16 && 16 * u < e.pa + e.data.length

/-- Whether a byte range on die d meets a poisoned unit, and the first such address. -/
def State.poisonIn (s : State) (d pa len : Nat) : Option Nat :=
  (upFrom (pa / 16) (ceilDiv (pa % 16 + len) 16)).findSome? fun u => if s.poisonedAt d (16 * u) then some (16 * u) else none

/-- Marks the 16-byte unit of an address (R247, R350). A mark that is new counts in POISONS of its home. -/
def State.markPoison (s : State) (pa : Nat) : State :=
  let u := pa / 16
  if s.poison.contains u then s
  else
    let h := s.homeOf pa
    let b := s.basins.get {} h
    { s with poison := sortedInsert s.poison u, basins := s.basins.put h { b with poisons := b.poisons + 1 } }

/-! ### Streams (R274) -/

/-- Bytes with their addresses. -/
def cellsOf (pa : Nat) : List Byte → List (Nat × Byte)
  | [] => []
  | b :: t => (pa, b) :: cellsOf (pa + 1) t

/-- Where the entry of a die's stream stands. -/
def State.streamEntry (s : State) (d n : Nat) : Nat := (s.die d).strmbase.toNat + 32 * n

/-- The stream of a die whose entry holds an address. -/
def Die.streamOf (x : Die) (pa : Nat) : Option Nat :=
  let off := pa - x.strmbase.toNat
  if x.strmbase.toNat ≤ pa && off / 32 < 256 then some (off / 32) else none

/-- A stream as an entry's bytes enable it: it is empty. -/
def enabledStream (b : List Byte) : Stream := { en := true, base := field b 0 8, logcap := field b 8 1, nprod := field b 9 1, ctx := field b 0x0A 1 }

/-- The entry of a stream whose EN a store of the die has set is read, and the stream is empty. -/
def State.settleStream (s : State) (d n : Nat) : State :=
  if !((s.die d).streams.get {} n).due then s
  else
    let x := enabledStream (s.viewBytes d (s.streamEntry d n) 32)
    s.modDie d fun y => { y with streams := y.streams.put n x }

/-- Entries of die d that are due are read before a store changes them. -/
def State.settleStreams (s : State) (d : Nat) (cells : List (Nat × Byte)) : State :=
  if (s.die d).streams.any fun x => x.2.due then foldState (fun n s => s.settleStream d n) (cells.filterMap fun c => (s.die d).streamOf c.1) s else s

/-- The streams of a die whose EN some stored bytes set. -/
def Die.enabled (x : Die) (cells : List (Nat × Byte)) : List Nat :=
  cells.filterMap fun c => if c.2.getLsbD 0 && (c.1 - x.strmbase.toNat) % 32 == 0x0B then x.streamOf c.1 else none

/-- The queues of a die whose EN some stored bytes clear: QP reads their descriptors anew when EN is set again (R257). -/
def Die.noteCleared (x : Die) (cells : List (Nat × Byte)) : Die :=
  let off (c : Nat × Byte) : Nat := c.1 - x.qtbase.toNat
  let qs := cells.filterMap fun c =>
    if x.qtbase.toNat ≤ c.1 && off c % 128 == 0x20 && off c / 128 < 4096 && !c.2.getLsbD 3 then some (off c / 128) else none
  { x with queues := x.queues.map fun q => if qs.contains q.1 then (q.1, { q.2 with cleared := true }) else q }

/-- A store of the die that sets EN makes the entry due to be read. One from elsewhere has it read where it lands, at its home. -/
def State.enableStreams (s : State) (d : Nat) (cells : List (Nat × Byte)) (outer : Bool := false) : State :=
  foldState (fun n s =>
    let x : Stream :=
      if outer then enabledStream ((upFrom (s.streamEntry d n) 32).map s.homeByte) else { (s.die d).streams.get {} n with due := true }
    s.modDie d fun y => { y with streams := y.streams.put n x }) ((s.die d).enabled cells) (s.modDie d fun x => x.noteCleared cells)

/-! ### Stores of a die -/

/-- The agent number of a thread. Agents 0 to 64 are copies (a TCOPY, and the copy channels), each of whose stores is on its own; the other engines
of a die follow a thread's rules (R352), each as an agent of its own. -/
def agentOf (uid p : Nat) : Nat := 64 * uid + p + 128
def qpAgent : Nat := 65
def faultAgent : Nat := 66
def builderAgent : Nat := 67
def sequencerAgent : Nat := 68

/-- The agent of a ray unit's write-backs, by cluster within its die. -/
def rayAgent (cl : Nat) : Nat := 80 + cl % 16

/-! ### Views rise (R104, R352) -/

/-- The stores of the coherence orders, by version, that a die's view must take in together with some: those before one of them in the order of a byte that
both wrote. A store so enters a view whole, and only behind what its bytes held before (R104). -/
def risesWith (l : List StaleByte) : Nat → List Nat → List Nat
  | 0, vs => vs
  | fuel + 1, vs =>
    let more := (l.filter fun y => !vs.contains y.ver && l.any fun x => x.pa == y.pa && vs.contains x.ver && decide (y.ver ≤ x.ver)).map StaleByte.ver
    if more.isEmpty then vs else risesWith l fuel (vs ++ more)

/-- A view after it has taken in some stores. -/
def rises (l : List StaleByte) (vs : List Nat) : List StaleByte :=
  let all := risesWith l l.length vs
  l.filter fun y => !all.contains y.ver

/-- A view after it has risen to the homes' bytes at some addresses. -/
def freshened (l : List StaleByte) (pas : List Nat) : List StaleByte := rises l ((l.filter fun y => pas.contains y.pa).map StaleByte.ver)

/-- Die d's view of some addresses rises to the home's bytes. -/
def State.freshen (s : State) (d : Nat) (pas : List Nat) : State :=
  if (s.die d).stale.isEmpty then s else s.modDie d fun x => { x with stale := freshened x.stale pas }

/-- A view without what it holds of some addresses: a store of the die itself stands there from now on. -/
def unstale (l : List StaleByte) (pas : List Nat) : List StaleByte := l.filter fun y => !pas.contains y.pa

/-- A store of die d enters the die's order (R352). One to an outside address keeps when it was issued (R430). One that writes a unit whole clears
the mark that the die's L2 holds for it (R247, R434). -/
def State.store (s : State) (d : Nat) (e : PendStore) : State :=
  let e := { e with out := if 2 ^ 51 ≤ e.pa then some (e.out.getD { since := s.ref }) else none }
  let units := wholeUnits e.pa e.data.length
  let cells := if e.tile then [] else cellsOf e.pa e.data
  let s := (s.settleStreams d cells).modDie d fun x =>
    { x with pend := x.pend ++ [e], stale := unstale x.stale (upFrom e.pa (if e.tile then 0 else e.data.length)), l2bad := x.l2bad.filter fun u => !units.contains u }
  s.enableStreams d cells

/-- A store of an engine of die d: QP, the fault queue, the builder, the sequencer, a ray unit (R352). -/
def State.engineStore (s : State) (d pa : Nat) (data : List Byte) (agent : Nat := qpAgent) : State :=
  s.store d { agent := agent, pa := pa, data := data }

/-- A store of `len` bytes of a number by an engine. -/
def State.engineNat (s : State) (d pa n len : Nat) (agent : Nat := qpAgent) : State := s.engineStore d pa (leBytes n len) agent

/-- Whether two byte ranges meet. -/
def rangesMeet (a alen b blen : Nat) : Bool := a < b + blen && b < a + alen

/-- A store of one agent and record follows another of theirs: the units of one record of a copy channel, and what TCOPYs move, are in no order (R151,
R199). -/
def followsIn (late early : Nat × Option Nat) : Bool := late.1 == early.1 && late.1 != 0 && (late.2.isNone || early.2 != late.2)

/-- From the last pending store to the first: which stores must reach home no later than the chosen ones. A store follows the earlier
stores of its agent (R353 point 2) and the earlier stores to its bytes (R352), and a release follows every earlier store (R355). -/
def mustPrecede : List PendStore → List (Nat × Option Nat) → List (Nat × Nat) → Bool → List Bool
  | [], _, _, _ => []
  | e :: t, agents, ranges, all =>
    let hit := all || (agents.any fun a => followsIn a (e.agent, e.unit)) || ranges.any fun r => rangesMeet r.1 r.2 e.range.1 e.range.2
    hit :: (if hit then mustPrecede t ((e.agent, e.unit) :: agents) (e.range :: ranges) (all || e.rel)
            else mustPrecede t agents ranges all)

/-- Whether the pending store at a position may reach its home next: nothing before it must precede it. -/
def mayReachHome (l : List PendStore) (i : Nat) : Bool :=
  match l[i]? with
  | none => false
  | some e => !(mustPrecede (l.take i).reverse [(e.agent, e.unit)] [e.range] e.rel).any id

/-- Of some pending stores, those that can reach their homes when some cannot: `stay` says which cannot by themselves, `agents` and `ranges` are those of
the stores before that stay. -/
def canLand (stay : PendStore → Bool) : List PendStore → List (Nat × Option Nat) → List (Nat × Nat) → List Bool
  | [], _, _ => []
  | e :: t, agents, ranges =>
    if stay e || (e.rel && !agents.isEmpty) || agents.any (followsIn (e.agent, e.unit))
        || ranges.any fun r => rangesMeet r.1 r.2 e.range.1 e.range.2 then
      false :: canLand stay t ((e.agent, e.unit) :: agents) (e.range :: ranges)
    else true :: canLand stay t agents ranges

/-- Stale bytes of another die that a release of a die with view `mine` leaves: those that stand at or after `mine` (R355). -/
def risen (mine : List StaleByte) : List StaleByte → List StaleByte
  | [] => []
  | e :: t =>
    match mine.find? fun m => m.pa == e.pa with
    | some m => if e.ver < m.ver then risen mine t else e :: risen mine t
    | none => risen mine t

/-- Every other die's view rises to what die d has ordered (R355, cumulativity). -/
def State.raiseViews (s : State) (d : Nat) : State :=
  let mine := (s.die d).stale
  foldState (fun e s => if e = d then s else s.modDie e fun x => { x with stale := risen mine x.stale }) s.computeDies s

/-- An acquire at SYS by an agent of die d: the die's view rises to every home (R355). -/
def State.acquireSys (s : State) (d : Nat) : State := s.modDie d fun x => { x with stale := [] }

/-! ### Corrected errors (R141, R246, R350) -/

/-- An entry of the MC's log (R402). -/
def State.logMc (s : State) (e : LogEntry) : State := { s with weir := { s.weir with log := s.weir.log ++ [e] } }

def State.modBasin (s : State) (rank : Nat) (f : Basin → Basin) : State := { s with basins := s.basins.put rank (f (s.basins.get {} rank)) }

/-- The Basin die whose storage a site is, where it is one; for a watch entry, one of the replicas, which is free (log 1). -/
def State.basinOf (s : State) : EccSite → Option Nat
  | .llcLine pa => some (s.homeOf pa)
  | .directory pas => some (match pas with | pa :: _ => s.homeOf pa | [] => 0)
  | .watchEntry _ => some ((Config.freeWord s.freeCtr).toNat % max 1 s.basinDies.length)
  | _ => none

/-- The core to which a corrected error in the storage of a die counts; cluster and die storage count at core 0 of theirs. -/
def coreOfSite : EccSite → Nat
  | .register k _ _ | .slotState k => coreOfWave k
  | .tarnWord c _ | .accElement c _ _ _ | .codeSlot c _ => c
  | .fifoEntry cl _ _ | .channel cl _ | .reservoir cl => 8 * cl
  | .l2Line d _ | .builderState d => 128 * d
  | .barrier _ | .rayQuery _ | .llcLine _ | .directory _ | .watchEntry _ => 0

/-- A single-bit error of a site is corrected where it is found (R141, R350). One in a word that is overwritten before is found there later all the same,
which is the model's choice (log 20). -/
def State.correct (s : State) (site : EccSite) : State :=
  if !s.latent.contains site then s
  else
    let s := { s with latent := s.latent.filter (· != site) }
    match s.basinOf site with
    | some r => ({ s with freeCtr := s.freeCtr + 1 }.modBasin r fun b => { b with cecnt := b.cecnt + 1 }).logMc (.correctedBasin r)
    | none => s.logMc (.corrected (coreOfSite site))

/-- The sites that an access meets hold no single-bit error afterwards (R141). -/
def State.meetSites (s : State) (met : EccSite → Bool) : State := foldState (fun x s => s.correct x) (s.latent.filter met) s

/-- An access of die d to an address reads its line of the die's L2 and of the last-level cache (R246, R350). -/
def State.meetLine (s : State) (d pa : Nat) : State :=
  s.meetSites fun x => match x with
    | .l2Line e a => e == d && a / 128 == pa / 128
    | .llcLine a => a / 128 == pa / 128
    | .register _ _ _ | .slotState _ | .tarnWord _ _ | .accElement _ _ _ _ | .codeSlot _ _ | .barrier _ | .fifoEntry _ _ _ | .channel _ _
    | .reservoir _ | .directory _ | .watchEntry _ | .rayQuery _ | .builderState _ => false

end Sys2Proof.Machine
end

