-- ==== Sys2Proof/Machine/Codec.lean ====
section
/-! DEFINITION. The colour-delta codec of RGN pages: tiles as their readers see them (R383, R384, R434). -/

namespace Sys2Proof.Machine

open Sys2Proof

/-- The enabled surface of a home's table whose tiles hold an address: its entry, and the tile's number. -/
def State.surfaceAt (s : State) (pa : Nat) : Option (Surface × Nat) :=
  (List.range 16).findSome? fun k =>
    let f := s.surfaces.get {} (16 * s.homeOf pa + k)
    let base := fld f.base.toNat 16 36 * 2 ^ 16
    if bit f.base.toNat 0 && base ≤ pa && (pa - base) / 256 < fld f.ntile.toNat 0 32 then some (f, (pa - base) / 256) else none

/-- The mode byte's address. -/
def Surface.modeAt (f : Surface) (tile : Nat) : Nat := f.pmeta.toNat + tile

/-- The 256 decoded bytes of a tile, or none when it is undecodable. -/
def decodeTile (mode clear : Nat) (stored : List Byte) : Option (List Byte) :=
  let colour (b : Nat → Nat) : List Byte := (List.range 256).map fun i => BitVec.ofNat 8 (b (i % 4))
  if mode = 0 then some (slice stored 0 256)
  else if mode = 1 then some (colour fun c => fld clear (8 * c) 8)
  else if mode = 2 then some (colour fun c => field stored c 1)
  else if mode ≤ 9 then
    let k := mode - 2
    let delta := field stored 4 (32 * k)
    some ((List.range 256).map fun i => BitVec.ofNat 8 (field stored (i % 4) 1 + fld delta (k * i) k))
  else none

/-- The bytes of a tile of one channel. -/
def channelOf (tile : List Byte) (c : Nat) : List Nat := (List.range 64).map fun t => field tile (4 * t + c) 1

/-- The re-encoding of a decoded tile: mode and the bytes it stores from byte 0. -/
def encodeTile (tile : List Byte) : Nat × List Byte :=
  let base (c : Nat) : Nat := (channelOf tile c).foldl Nat.min 255
  let range (c : Nat) : Nat := (channelOf tile c).foldl Nat.max 0 - base c
  let r := Nat.max (Nat.max (range 0) (range 1)) (Nat.max (range 2) (range 3))
  let bases : List Byte := (List.range 4).map fun c => BitVec.ofNat 8 (base c)
  if r = 0 then (2, bases)
  else
    let k := Nat.log2 r + 1
    if k = 8 then (0, tile)
    else
      let delta := (List.range 256).foldl (fun n i => n + (field tile i 1 - base (i % 4)) <<< (k * i)) 0
      (k + 2, bases ++ leBytes delta (32 * k))

/-- The length column of R384. -/
def storedLength (mode : Nat) : Nat :=
  if mode = 0 then 256 else if mode = 1 then 0 else if mode = 2 then 4 else if mode ≤ 9 then 4 + 32 * (mode - 2) else 0

/-- The tile that holds an address, from its slot's bytes and marks: the decoded bytes, and which of its 16 units are poisoned (R434). -/
def State.decodedTile (s : State) (pa : Nat) (at_ : Nat → Byte) (marked : Nat → Bool) : List Byte × List Bool :=
  let base := pa / 256 * 256
  let marks := (List.range 16).map fun j => marked (base + 16 * j)
  let stored := (upFrom base 256).map at_
  match s.surfaceAt pa with
  | none => (stored, marks)
  | some (f, t) =>
    match decodeTile (at_ (f.modeAt t)).toNat (fld f.clear.toNat 0 32) stored with
    | some x => (x, marks)
    | none => (zeros 256, List.replicate 16 true)

/-- A tile after a store of decoded bytes: the units that it writes whole are clean (R434). -/
def patchTile (base : Nat) (x : List Byte × List Bool) (e : PendStore) : List Byte × List Bool :=
  let o := e.pa - base
  (patch x.1 o e.data, (List.range 16).map fun j => x.2.getD j false && !(o ≤ 16 * j && 16 * j + 16 ≤ o + e.data.length))

/-- A tile as it stands at its home. -/
def State.homeTile (s : State) (pa : Nat) : List Byte × List Bool := s.decodedTile pa s.homeByte fun a => s.poison.contains (a / 16)

/-- A tile as an RGN reader of die d sees it: what its view of the slot holds, under the die's stores that have not reached the home (R352, R384). -/
def State.tileOf (s : State) (d pa : Nat) : List Byte × List Bool :=
  let base := pa / 256 * 256
  ((s.die d).pend.filter fun e => e.tile && e.pa / 256 == pa / 256).foldl (patchTile base) (s.decodedTile pa (s.viewByte d) (s.poisonedAt d))

end Sys2Proof.Machine
end

