-- ==== Sys2Proof/Machine/Translate.lean ====
section
/-! DEFINITION. Address translation: page-table entries, the walk and the translation caches (R233 to R240, R427). -/

namespace Sys2Proof.Machine

open Sys2Proof

/-! ### Entries (R236) -/

def pteV (e : Nat) : Bool := bit e 0
def pteLeaf (e : Nat) : Bool := bit e 1
def pteW (e : Nat) : Bool := bit e 2
def pteX (e : Nat) : Bool := bit e 3
def pteUser (e : Nat) : Bool := bit e 4
def pteRgn (e : Nat) : Bool := bit e 5
def pteDev (e : Nat) : Bool := bit e 6
def pteCache (e : Nat) : Nat := fld e 7 2
def pteGeom (e : Nat) : Nat := fld e 9 3
def ptePfn (e : Nat) : Nat := fld e 12 40
def pteFmt (e : Nat) : Nat := fld e 52 5

/-- The low bit of the index into the table of a level, and its length (R235). -/
def levelShift (level : Nat) : Nat := match level with | 0 => 47 | 1 => 36 | 2 => 25 | _ => 16
def levelBits (level : Nat) : Nat := match level with | 0 => 10 | 1 => 11 | 2 => 11 | _ => 9

/-- The size of the table of a level in bytes. -/
def tableSize (level : Nat) : Nat := 8 * 2 ^ levelBits level

/-- The bytes of the frame that a leaf at a level maps. -/
def frameSize (level : Nat) : Nat := 2 ^ levelShift level

/-- Where the frame of a leaf begins: a physical address, or an outside address for a DEV leaf (R427). -/
def frameBase (e : Nat) : Nat :=
  if pteDev e then 2 ^ 60 + fld (ptePfn e) 34 6 * 2 ^ 46 + fld (ptePfn e) 0 34 * 2 ^ 12
  else ptePfn e * 2 ^ 12

/-- PhysicalAddress of R237. -/
def physicalAddress (e level va : Nat) : Nat := frameBase e + va % frameSize level

/-- Whether a leaf's frame lies in control space. -/
def controlFrame (e : Nat) : Bool :=
  let b := ptePfn e * 2 ^ 12
  !pteDev e && 2 ^ 40 ≤ b && b < 2 ^ 40 + 2 ^ 32

/-- An entry is malformed at a level (R237). -/
def malformed (e level : Nat) : Bool :=
  fld e 57 7 != 0
  || (if pteLeaf e then
        level < 2
        || (ptePfn e * 2 ^ 12) % frameSize level != 0
        || pteCache e == 3
        || (pteRgn e && (pteFmt e != 0 || pteDev e))
        || (controlFrame e && !(level == 3 && pteFmt e == 0 && pteCache e == 2 && !pteRgn e && !pteUser e))
      else
        level == 3
        || fld e 2 10 != 0 || fld e 52 5 != 0
        || (ptePfn e * 2 ^ 12) % tableSize (level + 1) != 0)

/-- DEVTAB's entry for a device (R426). -/
def State.devtab (s : State) (n : Nat) : Nat := (s.weir.devtab.get 0 n).toNat

/-- Whether this device's number, and whether remote traffic is enabled (R426). -/
def State.devNo (s : State) : Nat := fld s.weir.grpcfg.toNat 8 6
def State.groupEn (s : State) : Bool := bit s.weir.grpcfg.toNat 0

/-- A leaf whose frame is outside the map (R237, R427). -/
def State.outsideMap (s : State) (e level : Nat) : Bool :=
  if pteDev e then
    let n := fld (ptePfn e) 34 6
    let base := fld (ptePfn e) 0 34 * 2 ^ 12
    let t := s.devtab n
    !s.groupEn || n == s.devNo || !bit t 63 || fld t 12 28 * 4096 < base + frameSize level
  else
    let b := ptePfn e * 2 ^ 12
    let last := b + frameSize level - 1
    s.regionOf b == .hole || s.regionOf last == .hole || s.regionOf b != s.regionOf last

/-- What a walk finds: a leaf and its level, or a code, a level and the last entry read (R237, R243). -/
inductive Walked where
  | leaf (e level : Nat)
  | invalid (code level entry : Nat)
  deriving DecidableEq, Repr

/-- The cached entries for an address at a level of an ASID (R238). -/
def cachedEntries (l : List TlbEnt) (asid level va : Nat) : List Nat :=
  (l.filter fun t => t.asid == asid && t.level == level && t.vpn == va >>> levelShift level).map fun t => t.leaf.toNat

/-- Caches a valid entry in a cache of `size` entries, which drops its oldest when it is full (R238, log 11). An older entry for the same page
stays usable until an invalidation completes (R239). -/
def cacheEntry (size : Nat) (l : List TlbEnt) (asid level va e : Nat) : List TlbEnt :=
  let x : TlbEnt := { asid := asid, vpn := va >>> levelShift level, level := level, leaf := BitVec.ofNat 64 e }
  if l.contains x then l else (x :: l).take size

/-- One of some values or another one, as free bits choose. -/
def State.chooseOne (s : State) : List Nat → Nat → Nat × State
  | [], n => (n, s)
  | a :: t, n =>
    let (b, s) := s.freeBit
    if b then (a, s) else s.chooseOne t n

/-- The entry an access uses at a level: the one in memory, or one of its core's cache or its die's that differs from it (R239, log 11). Engines
use the die's cache alone. -/
def State.chooseEntry (s : State) (d : Nat) (core : Option Nat) (asid level va mem : Nat) : Nat × State :=
  let mine : List TlbEnt := match core with | some k => (s.core k).tlb | none => []
  s.chooseOne ((cachedEntries (mine ++ (s.die d).tlb) asid level va).filter (· != mem)) mem

/-- A valid entry enters the caches that its access went through: 64 entries in a core, 16,384 in a die (R5, R238). -/
def State.cacheWalk (s : State) (d : Nat) (core : Option Nat) (asid level va e : Nat) : State :=
  let s := s.modDie d fun x => { x with tlb := cacheEntry 16384 x.tlb asid level va e }
  match core with
  | some k => s.modCore k fun c => { c with tlb := cacheEntry 64 c.tlb asid level va e }
  | none => s

/-- The walk from a level on, with `fuel` levels left (R237); `core` is the core whose access it is, when it is a thread's. Its reads correct the
single-bit errors that they meet (R246). -/
def State.walkFrom (s : State) (d : Nat) (core : Option Nat) (asid va : Nat) : Nat → Nat → Nat → Walked × State
  | 0, _, _ => (.invalid 2 3 0, s)
  | fuel + 1, table, level =>
    let at_ := table + 8 * fld va (levelShift level) (levelBits level)
    let s := s.meetLine d at_
    let mem := s.viewNat d at_ 8
    let (e, s) := s.chooseEntry d core asid level va mem
    if !pteV e then (.invalid 1 level e, s)
    else if malformed e level then (.invalid 2 level e, s)
    else if pteLeaf e && s.outsideMap e level then (.invalid 4 level e, s)
    else
      let s := s.cacheWalk d core asid level va e
      if pteLeaf e then (.leaf e level, s)
      else s.walkFrom d core asid va fuel (ptePfn e * 2 ^ 12) (level + 1)

/-- `Walk` of R46 and R237 in an address space on die d. -/
def State.walk (s : State) (d : Nat) (sp : Space) (va : Nat) (core : Option Nat := none) : Walked × State :=
  if 2 ^ 57 ≤ va then (.invalid 3 0 0, s) else s.walkFrom d core sp.asid va 4 sp.root 0

/-- Why an access of an address range cannot be made. -/
inductive Refused where
  /-- no valid leaf: address, code, level and entry of the walk -/
  | xlate (va code level entry : Nat)
  /-- no permission, at an address -/
  | prot (va : Nat)
  deriving DecidableEq, Repr

/-- `Translate` of R46: the physical address, the leaf and its level. -/
def State.translate (s : State) (d : Nat) (sp : Space) (priv : Bool) (write : Bool) (va : Nat) (core : Option Nat := none) :
    Except Refused (Nat × Nat × Nat) × State :=
  match s.walk d sp va core with
  | (.invalid c l e, s) => (.error (.xlate va c l e), s)
  | (.leaf e l, s) =>
    if (write && !pteW e) || (!pteUser e && !priv) then (.error (.prot va), s)
    else (.ok (physicalAddress e l va, e, l), s)

/-- The first addresses of the 64 KiB granules that a range meets. -/
def granulesOf (va len : Nat) : List Nat :=
  if len = 0 then []
  else (upFrom (va / 65536) ((va + len - 1) / 65536 - va / 65536 + 1)).map fun g => max va (65536 * g)

/-- The leaf of each 64 KiB granule of a range, in order, or the first that has none. -/
def State.leavesOf (s : State) (d : Nat) (sp : Space) (core : Option Nat) : List Nat → Except Refused (List (Nat × Nat × Nat)) × State
  | [] => (.ok [], s)
  | va :: t =>
    match s.walk d sp va core with
    | (.invalid c l e, s) => (.error (.xlate va c l e), s)
    | (.leaf e l, s) =>
      match s.leavesOf d sp core t with
      | (.ok r, s) => (.ok ((va, e, l) :: r), s)
      | (.error x, s) => (.error x, s)

/-- Translates a range for an engine or a multi-page instruction: every page is walked first, then `allow` decides each leaf (R150, R198). The answer
is the first physical address of each granule with its virtual address and leaf. -/
def State.translateRange (s : State) (d : Nat) (sp : Space) (allow : Nat → Bool) (va len : Nat) (core : Option Nat := none) :
    Except Refused (List (Nat × Nat × Nat)) × State :=
  match s.leavesOf d sp core (granulesOf va len) with
  | (.error x, s) => (.error x, s)
  | (.ok r, s) =>
    match r.find? fun x => !allow x.2.1 with
    | some x => (.error (.prot x.1), s)
    | none => (.ok (r.map fun x => (x.1, physicalAddress x.2.1 x.2.2 x.1, x.2.1)), s)

/-- The physical address of a virtual address of a translated range. -/
def rangePa (r : List (Nat × Nat × Nat)) (va : Nat) : Nat :=
  match r.find? fun x => x.1 / 65536 == va / 65536 with
  | some x => x.2.1 + (va - x.1)
  | none => 0

/-- The leaf of a virtual address of a translated range. -/
def rangeLeaf (r : List (Nat × Nat × Nat)) (va : Nat) : Nat :=
  match r.find? fun x => x.1 / 65536 == va / 65536 with
  | some x => x.2.2
  | none => 0

/-- What R46 lets a task do with a page. -/
def readable (priv : Bool) (e : Nat) : Bool := pteUser e || priv
def writable (priv : Bool) (e : Nat) : Bool := pteW e && (pteUser e || priv)

/-- A page may be read as plain control-free memory by an engine that moves bytes: device memory, remote memory or the host window. -/
def notControl (e : Nat) : Bool := !controlFrame e

/-- A byte that a load through a leaf returns: the decoded tile's through an RGN page (R384), else the die's view. -/
def State.seenByte (s : State) (d e pa : Nat) : Byte := if pteRgn e then (s.tileOf d pa).1.getD (pa % 256) 0 else s.viewByte d pa

/-- Whether a load through a leaf meets a mark: an RGN reader of an undecodable tile meets one in every unit (R247, R434). -/
def State.seenPoison (s : State) (d e pa : Nat) : Bool :=
  if pteRgn e then (s.tileOf d pa).2.getD (pa % 256 / 16) false else s.poisonedAt d pa

/-- Reads bytes of a virtual range in a context, page by page, or nothing when a page has no readable leaf. -/
def State.readVirtual (s : State) (d : Nat) (sp : Space) (priv : Bool) (va len : Nat) : Option (List Byte) × State :=
  match s.translateRange d sp (fun e => readable priv e && notControl e) va len with
  | (.error _, s) => (none, s)
  | (.ok r, s) => (some ((upFrom va len).map fun a => s.seenByte d (rangeLeaf r a) (rangePa r a)), s)

end Sys2Proof.Machine
end

