-- ==== Sys2Proof/Machine/Link.lean ====
section
/-! DEFINITION. What this device sends over its Linwen Link ports (R424 to R427, R430): packets, the flits that carry them, and the ports of their
paths. -/

namespace Sys2Proof.Machine

open Sys2Proof

def State.port (s : State) (p : Nat) : Port := s.weir.ports.get {} p
def State.modPort (s : State) (p : Nat) (f : Port → Port) : State :=
  { s with weir := { s.weir with ports := s.weir.ports.put p (f (s.port p)) } }

/-! ### Flits (R424, R425) -/

/-- The CRC-64 of some bytes with the ECMA-182 polynomial (R424). -/
def crcStep (c : BitVec 64) : BitVec 64 := if c.getLsbD 63 then (c <<< 1) ^^^ 0x42F0E1EBA9EA3693 else c <<< 1
def crcByte (c : BitVec 64) (b : Byte) : BitVec 64 :=
  crcStep (crcStep (crcStep (crcStep (crcStep (crcStep (crcStep (crcStep (c ^^^ (b.setWidth 64 <<< 56)))))))))
def crc64 (bs : List Byte) : BitVec 64 := bs.foldl crcByte 0

/-- The last 512 elements of a list. -/
def last512 {α : Type} (l : List α) : List α := l.drop (l.length - 512)

/-- A packet's length on the link: its header and its data (R424). -/
def packetSize : Packet → Nat
  | .write _ _ _ _ data => 16 + data.length
  | .readReq _ _ _ _ _ => 16
  | .readResp _ _ data => 16 + data.length
  | .atomic _ _ _ _ _ _ _ _ => 32
  | .swap _ _ _ _ old new => 16 + old.length + new.length

/-- Packets with the number of the flit in which each ends, when they are packed end to end from an offset on. -/
def packed240 : Nat → List Parcel → List (Nat × Parcel)
  | _, [] => []
  | off, x :: t => ((off + packetSize x.pkt - 1) / 240, x) :: packed240 (off + packetSize x.pkt) t

/-- The packets that wait at a port leave in flits, which the sender keeps until the peer has them (R425). -/
def Port.sendFlits (q : Port) : Port :=
  if q.st ≠ 2 ∨ q.out.isEmpty then q
  else
    let l := packed240 0 q.out
    let n := ceilDiv ((q.out.map fun x => packetSize x.pkt).foldl (· + ·) 0) 240
    let flits := (List.range n).map fun j => (q.nextSeq + BitVec.ofNat 16 j, (l.filter fun x => x.1 == j).map Prod.snd)
    { q with nextSeq := q.nextSeq + BitVec.ofNat 16 n, kept := last512 (q.kept ++ flits), out := [] }

/-- What waits at the ports leaves. -/
def State.sendFlits (s : State) : State :=
  if s.weir.ports.any fun q => !q.2.out.isEmpty then
    { s with weir := { s.weir with ports := s.weir.ports.map fun q => (q.1, q.2.sendFlits) } }
  else s

/-! ### Paths (R426) -/

/-- LTO has passed since a reference count (R430). -/
def State.overdue (s : State) (since : Nat) : Bool := since + 100 * s.weir.lto.toNat ≤ s.ref

/-- A path: a device and a physical granule of 4 KiB of it, whose packets take one port. -/
def Parcel.path (x : Parcel) : Nat × Nat := (x.dev, x.pa / 4096)

/-- The ports that PORTS names for a device. -/
def State.portsTo (s : State) (dev : Nat) : List Nat := (List.range 18).filter fun p => bit (s.devtab dev) (40 + p)

/-- A port still has a packet of a path that is neither delivered nor abandoned: the peer does not have it, and LTO has not passed since the port went
down (R426, R430). -/
def State.pathBusy (s : State) (path : Nat × Nat) (p : Nat) : Bool :=
  let q := s.port p
  (q.st == 2 || !s.overdue q.downAt) && (q.kept.any (fun f => f.2.any fun x => x.path == path) || q.out.any fun x => x.path == path)

/-- The UP port that carries a packet: the place of its granule among the ports of PORTS, or the next UP port; none while another port has packets
of that path. -/
def State.portFor (s : State) (x : Parcel) : Option Nat :=
  let l := s.portsTo x.dev
  let k := x.pa / 4096 % max 1 l.length
  if s.groupEn then
    match (l.drop k ++ l.take k).find? fun p => (s.port p).st == 2 with
    | some p => if l.any fun q => q != p && s.pathBusy x.path q then none else some p
    | none => none
  else none

/-- A packet waits until its path has a port. -/
def State.sendLater (s : State) (x : Parcel) : State := { s with weir := { s.weir with unsent := s.weir.unsent ++ [x] } }

/-- A packet goes to the port of its path, or waits behind what waits for that path. -/
def State.sendTo (s : State) (x : Parcel) : State :=
  if s.weir.unsent.any fun y => y.path == x.path then s.sendLater x
  else
    match s.portFor x with
    | some p => s.modPort p fun q => { q with out := q.out ++ [x] }
    | none => s.sendLater x

/-- A path may have got a port: what waits goes on, in its order. -/
def State.resend (s : State) : State :=
  foldState (fun x s => s.sendTo x) s.weir.unsent { s with weir := { s.weir with unsent := [] } }

/-- A packet asks for an answer to an access of this device. -/
def asksFor (src tag : Nat) (x : Packet) : Bool :=
  match x with
  | .readReq _ f t _ _ | .atomic _ f t _ _ _ _ _ | .swap _ f t _ _ _ => f == src && t == tag
  | .write _ _ _ _ _ | .readResp _ _ _ => false

/-- The request of an abandoned access that has not left is not sent (R430). -/
def State.withdraw (s : State) (tag : Nat) : State :=
  { s with weir := { s.weir with unsent := s.weir.unsent.filter fun x => !asksFor s.devNo tag x.pkt } }

/-! ### What leaves the module (R427, R429) -/

/-- The device and the device's address of an outside address beyond the host window (R427). -/
def remoteDev (pa : Nat) : Nat := (pa - 2 ^ 60) / 2 ^ 46
def remotePa (pa : Nat) : Nat := (pa - 2 ^ 60) % 2 ^ 46

/-- This device drives the PCIe endpoint; the device that does when this one does not (R426). -/
def State.bridges (s : State) : Bool := bit s.weir.grpcfg.toNat 1
def State.hostDev (s : State) : Nat := fld s.weir.grpcfg.toNat 2 6

/-- Where packets for an outside address go, and the address there; none where this device makes PCIe requests of its own (R429). -/
def State.route (s : State) (pa : Nat) : Option (Nat × Nat) :=
  if 2 ^ 60 ≤ pa then some (remoteDev pa, remotePa pa) else if s.bridges then none else some (s.hostDev, pa)

/-- What does not reach its home in one step: a store to another device, which completes when it is acknowledged (R116, R431); one into a block
outside the module, which it first reads (R70); and a release with an access behind it. -/
def State.lingers (s : State) (e : PendStore) : Bool :=
  e.op.isSome || (decide (2 ^ 51 ≤ e.pa) && ((s.route e.pa).isSome || e.redo.isSome))

/-- The write of some bytes, in whole 16-byte units (R424). -/
def writePacket (dev pa : Nat) (data : List Byte) : Packet :=
  let n := 16 * ceilDiv (pa % 16 + data.length) 16
  .write dev (pa / 16 * 16) (pa % 16) data.length (slice (zeros (pa % 16) ++ data) 0 n)

/-- A store goes to another device, under the number by which its acknowledgement is known. -/
def State.sendStore (s : State) (pa : Nat) (data : List Byte) (own : Option Nat) : State :=
  match s.route pa with
  | some (d, a) => s.sendTo { dev := d, pa := a, pkt := writePacket d a data, own := own }
  | none => s

/-- The request of an access that leaves the module, under the number by which its answer is known. -/
def State.sendRequest (s : State) (n : Nat) (o : OutAccess) : State :=
  match s.route o.addr with
  | some (d, a) =>
    s.sendTo { dev := d, pa := a, pkt := match o.op with
      | .load => .readReq d s.devNo n a o.size
      | .atomic op b c => .atomic d s.devNo n a op (o.size == 8) b c
      | .swap old new => if new.isEmpty then .readReq d s.devNo n a o.size else .swap d s.devNo n a old new }
  | none => s

/-- Stores of this module have been acknowledged (R425, R431). -/
def State.confirm (s : State) (ns : List Nat) : State :=
  if ns.isEmpty then s
  else
    let done (e : PendStore) : Bool := match e.out.bind OutStore.sent with | some n => ns.contains n | none => false
    { s with dies := s.dies.map fun d => (d.1, { d.2 with pend := d.2.pend.filter fun e => !done e }) }

/-- The numbers of this module's stores among some packets. -/
def ownStores (l : List Parcel) : List Nat := l.filterMap Parcel.own

end Sys2Proof.Machine
end

