-- ==== Sys2Proof/Machine/Queue.lean ====
section
/-! DEFINITION. What QP and the fault queue do to memory: context descriptors, timeline signals, the free-segment list, device-fed
enqueues, releases of segments, and fault records (R242, R243, R252 to R259). -/

namespace Sys2Proof.Machine

open Sys2Proof

/-! ### Contexts (R255) -/

/-- The address space of a context, and whether QP may take records for it. -/
def State.context (s : State) (d ctx : Nat) : Space × Bool :=
  let a := (s.die d).ctxbase.toNat + 32 * ctx
  let root := s.viewNat d a 8
  let flags := s.viewNat d (a + 10) 1
  ({ ctx := ctx, asid := s.viewNat d (a + 8) 2, root := root }, bit flags 0 && root % 8192 == 0)

/-! ### Timelines (R252, R256) -/

/-- A timeline's value. -/
def State.timeline (s : State) (d k : Nat) : Nat := ((s.die d).timelines.get 0 k).toNat

/-! ### Waits (R152, R191, R322, R362) -/

/-- Whether tags of a core satisfy a wait (R152). -/
def tagsOver (c : CoreSt) (any : Bool) (mask : Word64) : Bool :=
  let named := (List.range 64).filter fun t => mask.getLsbD t
  let done (t : Nat) : Bool := c.tags.get .idle t == .done
  named.isEmpty || (if any then named.any done else named.all done)

/-- The value of semaphore k: it lives on the Basin die of rank k ÷ 256 (R360). A semaphore that does not exist reads 0. -/
def State.semaphore (s : State) (k : Nat) : Word := s.sems.get 0 k

/-- Whether a wait is satisfied. -/
def State.waitOver (s : State) (core team : Nat) : Wait → Bool
  | .tags any mask => tagsOver (s.core core) any mask
  | .barrier b target => (((s.team team).barrier b).phase - target).toNat < 2 ^ 31
  | .timeline k v => v.toNat ≤ s.timeline (dieOfCore core) k
  | .semaphore k n => n.toNat ≤ (s.semaphore k).toNat

/-- A wait of a wave ends: the arming of PARK ends with a qualifying wait (R154), and a semaphore wait acquires at SYS (R362). -/
def State.endWait (s : State) (k : Nat) : State :=
  let w := s.wave k
  let sys := match w.wait with | some (.semaphore _ _) => true | _ => false
  let s := s.modWave k fun w => { w with wait := none, park := none }
  if sys then s.acquireSys (dieOfWave k) else s

/-- The queue holds a ready continuation (R277). -/
def State.hasContinuation (s : State) (d q : Nat) : Bool :=
  s.parked.any fun p => p.2.die == d && (s.launch p.2.launch).queue == q && p.2.ready

/-- A queue has work (R262). -/
def State.hasWork (s : State) (d q : Nat) : Bool :=
  let x := s.queue d q
  x.head < x.tail || !x.requeued.isEmpty || s.hasContinuation d q

/-- A queue gains work now: when it had none, the count of R262 starts. -/
def State.gainWork (s : State) (d q : Nat) : State :=
  if s.hasWork d q then s else s.modQueue d q fun x => { x with agedAt := s.ref }

/-- A parked wave's continuation becomes ready, and stays so (R277). -/
def State.readyParked (s : State) (n : Nat) : State :=
  match s.parked.find n with
  | some p =>
    let s := s.gainWork p.die (s.launch p.launch).queue
    { s with parked := s.parked.put n { p with ready := true, readyAt := s.ref } }
  | none => s

/-- The waits that are satisfied now end, those of parked waves too: what comes later does not undo it (R152, R362). -/
def State.settleWaits (s : State) : State :=
  let s := foldState (fun w s =>
    match w.2.wait with
    | some x => if s.waitOver (coreOfWave w.1) w.2.team x then s.endWait w.1 else s
    | none => s) s.waves s
  foldState (fun p s => if !p.2.ready && s.waitOver p.2.homeCore p.2.team p.2.wait then s.readyParked p.1 else s) s.parked s

/-! ### Signals (R252, R256) -/

/-- Applies a signal: the timeline becomes the larger value, and one that rises sends its MSI-X vector (R429) and ends the waits it satisfies. -/
def State.applySignal (s : State) (d k v : Nat) : State :=
  if s.timeline d k < v then
    let irq := ((s.die d).hostirq.get 0 k).toNat
    let s := (s.modDie d fun x => { x with timelines := x.timelines.put k (BitVec.ofNat 64 v) }).settleWaits
    if bit irq 63 then { s with msix := s.msix ++ [fld irq 0 11] } else s
  else s

/-- Whether a context owns a timeline (R254, R256). -/
def State.ownsTimeline (s : State) (d k ctx : Nat) : Bool :=
  let o := ((s.die d).tlOwner.get 0 k).toNat
  bit o 15 && fld o 0 8 == ctx

/-- A signal from an engine or instruction of a context, applied only when the context owns the timeline (R256). -/
def State.signal (s : State) (d ctx k v : Nat) : State := if s.ownsTimeline d k ctx then s.applySignal d k v else s

/-! ### Queues and segments (R257 to R259) -/

/-- The queue descriptor's address. -/
def State.queueDesc (s : State) (d q : Nat) : Nat := (s.die d).qtbase.toNat + 128 * q

/-- Takes the first segment of the free list, clearing its link. -/
def State.takeSegment (s : State) (d : Nat) : Option Nat × State :=
  let h := (s.die d).segpool.toNat
  if h = 0 then (none, s)
  else
    let next := s.viewNat d (h + 0xF80) 8
    let s := s.modDie d fun x => { x with segpool := BitVec.ofNat 64 next, segfree := x.segfree - 1 }
    (some h, s.engineNat d (h + 0xF80) 0 8)

/-- Returns a segment to the free list (R258). -/
def State.freeSegment (s : State) (d seg : Nat) : State :=
  let s := s.engineNat d (seg + 0xF80) (s.die d).segpool.toNat 8
  s.modDie d fun x => { x with segpool := BitVec.ofNat 64 seg, segfree := x.segfree + 1 }

/-- The segment of position TAIL of a device-fed queue, linked from the free list when it is not there yet; none when the list is empty. -/
def State.tailSegment (s : State) (d q : Nat) : Option Nat × State :=
  let x := s.queue d q
  if x.tail / 31 ≤ x.tsegIdx then (some x.tseg, s)
  else
    let set (seg : Nat) (s : State) : State :=
      (s.modQueue d q fun x => { x with tseg := seg, tsegIdx := x.tail / 31 }).engineNat d (s.queueDesc d q + 0x18) seg 8
    let link := s.viewNat d (x.tseg + 0xF80) 8
    if link ≠ 0 then (some link, set link s)
    else
      match s.takeSegment d with
      | (none, s) => (none, s)
      | (some seg, s) => (some seg, set seg (s.engineNat d (x.tseg + 0xF80) seg 8))

/-- The bytes of a record with the POISON flag set (R271). -/
def setPoisonFlag (rec : List Byte) (p : Bool) : List Byte :=
  if p then patch rec 0x21 [(rec.getD 0x21 0) ||| 2#8] else rec

/-- Releases the queue's oldest segments whose records have all completed and whose link is written (R258); HEAD and TAIL stand at or past the next
segment then. `fuel` bounds the segments. -/
def State.releaseSegments (s : State) (d q : Nat) : Nat → State
  | 0 => s
  | fuel + 1 =>
    let x := s.queue d q
    let link := s.viewNat d (x.hseg + 0xF80) 8
    if (upFrom (31 * x.hsegIdx) 31).all (x.done.contains ·) ∧ link ≠ 0 then
      let s := s.modQueue d q fun x =>
        { x with hseg := link, hsegIdx := x.hsegIdx + 1, done := x.done.filter (31 * (x.hsegIdx + 1) ≤ ·)
                 headSeg := if x.headIdx ≤ x.hsegIdx then link else x.headSeg, headIdx := max x.headIdx (x.hsegIdx + 1) }
      let s := if x.hostq then s else s.freeSegment d x.hseg
      (s.engineNat d (s.queueDesc d q + 0x10) link 8).releaseSegments d q fuel
    else s

/-- Releases what a queue can release. -/
def State.releaseDone (s : State) (d q : Nat) : State := s.releaseSegments d q ((s.queue d q).done.length / 31 + 1)

/-- Enqueues a 128-byte record on a device-fed queue (R259); the answer is the record's slot, or none when the queue is not one or the free
list is empty. A segment that waited only for its link is released (R258). -/
def State.enqueue (s : State) (d q : Nat) (rec : List Byte) : Option Nat × State :=
  let x := s.queue d q
  if !x.en || x.hostq then (none, s)
  else
    match s.tailSegment d q with
    | (none, s) => (none, s)
    | (some seg, s) =>
      let slot := seg + 128 * (x.tail % 31)
      let s := (s.gainWork d q).engineStore d slot (slice rec 0 128)
      let s := s.modQueue d q fun x => { x with tail := x.tail + 1 }
      (some slot, (s.engineNat d (s.queueDesc d q) (x.tail + 1) 8).releaseDone d q)

/-- A record's completion: its position counts as complete, and segments are released (R258). -/
def State.recordDone (s : State) (d q pos : Nat) : State :=
  (s.modQueue d q fun x => { x with done := sortedInsert x.done pos }).releaseDone d q

/-! ### Fault records (R242, R243) -/

/-- A kind's number in INFO. -/
def AccKind.num : AccKind → Nat | .read => 0 | .write => 1 | .rmw => 2 | .exec => 3

/-- The 64 bytes of a fault record with number n. -/
def faultRecord (f : PFault) (n : Nat) : List Byte :=
  leBytes f.va 8
  ++ leBytes (f.kind.num + 4 * f.level + 16 * f.code + 128 * ofBool f.idem) 4
  ++ leBytes f.asid 2 ++ leBytes f.queue 2 ++ leBytes f.task 8
  ++ leBytes f.tpc.toNat 4 ++ leBytes f.core.toNat 4 ++ leBytes n 8 ++ leBytes f.entry.toNat 8 ++ zeros 16

/-- Adds a fault whose record waits to be written. -/
def State.addFault (s : State) (d : Nat) (f : PFault) : State :=
  let (i, s) := s.fresh
  s.modDie d fun x => { x with faults := x.faults ++ [{ f with id := i }] }

/-- The fields of FQCFG (R242). -/
def Die.fqEn (x : Die) : Bool := bit x.fqcfg.toNat 31
def Die.fqTl (x : Die) : Nat := fld x.fqcfg.toNat 16 8
def Die.fqLen (x : Die) : Nat := fld x.fqcfg.toNat 0 16

/-- A report that no reply answers: a join that could not enqueue, a dropped store, a flood (R271, R430, R369). -/
def reportFault (va : Nat) (kind : AccKind) (code : Nat) : PFault := { id := 0, va := va, kind := kind, code := code, joins := false }

end Sys2Proof.Machine
end

