-- ==== Sys2Proof/Machine/Home.lean ====
section
/-! DEFINITION. What happens at the home of a location: stores that reach it (R352), the watch check with its springs (R365 to R369), releases
at SYS scope (R355), stores into blocks (R70) and into the tiles of RGN pages (R384, R434). -/

namespace Sys2Proof.Machine

open Sys2Proof

/-! ### Springs (R366, R367) -/

/-- The record of a spring of entry e (R367); words 4, 6 and 7 are 0 until its wave is created. -/
def State.springRecord (s : State) (e : Nat) (w : Watch) : List Byte × State :=
  let (sp, _) := s.context w.tdie (s.queue w.tdie w.queue).ctx
  let (k, s) := s.readVirtual w.tdie sp (s.queue w.tdie w.queue).priv w.kdesc 64
  let width := field (k.getD []) 8 1
  let waves := if width = 0 then 1 else ceilDiv w.lanes width
  (leBytes w.kdesc 8 ++ leBytes w.frame 8 ++ zeros 8 ++ leBytes 1 4 ++ leBytes w.lanes 2 ++ leBytes waves 1 ++ leBytes width 1
    ++ leBytes (fld w.flags 1 3) 1 ++ leBytes (fld w.flags 0 1) 1 ++ zeros 2 ++ zeros 12 ++ zeros 16
    ++ (w.user.flatMap fun x => leBytes x.toNat 4) ++ zeros 4 ++ leBytes e 4 ++ zeros 40, s)

def State.watch (s : State) (e : Nat) : Watch := s.watches.get {} e
def State.modWatch (s : State) (e : Nat) (f : Watch → Watch) : State :=
  match s.watches.find e with
  | some w => { s with watches := s.watches.put e (f w) }
  | none => s

/-- A spring's record stands in a queue slot. -/
def State.placeSpring (s : State) (n slot : Nat) : State :=
  match s.springs.find n with
  | some x => { s with springs := s.springs.put n { x with recPa := some slot } }
  | none => s

/-- Enqueues a spring of an entry, or holds its record for the next tick (R283). -/
def State.enqueueSpring (s : State) (e n : Nat) : State :=
  let w := s.watch e
  let (rec, s) := s.springRecord e w
  match s.enqueue w.tdie w.queue rec with
  | (some slot, s) => s.placeSpring n slot
  | (none, s) => { s with heldRecs := s.heldRecs ++ [{ die := w.tdie, queue := w.queue, bytes := rec, spring := some n }] }

/-- The spring of an entry that a hold-off held is enqueued (R366, R369, R370). -/
def State.releaseHeldSpring (s : State) (e : Nat) : State :=
  match (s.watch e).pending with
  | none => s
  | some n =>
    if (s.springs.get {} n).recPa.isSome || s.heldRecs.any fun r => r.spring == some n then s else s.enqueueSpring e n

/-- The spring whose record stands in a queue slot stops being pending, and its entry's hold-off begins (R366). -/
def State.endSpring (s : State) (slot : Nat) : State :=
  match s.springs.find? fun x => x.2.recPa == some slot with
  | none => s
  | some (n, _) =>
    { s with
      springs := s.springs.del n
      watches := s.watches.map fun x =>
        if x.2.pending = some n then
          (x.1, { x.2 with pending := none, holdoff := if x.2.window = 0 then none else some (s.ref + 100 * x.2.window) })
        else x }

/-- Notes a cause for the thread at a position of the wave with a uid (R433). A wave that has ended drops it. -/
def State.note (s : State) (uid p : Nat) (c : Cause) (tval : Word) : State :=
  let add (w : Wave) : Wave := w.modThread p fun t => if t.ended then t else { t with noted := t.noted ++ [(c, tval)] }
  { s with
    waves := s.waves.map fun x => if x.2.uid = uid then (x.1, add x.2) else x
    parked := s.parked.map fun x => if x.2.wave.uid = uid then (x.1, { x.2 with wave := add x.2.wave }) else x }

/-- An armed entry at a reference count: its count of triggers starts again with each interval of 100 µs from its arming (R369). -/
def Watch.at_ (w : Watch) (ref : Nat) : Watch :=
  if w.armed ∧ (ref - w.armedAt) / 10000 ≠ w.interval then { w with trig := 0, interval := (ref - w.armedAt) / 10000 } else w

/-- A flood (R369), or a disarm for an uncorrectable error (R350): the entry is disarmed, its held spring is enqueued, a record is written and
FLOOD is noted. -/
def State.flood (s : State) (e : Nat) (ecc : Bool) : State :=
  let w := s.watch e
  let s := s.releaseHeldSpring e
  let s := s.modWatch e fun w => { w.at_ s.ref with armed := false, flooded := true }
  let f : PFault := { reportFault w.base .write 0 with
    idem := bit w.flags 0, asid := w.space.asid, queue := w.queue,
    entry := BitVec.ofNat 64 (e + 2 ^ 63 * ofBool ecc) }
  (s.addFault w.die f).note w.uid w.pos .flood (word e)

/-- One trigger of an armed entry, by a store whose lowest changed byte lies in a granule offset (R366, R369). The trigger that floods is counted
too (R371). -/
def State.trigger (s : State) (e granule : Nat) : State :=
  let s := s.modWatch e fun w => w.at_ s.ref
  let w := s.watch e
  let s := s.modWatch e fun w => { w with trig := w.trig + 1 }
  if w.budget < w.trig + 1 then s.flood e false
  else
    match w.pending with
    | some n =>
      let x := s.springs.get {} n
      { s with springs := s.springs.put n { x with count := min (x.count + 1) (2 ^ 32 - 1), granule := granule } }
    | none =>
      let (n, s) := s.fresh
      let s := { s with springs := s.springs.put n { entry := e, base := w.base, count := 1, granule := granule } }
      let s := s.modWatch e fun w => { w with pending := some n }
      if w.holdoff.any fun t => s.ref < t then s else (s.modWatch e fun w => { w with holdoff := none }).enqueueSpring e n

/-- Every die's view of some addresses rises to the home's bytes: a spring's trigger is visible at SYS scope (R368). -/
def State.freshenAll (s : State) (pas : List Nat) : State :=
  foldState (fun d s => s.freshen d pas) s.computeDies s

/-- The watch check of a store of some bytes that changed the given addresses: each armed entry that watches one of them is triggered once (R365). -/
def State.watchCheck (s : State) (written changed : List Nat) : State :=
  let seen := s.watches.any fun e => e.2.armed && changed.any fun a => e.2.pa ≤ a && a < e.2.pa + e.2.len
  let s := if seen then s.freshenAll written else s
  foldState (fun e s =>
    let w := s.watch e.1
    let hit := changed.filter fun a => w.pa ≤ a && a < w.pa + w.len
    match hit with
    | [] => s
    | a :: t => if w.armed then s.trigger e.1 ((t.foldl Nat.min a - w.pa) / 64 * 64) else s) s.watches s

/-! ### Landing -/

/-- The views of other dies keep the bytes that a store replaces, all of them, so that the store enters a view whole (R104, R352). A silent store
raises no view but its own die's (R357). -/
def State.ageViews (s : State) (src : Option Nat) (agent ver : Nat) (cells : List (Nat × Byte)) : State :=
  let silent := cells.all fun c => s.homeByte c.1 == c.2
  foldState (fun d s =>
    if some d = src then s.modDie d fun x => { x with stale := unstale x.stale (cells.map Prod.fst) }
    else if silent then s
    else s.modDie d fun x => { x with stale := x.stale ++ cells.map fun c => ⟨c.1, ver, s.homeByte c.1, agent⟩ })
    s.computeDies s

/-- One store reaches the home of its bytes: it takes its place in the coherence order of each and is checked against the watch table. The dies that
it does not come from meet it now, in their stream tables too (R274). -/
def State.land (s : State) (src : Option Nat) (agent : Nat) (cells : List (Nat × Byte)) : State :=
  let others := s.computeDies.filter fun d => some d != src
  let s := foldState (fun d s => s.settleStreams d cells) others s
  let ver := s.ver + 1
  let changed := (cells.filter fun c => s.homeByte c.1 != c.2).map Prod.fst
  let s := { s.ageViews src agent ver cells with ver := ver }
  let s := foldState (fun c s => s.putHomeByte c.1 c.2) cells s
  let s := foldState (fun d s => s.enableStreams d cells true) others s
  s.watchCheck (cells.map Prod.fst) changed

/-- Units lose the marks that L2s hold for them. -/
def State.clearL2 (s : State) (units : List Nat) : State :=
  foldState (fun d s => s.modDie d fun x => { x with l2bad := x.l2bad.filter fun u => !units.contains u }) s.computeDies s

/-- The values of source words that a store encodes (R70). -/
def storeValues (h : Bool) (ws : List Word) : List FVal := ws.map fun w => if h then bf16.dec (w.toNat % 65536) else fp32.dec w.toNat

/-- The bytes of a store, given those that it finds in place: of one into a block of a typed page, the block encoded anew (R70). -/
def PendStore.reencoded (e : PendStore) (old : List Byte) : List Byte :=
  match e.redo with
  | some (fmt, pos, h, ws) =>
    match unitsOf fmt with
    | some u => leBytes (u.encode (leNat old) pos (storeValues h ws)) e.data.length
    | none => e.data
  | none => e.data

/-- A store lands: in device memory at its home; outside memory, as far as this module knows it (log 8). A store of all 16 bytes of a unit clears its
mark, and one that carries a mark sets it (R247, R350). -/
def State.landStore (s : State) (src : Option Nat) (e : PendStore) : State :=
  let units := wholeUnits e.pa e.data.length
  let s := { s.clearL2 units with poison := s.poison.filter fun u => !units.contains u }
  if 2 ^ 51 ≤ e.pa then foldState (fun c s => { s with outside := s.outside.put c.1 c.2 }) (cellsOf e.pa e.data) s
  else
    let s := if e.poisoned then foldState (fun u s => s.markPoison (16 * u)) units s else s
    s.land src e.agent (cellsOf e.pa (if e.redo.isSome then e.reencoded ((upFrom e.pa e.data.length).map s.homeByte) else e.data))

/-! ### Stores through RGN pages (R384, R434) -/

/-- Sets the mark bits of a tile's slot. -/
def State.setTileMarks (s : State) (base : Nat) (marks : List Bool) : State :=
  let s := { s with poison := s.poison.filter fun u => !(base / 16 ≤ u && u < base / 16 + 16 && !marks.getD (u - base / 16) false) }
  foldState (fun j s => if marks.getD j false then s.markPoison (base + 16 * j) else s) (List.range 16) s

/-- Rewrites a tile at its home in a mode with stored bytes, as one access to the tile. -/
def State.rewriteTile (s : State) (d agent : Nat) (base : Nat) (modeAt : Option Nat) (mode : Nat) (stored : List Byte) : State :=
  let cells := cellsOf base stored ++ match modeAt with | some a => [(a, BitVec.ofNat 8 mode)] | none => []
  ((s.settleStreams d cells).land (some d) agent cells).enableStreams d cells

/-- The addresses of a tile's bytes and of its mode byte. -/
def State.tileBytes (s : State) (pa : Nat) : List Nat :=
  upFrom (pa / 256 * 256) 256 ++ match s.surfaceAt pa with | some (f, t) => [f.modeAt t] | none => []

/-- A store through an RGN page reaches its home, which decodes the tile, applies the bytes and re-encodes it (R384, R434). -/
def State.landTile (s : State) (d : Nat) (e : PendStore) : State :=
  let base := e.pa / 256 * 256
  let s := s.freshen d (s.tileBytes e.pa)
  let (tile, marks) := patchTile base (s.homeTile e.pa) e
  let s := match s.surfaceAt e.pa with
    | none => s.rewriteTile d e.agent base none 0 tile
    | some (f, t) => let (m, b) := encodeTile tile; s.rewriteTile d e.agent base (some (f.modeAt t)) m b
  (s.setTileMarks base marks).clearL2 (wholeUnits e.pa e.data.length)

/-! ### Releases and the stores behind them (R353 to R357) -/

/-- A semaphore takes a value, and the waits that it satisfies end (R360 to R362). -/
def State.putSem (s : State) (k : Nat) (v : Word) : State := { s with sems := s.sems.put k v }.settleWaits

/-- A signal takes effect at its semaphore (R361). -/
def State.signalSem (s : State) (k : Nat) (a : Word) : State :=
  let v := ((s.sems.get 0 k).toNat : Int) + a.toInt
  s.putSem k (word (min (2 ^ 32 - 1) v.toNat))

/-- Every other die's view rises to the stores that an agent has made: they are visible at SYS scope (R356). -/
def State.raiseOwn (s : State) (agent : Nat) : State :=
  foldState (fun d s => s.modDie d fun x => { x with stale := rises x.stale ((x.stale.filter fun y => y.agent == agent).map StaleByte.ver) }) s.computeDies s

/-- The chosen pending stores of die d land in order, each release after every view has risen to what the die has ordered (R355); a sequentially
consistent one is then visible at SYS scope too (R356). -/
def State.landAll (s : State) (d : Nat) : List PendStore → State
  | [] => s
  | e :: t =>
    let s := if e.rel then s.raiseViews d else s
    match e.sem with
    | some (k, a) => (s.signalSem k a).landAll d t
    | none =>
      let s := if e.data.isEmpty then s else if e.tile then s.landTile d e else s.landStore (some d) e
      (if e.sc then s.raiseOwn e.agent else s).landAll d t

/-- The elements of a list that a mask selects. -/
def selected {α : Type} : List α → List Bool → List α
  | a :: t, b :: u => if b then a :: selected t u else selected t u
  | _, _ => []

/-- The stores of die d that a mask selects reach their homes. -/
def State.flushSome (s : State) (d : Nat) (sel : List Bool) : State :=
  let l := (s.die d).pend
  (s.modDie d fun x => { x with pend := selected l (sel.map not) }).landAll d (selected l sel)

/-- Which pending stores of die d can reach their homes now: those to other devices complete there, and what follows them waits (R353, R431). -/
def State.landable (s : State) (d : Nat) : List Bool := canLand s.lingers (s.die d).pend [] []

/-- The pending stores of die d that an access of some agents to some ranges must follow (R353, R357). -/
def State.before (s : State) (d : Nat) (agents : List Nat) (ranges : List (Nat × Nat)) : List Bool :=
  (mustPrecede (s.die d).pend.reverse (agents.map fun a => (a, none)) ranges false).reverse

/-- Every pending store of die d can reach its home now. -/
def State.canFlush (s : State) (d : Nat) : Bool := !(s.die d).pend.any s.lingers

/-- One of the stores of die d that an access must follow cannot reach its home yet. -/
def State.heldBack (s : State) (d : Nat) (agents : List Nat) (ranges : List (Nat × Nat)) : Bool :=
  (selected (s.die d).pend (s.before d agents ranges)).any s.lingers

/-- Every pending store of die d that can reach its home does. What is defined to follow all of them waits for canFlush. -/
def State.flushAll (s : State) (d : Nat) : State := s.flushSome d (s.landable d)

/-- The stores that an access at its home must follow reach their homes, those that can. -/
def State.flushBefore (s : State) (d : Nat) (agents : List Nat) (ranges : List (Nat × Nat)) : State :=
  s.flushSome d ((s.before d agents ranges).zipWith (· && ·) (s.landable d))

/-- The same for an access of one agent to one range. -/
def State.flushFor (s : State) (d agent pa len : Nat) : State := s.flushBefore d [agent] [(pa, len)]

/-- A release at SYS by an agent of die d (R355). -/
def State.releaseSys (s : State) (d : Nat) : State := (s.flushAll d).raiseViews d

/-- An access of this die leaves the module under a number of its own, with the bytes of the die's own stores that are not at their home (R245). -/
def State.sendOutFor (s : State) (o : OutAccess) : State :=
  let (n, s) := s.fresh
  let own := (upFrom o.addr o.size).filterMap fun a => (pendByte (s.die o.die).pend a).map fun b => (a, b)
  let o := { o with own := if o.op = .load then own else [], since := s.ref }
  { s with outs := s.outs.put n o }.sendRequest n o

/-- An outside load of die d holds bytes of a store of the die, which may not leave before the load has its value (R104, R245). -/
def State.awaited (s : State) (d : Nat) (e : PendStore) : Bool :=
  s.outs.any fun o => o.2.die == d && o.2.op == .load && o.2.own.any fun b => e.covers b.1

/-- A store to another device leaves, and stays until it is acknowledged (R427, R431); one into a block first reads it (R70). -/
def State.sendPend (s : State) (d i : Nat) (e : PendStore) : State :=
  match e.out with
  | none => s
  | some o =>
    if o.sent.isSome || s.awaited d e then s
    else
      let (n, s) := s.fresh
      let s := if e.rel then s.raiseViews d else s
      let s := s.modDie d fun x => { x with pend := x.pend.set i { e with out := some { o with sent := some n } } }
      if e.redo.isSome then
        s.sendOutFor { die := d, addr := e.pa, va := o.va, asid := o.asid, size := e.data.length, op := .swap [] [], to_ := .block n }
      else (s.landStore (some d) e).sendStore e.pa e.data (some n)

/-- The block of a pending store has been read or exchanged: the store is performed, or tries again on what stood there (R70). -/
def State.blockAnswer (s : State) (o : OutAccess) (own : Nat) (data : List Byte) : State :=
  match (s.die o.die).pend.find? fun e => e.out.bind OutStore.sent == some own with
  | none => s
  | some e =>
    let done := match o.op with | .swap old _ => old == data | .load | .atomic _ _ _ => false
    if done then (s.landStore (some o.die) { e with data := e.reencoded data, redo := none }).confirm [own]
    else s.sendOutFor { o with op := .swap data (e.reencoded data) }

/-- An access behind a release of die d (R355): it is performed when what its die has ordered before has taken effect. -/
def State.accessBehind (s : State) (o : OutAccess) : State :=
  let (n, s) := s.fresh
  { s with outs := s.outs.put n { o with since := s.ref } }.store o.die { agent := qpAgent, pa := 0, data := [], rel := true, op := some n }

/-- The release at the head of die d's pending stores that an access stands behind, as its number: it can take effect now. -/
def State.readyOp (s : State) (d : Nat) : Option Nat := (s.die d).pend.head?.bind PendStore.op

/-- A store of die d that is performed at its home at once: an atomic's store part (R357). -/
def State.storeAtHome (s : State) (d agent pa : Nat) (data : List Byte) : State :=
  let cells := cellsOf pa data
  (((s.flushFor d agent pa data.length).settleStreams d cells).landStore (some d) { agent := agent, pa := pa, data := data }).enableStreams d cells

/-- The same through an RGN page or another: the home of an RGN page's tile takes decoded bytes (R384). -/
def State.putAtHome (s : State) (d agent pa : Nat) (rgn : Bool) (data : List Byte) : State :=
  if rgn then s.landTile d { agent := agent, pa := pa, data := data, tile := true } else s.storeAtHome d agent pa data

/-- An access to a whole tile at its home: what the agent stored before is there, and die d's view of the tile is the home's. -/
def State.enterTile (s : State) (d agent pa : Nat) : State :=
  let s := s.flushFor d agent (pa / 256 * 256) 256
  s.freshen d (s.tileBytes pa)

/-- The bytes that an access orders itself by: those of the whole tile on an RGN page (R384). -/
def spanOf (pa : Nat) (rgn : Bool) (len : Nat) : Nat × Nat := if rgn then (pa / 256 * 256, 256) else (pa, len)

/-- The bytes that an atomic of an agent of die d finds at their home, through an RGN page or another, behind the stores that it follows (R353, R357,
R384). -/
def State.takeHome (s : State) (d agent pa : Nat) (rgn : Bool) (len : Nat) : List Byte × State :=
  if rgn then
    let s := s.enterTile d agent pa
    (slice (s.tileOf d pa).1 (pa % 256) len, s)
  else
    let s := (s.flushFor d agent pa len).freshen d (upFrom pa len)
    ((upFrom pa len).map s.homeByte, s)

/-! ### Region ownership (R349, R384) -/

/-- Region ownership (R349, R384), kept by 64 KiB frame: an access of die d through an RGN page takes it, and any other access recalls it;
a transfer is a release at SYS by the old owner of its stores to the region, which the access follows. The access corrects the single-bit errors that it
meets (R141). -/
def State.touchRgn (s : State) (d pa : Nat) (rgn : Bool) : State :=
  let s := s.meetLine d pa
  let g := pa / 65536
  match s.rgnOwner.find g with
  | some o =>
    if o = d ∧ rgn then s
    else if s.heldBack o [] [(65536 * g, 65536)] then { s with cur := { s.cur with blocked := true } }
    else
      let s := (s.flushBefore o [] [(65536 * g, 65536)]).raiseViews o
      { s with rgnOwner := if rgn then s.rgnOwner.put g d else s.rgnOwner.del g }
  | none => if rgn then { s with rgnOwner := s.rgnOwner.put g d } else s

/-- A mark in a die's L2 goes with its line (R247, R350): to the home, or outside the module. -/
def State.writeBack (s : State) (d pa : Nat) : State :=
  let u := pa / 16
  if !(s.die d).l2bad.contains u then s
  else
    let s := s.modDie d fun x => { x with l2bad := x.l2bad.filter (· != u) }
    if 2 ^ 51 ≤ pa then { s with poison := if s.poison.contains u then s.poison else sortedInsert s.poison u }
    else if s.regionOf pa = .device then s.markPoison pa
    else s

/-- VIEW_UPDATE's effect: the store that superseded die d's view of an address enters the view, in every byte that it wrote. -/
def State.viewRise (s : State) (d pa : Nat) : State :=
  match (s.die d).stale.find? fun b => b.pa == pa with
  | none => s
  | some b => s.modDie d fun x => { x with stale := rises x.stale [b.ver] }

end Sys2Proof.Machine
end

