-- ==== Sys2Proof/Machine/Ops.lean ====
section
/-! DEFINITION. The named operations on threads, waves, teams and launches: taking a trap (R22 to R24) and returning from one, translation faults
(R241 to R243), the end of threads, waves and teams (R25, R190, R193), and the end or discard of a launch (R269, R279). -/

namespace Sys2Proof.Machine

open Sys2Proof

/-! ### Causes -/

/-- The CAUSE bit of a cause (R281). -/
def Cause.bit : Cause → Nat
  | .ill => 0 | .priv => 1 | .align => 2 | .xlate => 3 | .prot => 4 | .fmtmix => 5 | .latch => 6 | .target => 7 | .ovlmiss => 8
  | .tarnr => 9 | .softerr => 10 | .poison => 11 | .drain => 12 | .trapi => 13 | .flood => 14 | .bexh => 15 | .degen => 16
  | .genstale => 17 | .qovf => 18 | .eosafter => 19 | .fifo => 20 | .barrier => 21 | .timeout => 22

/-- The word with only that bit set. -/
def Cause.mask (c : Cause) : Word := 1#32 <<< c.bit

/-- What an instruction raises in one member instead of completing: a trap with its TPC and TVAL, or a translation fault (R241). -/
inductive Raised where
  | trap (c : Cause) (tpc tval : Word)
  | fault (va : Nat) (kind : AccKind) (code level entry : Nat)
  deriving DecidableEq, Repr

/-! ### Barriers (R190) -/

/-- LEFT falls by one, and the phase completes when nothing is left. -/
def Barrier.arrive (b : Barrier) : Barrier :=
  if b.left ≤ 1 then { b with phase := b.phase + 1, left := b.exp } else { b with left := b.left - 1 }

/-- The arrival of a wave. -/
def Barrier.arriveWave (b : Barrier) (wid : Nat) : Barrier :=
  { b with part := sortedInsert b.part wid, token := b.token.put wid (b.phase + 1) }.arrive

/-- A wave with PART = 1 ends. When EXP reaches 0 the barrier becomes uninitialised, with LEFT 0 by the model's choice (R190, log 60). -/
def Barrier.waveEnds (b : Barrier) (wid : Nat) : Barrier :=
  if !b.part.contains wid || b.exp == 0 then b
  else
    let owed := (b.token.get 0 wid) != b.phase + 1
    let x := { b with exp := b.exp - 1, part := b.part.filter (· != wid), left := if owed then b.left - 1 else b.left }
    if x.exp = 0 then { x with left := 0 }
    else if x.left = 0 then { x with phase := x.phase + 1, left := x.exp }
    else x

/-! ### Queries, pins and live generations (R299 to R301, R328) -/

/-- A pin entry of any die names a generation of the structure whose header stands at a physical address. -/
def State.pinned (s : State) (hdr gen : Nat) : Bool :=
  s.dies.any fun x => x.2.pins.any fun p => p.hdr == hdr && p.gen.toNat == gen

/-- LIVE entry e of a header: its low and high 8 bytes. -/
def State.liveEntry (s : State) (d hdr e : Nat) : Nat × Nat :=
  (s.viewNat d (hdr + 0x100 + 16 * e) 8, s.viewNat d (hdr + 0x108 + 16 * e) 8)

/-- Valid LIVE entries of a header. -/
def State.liveCount (s : State) (d hdr : Nat) : Nat := ((List.range 16).filter fun e => bit (s.liveEntry d hdr e).1 32).length

/-- The header's STATE word, as NLIVE and a code (R296). -/
def State.stateWord (s : State) (d hdr code : Nat) : List Byte := leBytes (256 * s.liveCount d hdr + code) 4

/-- The LIVE entries of a structure whose generations are no longer live are cleared, and NLIVE follows (R296, R299). The builder of the die that built
last clears them at their home, behind its other stores, so that no later job of any die finds an entry that it may take before the zeros are there. -/
def State.settleLive (s : State) (hdr d : Nat) : State :=
  let cur := s.viewNat d hdr 4
  let gone := (List.range 16).filter fun e =>
    let x := (s.liveEntry d hdr e).1
    bit x 32 && fld x 0 32 != cur && !s.pinned hdr (fld x 0 32)
  if gone.isEmpty then s
  else
    let s := foldState (fun e s => s.storeAtHome d builderAgent (hdr + 0x100 + 16 * e) (zeros 16)) gone s
    s.storeAtHome d builderAgent (hdr + 4) (s.stateWord d hdr (s.viewNat d (hdr + 4) 4 % 16))

/-- Pin entries whose count is 0 go when no query refers to them, and generations that nothing names any more stop being live. -/
def State.sweepPins (s : State) : State :=
  let used := s.queries.map fun q => q.2.pin
  let keep (d : Die) : Die := { d with pins := d.pins.filter fun p => p.count != 0 || used.contains p.id }
  let s := { s with dies := s.dies.map fun (x : Nat × Die) => (x.1, keep x.2) }
  foldState (fun (x : Nat × Struct) s => s.settleLive x.1 x.2.die) s.structs s

/-- Ends the queries that meet a condition. -/
def State.dropQueries (s : State) (f : Query → Bool) : State :=
  if s.queries.any fun q => f q.2 then { s with queries := s.queries.filter fun q => !f q.2 }.sweepPins else s

/-- A launch's pins and queries go (R279, R300). -/
def State.dropPins (s : State) (l : Nat) : State :=
  let s := { s with queries := s.queries.filter fun q => q.2.launch != l }
  let keep (d : Die) : Die := { d with pins := d.pins.filter fun p => p.launch != l }
  { s with dies := s.dies.map fun (x : Nat × Die) => (x.1, keep x.2) }.sweepPins

/-! ### Drain contexts (R174) -/

/-- Releases the drain contexts that a wave holds. -/
def State.releaseDrains (s : State) (k : Nat) : State :=
  s.modCore (coreOfWave k) fun c => { c with drains := c.drains.filter fun d => d.2.wave != k }

/-- Releases a context when every thread of its octet that has not ended has read column 15. -/
def State.settleDrains (s : State) (k : Nat) : State :=
  let w := s.wave k
  let finished (o : Nat) : Bool := w.positions.all fun p => w.octetOf p != o || (w.thread p).ended || 16 ≤ (w.thread p).drainPos
  s.modCore (coreOfWave k) fun c => { c with drains := c.drains.filter fun d => d.2.wave != k || !finished d.1 }

/-! ### Teams and waves -/

/-- A team's Tarn share, barriers and FIFOs are released (R134, R189, R193). -/
def State.freeTeam (s : State) (t : Nat) : State :=
  let s := { s with teams := s.teams.del t }
  { s with clusters := s.clusters.map fun c =>
      let pairs := (c.2.fifoOwner.filter fun o => o.2 == t).map Prod.fst
      if pairs.isEmpty then c
      else (c.1, { c.2 with fifoOwner := c.2.fifoOwner.filter fun o => o.2 != t
                            fifos := c.2.fifos.filter fun f => !pairs.contains (f.1 / 2) }) }

/-- Whether a launch has a wave, resident or parked. -/
def State.hasWaves (s : State) (l : Nat) : Bool :=
  (s.waves.any fun w => w.2.launch == l) || s.parked.any fun p => p.2.launch == l

/-- Takes a wave out of its slot: CAUSE is kept for the completion entry (R270), its shot reservation and drain contexts go. What it has sent out
of the module is still performed (R269). -/
def State.removeWave (s : State) (k : Nat) : State :=
  let w := s.wave k
  let s := s.modLaunch w.launch fun l => { l with causeAcc := l.causeAcc ||| w.cause }
  let s := s.releaseDrains k
  let s := s.modCore (coreOfWave k) fun c => { c with reservation := c.reservation.filter fun r => r.1 != k }
  { s with waves := s.waves.del k }.dropQueries fun q => q.uid == w.uid

/-- Whether a wait is one on barrier b. -/
def Wait.onBarrier (b : Nat) : Wait → Bool
  | .barrier n _ => n == b
  | .tags _ _ | .timeline _ _ | .semaphore _ _ => false

/-- A barrier that became uninitialised releases every wave of its team that waits on it, parked ones too (R190). -/
def State.releaseBarrier (s : State) (t b : Nat) : State :=
  let on (w : Wave) : Bool := w.team == t && (w.wait.any (Wait.onBarrier b))
  let s := { s with waves := s.waves.map fun x => if on x.2 then (x.1, { x.2 with wait := none, park := none }) else x }
  foldState (fun p s => if p.2.team = t ∧ p.2.wait.onBarrier b ∧ !p.2.ready then s.readyParked p.1 else s) s.parked s

/-- A wave leaves its team: the phases that its end completes release their waiters, and the last wave releases the team's resources. -/
def State.leaveTeam (s : State) (t wid : Nat) : State :=
  let live := ((s.team t).barriers.filter fun b => b.2.exp != 0).map Prod.fst
  let s := s.modTeam t fun x =>
    { x with waves := x.waves.filter (· != wid), barriers := x.barriers.map fun b => (b.1, b.2.waveEnds wid) }
  let s := (foldState (fun b s => if ((s.team t).barrier b).exp = 0 then s.releaseBarrier t b else s) live s).settleWaits
  if (s.team t).waves.isEmpty then s.freeTeam t else s

/-- A launch whose teams have all been admitted and whose waves have all ended is ready to complete (R269); its pins go at that instant (R300). -/
def State.settleLaunch (s : State) (l : Nat) : State :=
  let x := s.launch l
  if x.phase = .running ∧ x.teamsIn = (if x.roles.isEmpty then 0 else if x.rcd.teams = 0 then x.roles.length else x.rcd.teams)
      ∧ !s.hasWaves l then
    (s.modLaunch l fun x => { x with phase := .ended }).dropPins l
  else s

/-! ### The end of a launch -/

/-- All waves of a launch stop at one instant, resident or parked; its teams, pins, queries and noted causes go. -/
def State.killWaves (s : State) (l : Nat) : State :=
  let s := foldState (fun w s => if w.2.launch = l then s.removeWave w.1 else s) s.waves s
  let s := foldState (fun p s =>
    if p.2.launch = l then
      let s := s.modLaunch l fun x => { x with causeAcc := x.causeAcc ||| p.2.wave.cause }
      { s with parked := s.parked.del p.1 } else s) s.parked s
  let s := foldState (fun t s => if t.2.launch = l then s.freeTeam t.1 else s) s.teams s
  let s := s.dropPins l
  { s with dies := s.dies.map fun x => (x.1, { x.2 with faults :=
      (x.2.faults.filter fun f => !(f.launch == l && f.replay.isNone && f.seq.isSome)).map fun f =>
        if f.launch = l ∧ f.replay = none then { f with joins := false, threads := [] } else f }) }

/-- A launch ends faulted: STATUS 1, the causes, and the TPC and TVAL of the trap or fault that ended it (R23, R244, R270). -/
def State.faultLaunch (s : State) (l : Nat) (causes : Word) (tpc tval : Word) : State :=
  match s.launches.find l with
  | none => s
  | some x =>
    if x.phase = .completing ∨ x.phase = .ended ∨ x.phase = .joining then s
    else
      let s := s.killWaves l
      s.modLaunch l fun x =>
        { x with phase := .ended, status := 1, causeAcc := x.causeAcc ||| causes, endTpc := tpc, endTval := tval }

/-- The memory copy of a record's ATTEMPT rises by one (R279, R244). -/
def State.raiseAttempt (s : State) (d recPa : Nat) : State :=
  s.engineNat d (recPa + 0x22) (min (s.viewNat d (recPa + 0x22) 2 + 1) 65535) 2

/-- A launch has been admitted and has not completed (R432). -/
def Launch.uncompleted (l : Launch) : Bool :=
  match l.phase with
  | .running | .ended | .completing | .joining => true
  | .taken | .away => false

/-- Drops an object's copy on a die when no launch of it is left there (R432). -/
def State.dropObject (s : State) (d obj : Nat) : State :=
  if s.launches.any fun l => l.2.die == d && l.2.uncompleted && l.2.roles.any fun r => r.kernel.obj == obj then s
  else s.modDie d fun x => { x with objs := x.objs.del obj }

/-- The objects of a launch. -/
def Launch.objects (l : Launch) : List Nat := l.roles.map fun r => r.kernel.obj

/-- A discard takes effect (R279). With `requeue`, the record is re-queued ahead of HEAD; otherwise it is held outside its queue (R241). -/
def State.discardLaunch (s : State) (l : Nat) (requeue : Bool) : State :=
  match s.launches.find l with
  | none => s
  | some x =>
    let s := s.killWaves l
    let s := if requeue then { s with launches := s.launches.del l } else s.modLaunch l fun x => { x with phase := .away }
    let s := foldState (fun o s => s.dropObject x.die o) x.objects s
    let s := s.modDie x.die fun y => { y with discards := y.discards + 1 }
    if requeue then
      ((s.raiseAttempt x.die x.recPa).gainWork x.die x.queue).modQueue x.die x.queue fun q => { q with requeued := q.requeued ++ [(x.pos, x.recPa)] }
    else s

/-! ### Requests to discard, and the end of waves and threads -/

/-- A launch is inside a PMASK region while any wave of it has a count above 0 (R280). -/
def State.insideRegion (s : State) (l : Nat) : Bool :=
  (s.waves.any fun w => w.2.launch == l && w.2.pmask != 0) || s.parked.any fun p => p.2.launch == l && p.2.wave.pmask != 0

/-- A request that is pending takes effect at the first instant at which the launch is outside every region. -/
def State.settleRequest (s : State) (l : Nat) : State :=
  let x := s.launch l
  if x.phase = .running ∧ x.request.isSome ∧ !s.insideRegion l then s.discardLaunch l true else s

/-- A request to discard a launch (R278): it takes effect at once outside a region, and stays pending inside one. -/
def State.requestDiscard (s : State) (l : Nat) : State :=
  (s.modLaunch l fun x => { x with request := some (x.request.getD s.ref) }).settleRequest l

/-- A wave whose threads have all ended (R25). -/
def State.endWave (s : State) (k : Nat) : State :=
  let w := s.wave k
  (((s.removeWave k).leaveTeam w.team w.wid).settleLaunch w.launch).settleRequest w.launch

/-- The thread at a position ends: it holds no mark, drops what was noted for it, and its queries end (R25, R123, R433, R301). -/
def State.endThread (s : State) (k p : Nat) : State :=
  let uid := (s.wave k).uid
  let s := s.modThread k p fun t => { t with ended := true, mark := none, noted := [], held := none }
  let s := s.dropQueries fun q => q.uid == uid && q.pos == p
  let s := s.settleDrains k
  if (s.wave k).threads.all Thread.ended then s.endWave k else s

/-! ### Traps -/

/-- Taking a trap (R23): CAUSE, TPC, TVAL, the latches, and then the handler at TVEC; with no handler, or in one already, the task ends
faulted. A trap clears the wave's shot reservation and collector holds (R201, R167). -/
def State.takeTrap (s : State) (k p : Nat) (c : Cause) (tpc tval : Word) : State :=
  match s.waves.find k with
  | none => s
  | some w =>
    let again := (w.thread p).inHandler
    let s := s.modCore (coreOfWave k) fun x => { x with reservation := x.reservation.filter fun r => r.1 != k }
    let s := s.modWave k fun w => { w with cause := w.cause ||| c.mask, collector := [], denied := none }
    let s := s.modThread k p fun t => { t.dropLatches with tpc := tpc, tval := tval, pc := w.tvec, inHandler := true }
    if w.tvec = 0 ∨ again then s.faultLaunch w.launch 0 tpc tval else s

/-- Returning from a trap (R23, R325): the thread goes on at its TPC, and its latches become invalid. -/
def State.returnFromTrap (s : State) (k p : Nat) : State :=
  s.modThread k p fun t => { t.dropLatches with pc := t.tpc, inHandler := false }

/-! ### Translation faults (R241 to R243) -/

/-- An outstanding fault that a new one joins: same task, granule and kind. -/
def joinable (f : PFault) (l va : Nat) (kind : AccKind) : Bool :=
  f.joins && f.launch == l && f.va / 65536 == va / 65536 && f.kind == kind

/-- A thread of a task that is not idempotent is held at its unit (fault-and-stall). -/
def State.stallThread (s : State) (k p va : Nat) (kind : AccKind) (code level entry : Nat) : State :=
  let w := s.wave k
  let l := s.launch w.launch
  let me := (w.uid, k, p, word va, s.cur.addr)
  match (s.die l.die).faults.find? fun f => joinable f w.launch va kind with
  | some f =>
    let s := s.modDie l.die fun x =>
      { x with faults := x.faults.map fun g => if g.id = f.id then { g with threads := g.threads ++ [me] } else g }
    s.modThread k p fun t => { t with held := some f.id }
  | none =>
    let i := s.nextId
    let s := s.addFault l.die
      { id := 0, launch := w.launch, va := va, kind := kind, level := level, code := code, asid := w.space.asid, queue := l.queue,
        task := l.recPa, tpc := s.cur.addr, core := coreRegister (coreOfWave k), entry := BitVec.ofNat 64 entry, threads := [me] }
    s.modThread k p fun t => { t with held := some i }

/-- A task that is idempotent is discarded and held outside its queue (fault-and-replay). -/
def State.replayTask (s : State) (k va : Nat) (kind : AccKind) (code level entry : Nat) : State :=
  let w := s.wave k
  let l := s.launch w.launch
  let s := s.addFault l.die
    { id := 0, launch := w.launch, va := va, kind := kind, level := level, code := code, idem := true, asid := w.space.asid,
      queue := l.queue, task := l.recPa, tpc := s.cur.addr, core := coreRegister (coreOfWave k), entry := BitVec.ofNat 64 entry,
      replay := some (l.queue, l.pos) }
  s.discardLaunch w.launch false

/-- What an instruction raised in one member takes effect (R22). -/
def State.deliver (s : State) (k p : Nat) (r : Raised) : State :=
  match s.waves.find k with
  | none => s
  | some w =>
    match r with
    | .trap c tpc tval => s.takeTrap k p c tpc tval
    | .fault va kind code level entry =>
      if (s.launch w.launch).idem then s.replayTask k va kind code level entry
      else s.stallThread k p va kind code level entry

/-- The CAUSE bits of the traps among what was raised. -/
def causesOf : List (Nat × Raised) → Word
  | [] => 0
  | (_, .trap c _ _) :: t => c.mask ||| causesOf t
  | (_, .fault _ _ _ _ _) :: t => causesOf t

/-- What the members of one issue raised takes effect in rising lane order: when the task ends, the completion entry carries every cause
and the TPC and TVAL of the lowest lane (R23, log 21). -/
def State.deliverAll (s : State) (k : Nat) (rs : List (Nat × Raised)) : State :=
  if rs.isEmpty then s
  else
    let s := s.modWave k fun w => { w with cause := w.cause ||| causesOf rs }
    foldState (fun r s => s.deliver k r.1 r.2) rs s

end Sys2Proof.Machine
end

