-- ==== Sys2Proof/Machine/Operands.lean ====
section
/-! DEFINITION. Operand forms: the budget and prefix checks of a unit, what each field reads and writes (R14, R30, R33 to R38, R46), and the frame that
every encoded instruction runs in: checks, reads of all members, effects of those that raise nothing, then the traps (R22, R45, R78). -/

namespace Sys2Proof.Machine

open Sys2Proof

/-! ### Checks of the unit -/

/-- C stands in the unit's vector prefix. -/
def VPrefix.hasC (v : VPrefix) : Bool := v.present && v.c != 0xFF

/-- A V code's register numbers `k` to `k + n − 1` lie within the budget (R14). -/
def fits (budget : Nat) (c : Code) (n : Nat) : Bool := 0xDF < c.toNat || c.toNat + n ≤ budget

/-- The registers of an A fragment under MTYPE, and the alignment of the first (R163). -/
def fragmentRegs (mtype : Nat) : Nat :=
  let a := mtype % 16
  if a < 4 then (if bit mtype 4 then 4 else 8)
  else match a - 2 with | 2 => 4 | 3 => 5 | 4 => 7 | 5 => 8 | 6 => 10 | 7 => 11 | _ => 13
def fragmentAlign (mtype : Nat) : Nat :=
  let r := fragmentRegs mtype
  if r ≤ 4 then 4 else if r ≤ 8 then 8 else 16

end Sys2Proof.Machine

namespace Sys2Proof

open Sys2Proof.Machine

/-- The checks of an operand that need the budget, WIDE, C or MTYPE (R14, R81, R111, R163). -/
def Operand.fits (budget mtype : Nat) (wide hasC : Bool) : Operand → Bool
  | .s c | .d c | .rw c | .r c => Machine.fits budget c 1
  | .acc c => Machine.fits budget c 1 && (c != 0xFC || hasC)
  | .s2 c | .d2 c | .r2 c => Machine.fits budget c 2
  | .old c => if wide then Machine.fits budget c 2 && (c == 0xFC || reg2Ok c) else Machine.fits budget c 1
  | .sw c => if wide then Machine.fits budget c 2 && src2Ok c else Machine.fits budget c 1
  | .g4 c | .g4d c => Machine.fits budget c 4
  | .g8 c => Machine.fits budget c 8
  | .frag c => c.toNat % fragmentAlign mtype == 0 && Machine.fits budget c (fragmentRegs mtype)
  | .special c n => Machine.fits budget c (if specialWidth n.toNat = some 64 then 2 else 1)
  | .setSpecial _ c | .setOther _ c => Machine.fits budget c 1
  | .ds6 x | .ds6d x => 47 < x.toNat || x.toNat < budget
  | .s5 x => 15 < x.toNat || x.toNat < budget
  | .wcmd _ | .sel _ _ => true

/-- The orders a row of R37 permits. -/
def OrdUse.allows (o : OrdUse) (ord : Nat) : Bool :=
  match o with
  | .load => ord ≤ 1
  | .store => ord == 0 || ord == 2
  | .atomic | .fence => true

/-- The encodings that R43 reserves to privileged tasks. -/
def Instr.privileged : Instr → Bool
  | .freply _ _ | .swrOther _ _ | .ovlLoadTab _ _ | .bldBuildNft _ => true
  | _ => false

/-- The code that DS6 and S5 stand for; the constants of S5 name none (R31). -/
def ds6Code (x : BitVec 6) : Code := BitVec.ofNat 8 (if x.toNat ≤ 47 then x.toNat else 0xF0 + (x.toNat - 48))
def s5Code (x : BitVec 5) : Option Code :=
  if x.toNat ≤ 15 then some (BitVec.ofNat 8 x.toNat)
  else if x.toNat ≤ 23 then some (BitVec.ofNat 8 (0xF0 + (x.toNat - 16)))
  else if x.toNat ≤ 27 then some (BitVec.ofNat 8 (0xF8 + (x.toNat - 24)))
  else if x.toNat = 28 then some 0xFD
  else none

/-- The codes of the two registers of a pair source; Z names none (R14, R30). -/
def pairCodes (c : Code) : List Code := if c = 0xFD then [] else [c, c + 1]

/-- The 32-bit source codes that an operand field reads, in the order of its reads. -/
def Operand.sources (wide hasC : Bool) : Operand → List Code
  | .s c | .rw c | .setSpecial _ c | .setOther _ c => [c]
  | .s2 c => pairCodes c
  | .acc c => if hasC then [] else [c]
  | .sw c => if wide then pairCodes c else [c]
  | .g4 c => [c, c + 1, c + 2, c + 3]
  | .g8 c => [c, c + 1, c + 2, c + 3, c + 4, c + 5, c + 6, c + 7]
  | .ds6 x => [ds6Code x]
  | .s5 x => (s5Code x).toList
  | .d _ | .d2 _ | .r _ | .r2 _ | .old _ | .g4d _ | .wcmd _ | .frag _ | .special _ _ | .ds6d _ | .sel _ _ => []

end Sys2Proof

namespace Sys2Proof.Machine

open Sys2Proof

/-- The C operand's check: a 32-bit source, or a pair for a WIDE CAS (R35, R113). -/
def cOk (budget : Nat) (wide : Bool) (c : Code) : Bool :=
  if wide then src2Ok c && Machine.fits budget c 2 else srcOk c && Machine.fits budget c 1

/-- A memory prefix's fields are legal (R36, R37). -/
def memoryPrefixOk (o : OrdUse) (wide tarn : Bool) (m : MPrefix) : Bool :=
  !m.present ||
    (m.scope.toNat ≤ (if tarn then 2 else 4) && o.allows m.ord.toNat && (!m.sc || m.ord == 0)
      && (!m.nt || !(tarn || o == .fence)) && (!m.wide || wide))

/-- A vector prefix's fields are legal (R34, R35). -/
def vectorPrefixOk (budget : Nat) (c : CUse) (rm : RmUse) (isSel : Bool) (v : VPrefix) : Bool :=
  (match c with
    | .none => !v.hasC
    | .optional => !v.hasC || cOk budget false v.c
    | .required => v.hasC && cOk budget false v.c)
  && (!v.present ||
      ((match rm with
        | .zero => v.rm.toNat == 0
        | .directed => v.rm.toNat ≤ 3
        | .stochastic => v.rm.toNat ≤ 4)
      && (!v.zero || v.men) && (v.pred == 0 || v.men || isSel) && !(isSel && v.men)))

/-- The unit's prefixes are those that its instruction accepts (R35, R37, R38). -/
def prefixesOk (budget : Nat) (u : PrefixUse) (v : VPrefix) (m : MPrefix) : Bool :=
  match u with
  | .none => !v.present && !m.present
  | .vector c rm isSel => !m.present && vectorPrefixOk budget c rm isSel v
  | .memory o wide tarn => !v.present && memoryPrefixOk o wide tarn m
  | .cas tarn =>
    v.hasC && cOk budget m.wide v.c && v.rm == 0 && !v.zero && !v.men && v.pred == 0 && memoryPrefixOk .atomic (!tarn) tarn m

/-- R45 cause 2 as far as the unit and the wave decide it: encoding, operand codes, budget and prefixes. -/
def unitOk (i : Instr) (w : Wave) (c : Cur) : Bool :=
  i.wellFormed && prefixesOk w.budget i.prefixes c.vp c.mp
    && i.operands.all fun o => o.fits w.budget w.mtype.toNat c.mp.wide c.vp.hasC

/-! ### Reads -/

/-- Every source code of a unit in a member, in field order D, A, B, C (R19). MMA and MVS read B in the lane-0 thread of an octet alone, and
MMA's fragment is not read through Src (R163, R164, R169). -/
def sourcesOf (i : Instr) (c : Cur) (laneZero : Bool) : List Code :=
  match i with
  | .mma _ _ _ b => if laneZero then [b] else []
  | .mvs _ a b => a :: (if laneZero then pairCodes b else [])
  | i =>
    i.operands.flatMap (Operand.sources c.mp.wide c.vp.hasC)
      ++ (if c.vp.hasC then (if c.mp.wide then pairCodes c.vp.c else [c.vp.c]) else [])

/-- The first invalid latch among some source codes (R19). -/
def latchFault (t : Thread) (codes : List Code) : Option Code :=
  codes.find? fun c => 0xF8 ≤ c.toNat && c.toNat ≤ 0xFB && !(t.latch (c.toNat - 0xF8)).valid

/-- The drain context that a thread's octet holds for its wave (R174). -/
def State.drainOf (s : State) (k p : Nat) : Option Drain :=
  match (s.core (coreOfWave k)).drains.find ((s.wave k).octetOf p) with
  | some d => if d.wave = k then some d else none
  | none => none

/-- The cause of reading the source codes of an unmasked thread, past LATCH: SOFTERR for a bad register or drained element, else DRAIN
(R45, R81, R141, R175). -/
def State.readFault (s : State) (k p : Nat) (codes : List Code) : Option Cause :=
  let t := s.thread k p
  let n := (codes.filter (· == 0xFC)).length
  let cols := upFrom t.drainPos n
  match s.drainOf k p with
  | some d =>
    if codes.any fun c => t.bad.contains c.toNat then some .softerr
    else if cols.any fun c => c < 16 && d.badCols.contains (16 * (((s.wave k).base + p) % 8) + c) then some .softerr
    else if 16 < t.drainPos + n then some .drain
    else none
  | none =>
    if codes.any fun c => t.bad.contains c.toNat then some .softerr
    else if n ≠ 0 then some .drain
    else none

/-- Whether some column that a thread is about to read is not readable yet (R175). -/
def State.drainEarly (s : State) (k p : Nat) (codes : List Code) : Bool :=
  let n := (codes.filter (· == 0xFC)).length
  match s.drainOf k p with
  | some d => n != 0 && decide (d.ready < min ((s.thread k p).drainPos + n) 16)
  | none => false

/-- The value of a drain column of a thread (R175). -/
def State.drainValue (s : State) (k p col : Nat) : Word :=
  match s.drainOf k p with
  | some d => d.vals.getD (16 * (((s.wave k).base + p) % 8) + (s.thread k p).drainPos + col) 0
  | none => 0

/-- `Src` of R46 for a member that has passed its checks: `before` lists the source codes of the fields before this one, since each DRN
field takes the next column. -/
def State.src (s : State) (p : Nat) (before : List Code) (c : Code) : Word :=
  if c = 0xFC then s.drainValue s.cur.wave p (before.filter (· == 0xFC)).length
  else s.me.readCode p c

/-- `Src64` of R46. -/
def State.src64 (s : State) (p : Nat) (c : Code) : Word64 :=
  if c = 0xFD then 0 else s.me.readCode p (c + 1) ++ s.me.readCode p c

/-- A member is masked when MEN is 1 and its mask predicate is false (R46). -/
def State.masked (s : State) (p : Nat) : Bool :=
  s.cur.vp.men && !(s.me.thread p).pred s.cur.vp.pred

/-! ### Writes -/

/-- What the destination of a latch-pushing instruction receives in one thread, as the latch that is pushed (R17): the result, or for a
masked thread 0 or the destination's old value, which for NWB is the current H0 with its validity. -/
def Wave.received (old : Wave) (zero masked : Bool) (p : Nat) (c : Code) (v : Word) : Latch :=
  if !masked then ⟨true, v⟩
  else if zero then ⟨true, 0⟩
  else if c = 0xFC then (old.thread p).h0
  else ⟨true, old.readCode p c⟩

/-- Writes the destination register in one thread. A W register takes the result of the lead member alone (R15). -/
def Wave.land (w : Wave) (lead : Bool) (p : Nat) (c : Code) (v : Word) : Wave :=
  if isW c && !lead then w else w.writeCode p c v

/-- `Dst` of R46: the destination register, then the push. `old` is the wave before the instruction. -/
def Wave.dst (w old : Wave) (lead zero masked : Bool) (p : Nat) (c : Code) (v : Word) : Wave :=
  let got := old.received zero masked p c v
  let w := if masked && (!zero || isW c) then w else w.land lead p c got.val
  w.modThread p fun t => t.push got

/-- `Dst64` of R46: the register pair, then the pushes of the high and the low word. -/
def Wave.dst64 (w old : Wave) (lead zero masked : Bool) (p : Nat) (c : Code) (v : Word64) : Wave :=
  let hc := if c = 0xFC then c else c + 1
  let hi := old.received zero masked p hc (v.extractLsb' 32 32)
  let lo := old.received zero masked p c (v.extractLsb' 0 32)
  let w := if masked && (!zero || isW c) then w else (w.land lead p hc hi.val).land lead p c lo.val
  w.modThread p fun t => (t.push hi).push lo

/-! ### The frame of a unit -/

/-- The instructions of 10_cluster_instructions.md whose A is one value, which the lowest-numbered member alone reads (R211). Of the instructions of
other chapters that act once per issue every member reads A, and raises what reading it raises (DESIGN CHOICE, log 53). -/
def oneValue : Instr → Bool
  | .barInit _ _ | .barExpect _ _ | .xcopy _ _ | .xchain _ _ => true
  | _ => false

/-- The sources that a member would read on its own. -/
def State.ownSources (s : State) (i : Instr) (p : Nat) : List Code := sourcesOf i s.cur ((s.me.base + p) % 8 == 0)

/-- A member reads some codes without a cause. -/
def State.readsFreely (s : State) (p : Nat) (codes : List Code) : Bool :=
  (latchFault (s.me.thread p) codes).isNone && (s.readFault s.cur.wave p codes).isNone

/-- The sources that a member of the group reads. Of an operand that is one value, the members below the first that reads it without a cause raise
theirs, and those above it read nothing. -/
def State.sources (s : State) (i : Instr) (p : Nat) : List Code :=
  if oneValue i && s.cur.group.any (fun q => q < p && s.readsFreely q (s.ownSources i q)) then [] else s.ownSources i p

/-- What the checks of R45 causes 1 to 4 decide for one member: the cause it raises, or that it goes on. `extra` is what the instruction's
own rule decides before LATCH. -/
def State.frontCheck (s : State) (i : Instr) (extra : Nat → Option Raised) (p : Nat) : Option Raised :=
  if !unitOk i s.me s.cur then some (.trap .ill s.cur.addr s.cur.first)
  else if let some r := extra p then some r
  else if i.privileged && !s.me.priv then some (.trap .priv s.cur.addr s.cur.first)
  else if s.masked p then none
  else (latchFault (s.me.thread p) (s.sources i p)).map fun c => .trap .latch s.cur.addr (c.zeroExtend 32)

/-- The members of the issue group that still stand in the group: those of the wave that have not ended. -/
def State.members (s : State) : List Nat := s.cur.group

/-- The members that pass the front checks, and what the others raise. -/
def splitFront (f : Nat → Option Raised) : List Nat → List Nat × List (Nat × Raised)
  | [] => ([], [])
  | p :: t =>
    let (ok, rs) := splitFront f t
    match f p with
    | none => (p :: ok, rs)
    | some r => (ok, (p, r) :: rs)

/-- A trap of the unit in every one of some members. -/
def raiseAll (ps : List Nat) (r : Raised) : List (Nat × Raised) := ps.map fun p => (p, r)

/-- The next unit's address. Past offset 0xFFFF of overlay 15 there is none: State.runWithin raises ILL in the members that would go on there (R27). -/
def State.nextAddr (s : State) : Word := s.cur.addr + word s.cur.len

/-- The same as a code address, for TPC and O7: bits [31:20] are 0 (R26). After a unit that ends at 0x100000 it is therefore 0, which is the model's
choice (log 26). -/
def State.nextCode (s : State) : Word := s.nextAddr &&& 0xFFFFF

/-- A thread goes on at an address; its next drain read is `n` columns further. -/
def Thread.goTo (t : Thread) (a : Word) : Thread := { t with pc := a }
def Thread.skipColumns (t : Thread) (n : Nat) : Thread := { t with drainPos := t.drainPos + n }

/-- Members of a wave go on at `next`, or where they jump to. -/
def Wave.advance (w : Wave) (ps : List Nat) (next : Word) (jumps : Tab Word) : Wave :=
  { w with threads := (List.range w.threads.length).zipWith (fun p t => if ps.contains p then t.goTo (jumps.get next p) else t) w.threads }

/-- Members that complete go on at the next unit, or where they jump to. -/
def State.advance (s : State) (ps : List Nat) (jumps : Tab Word) : State :=
  let next := s.nextAddr
  s.modWave s.cur.wave fun w => w.advance ps next jumps

/-- The drain positions of the members that completed move past the columns they read (R30, R175). -/
def State.takeColumns (s : State) (i : Instr) (ps : List Nat) : State :=
  let n (p : Nat) : Nat := ((s.sources i p).filter (· == 0xFC)).length
  if ps.all fun p => n p == 0 then s
  else
    let s' := foldState (fun p t => if s.masked p then t
      else t.modThread s.cur.wave p fun x => x.skipColumns (n p)) ps s
    s'.settleDrains s.cur.wave

/-- Sorts what was raised by member. -/
def insertRaised (r : Nat × Raised) : List (Nat × Raised) → List (Nat × Raised)
  | [] => [r]
  | x :: t => if r.1 ≤ x.1 then r :: x :: t else x :: insertRaised r t
def sortRaised : List (Nat × Raised) → List (Nat × Raised)
  | [] => []
  | r :: t => insertRaised r (sortRaised t)

/-- What a body leaves: the state, the members that completed, what the others raised, and the addresses that completing members jump to. -/
structure Done where
  st : State
  ok : List Nat
  raised : List (Nat × Raised)
  jumps : Tab Word := []

/-- Nothing of the unit happens now (R132, R175, R221). -/
def State.hold (s : State) : State := { s.skipFree with cur := { s.cur with held := true } }

/-- The unit has issued and waits in place (R212, R313). -/
def State.waits (s : State) (inPlace : Bool := true) : State := { s with cur := { s.cur with inPlace := inPlace } }

/-- A run of consecutive clk, as its first and last, goes on at a clk or begins there. -/
def runOn (clock : Nat) (r : Option (Nat × Nat)) : Nat × Nat :=
  match r with
  | some (first, last) => if clock ≤ last + 1 then (first, clock) else (clock, clock)
  | none => (clock, clock)

/-- A wide unit is denied its price in shots in this clk (R201). -/
def Wave.deny (w : Wave) (clock price : Nat) : Wave :=
  let r := runOn clock (w.denied.map fun d => (d.1, d.2.1))
  { w with denied := some (r.1, r.2, price) }
def State.deny (s : State) (price : Nat) : State := s.modWave s.cur.wave fun w => w.deny s.clock price

/-- The price of a unit is paid, and the reservation that its wave holds ends (R133, R201). -/
def State.pay (s : State) (price : Nat) : State :=
  if price = 0 then s
  else
    let s := s.modWave s.cur.wave fun w => { w with denied := none }
    s.modCore s.myCore fun c => { c with pocket := c.pocket - price, reservation := c.reservation.filter fun r => r.1 != s.cur.wave }

/-- The core cannot pay a price for this wave now: too few shots, or another wave's reservation (R132). -/
def State.cannotPay (s : State) (price : Nat) : Bool :=
  let core := s.core s.myCore
  let reservedByOther := match core.reservation with | some r => r.1 != s.cur.wave | none => false
  0 < price && (core.pocket < price || reservedByOther)

/-- An access of the issuing unit that is in flight. -/
def State.myAccess (s : State) (va addr size : Nat) : OutAccess :=
  { die := s.myDie, launch := s.me.launch, uid := s.me.uid, wave := s.cur.wave, tpc := s.cur.addr, addr := addr, va := va, asid := s.me.space.asid
    size := size }

/-- The agents of the issue group's members (R352). -/
def State.myAgents (s : State) : List Nat := s.cur.full.map (agentOf s.me.uid)

/-- A unit asks for bytes from outside the module, which it waits for (R428, R429). -/
def State.ask (s : State) (need : Option Need) : State :=
  match need with
  | none => s
  | some x => s.sendOutFor { s.myAccess x.va x.addr x.size with to_ := .unit }

/-- The access being made must wait, or first needs bytes from outside the module. -/
def State.block (s : State) : State := { s with cur := { s.cur with blocked := true } }
def State.needs (s : State) (x : Need) : State := { s with cur := { s.cur with blocked := true, need := some x } }

/-- Some members stay at the unit, which needs bytes from outside the module or must wait for a release. -/
def State.leave (s : State) (ps : List Nat) (need : Option Need) : State := { s.skipFree with cur := { s.cur with rest := ps, need := need } }

/-- A wave waits for an access in flight, or for a sequentially consistent store to take effect (R356). -/
def State.outstanding (s : State) (uid : Nat) : Bool :=
  (s.outs.any fun o => o.2.uid == uid) || s.dies.any fun d => d.2.pend.any fun e => e.sc && e.agent / 64 == uid + 2

/-- The frame in which every encoded instruction runs: the checks of R45 causes 1 to 4 in every member; for those that pass, the conditions
under which the unit is no candidate (`busy` answers what state it waits in, R132), the price, and the body; then the members that
completed go on, and every trap of the issue is taken. A unit that can do nothing yet waits in place. -/
def State.runWith (s : State) (i : Instr) (extra : Nat → Option Raised) (busy : List Nat → Option State) (price : Nat)
    (body : State → List Nat → Done) : State :=
  let (ok, rs) := splitFront (s.frontCheck i extra) s.members
  if ok.isEmpty then s.deliverAll s.cur.wave rs
  else if ok.any fun p => !s.masked p && s.drainEarly s.cur.wave p (s.sources i p) then s.hold
  else
    match busy ok with
    | some s' => s'.hold
    | none =>
      if s.cannotPay price then (s.deny price).hold
      else
        let d := body (s.pay price) ok
        if d.st.cur.held then (s.waits d.st.cur.inPlace).hold
        else if d.st.cur.blocked || (!d.st.cur.rest.isEmpty && d.ok.isEmpty && d.raised.isEmpty) then (s.ask d.st.cur.need).waits.hold
        else
          (((d.st.ask d.st.cur.need).advance d.ok d.jumps).takeColumns i d.ok).deliverAll s.cur.wave (sortRaised (rs ++ d.raised))

/-- The frame for an instruction with no check or condition of its own before its body. -/
def State.runUnit (s : State) (i : Instr) (price : Nat) (body : State → List Nat → Done) : State :=
  s.runWith i (fun _ => none) (fun _ => none) price body

/-- A body that every member completes. -/
def allDone (f : State → List Nat → State) (s : State) (ps : List Nat) : Done := { st := f s ps, ok := ps, raised := [] }

/-- A trap at the unit's address. -/
def State.trapAt (s : State) (c : Cause) (tval : Word) : Raised := .trap c s.cur.addr tval

/-- A refusal of a translation as what a member raises; TVAL of PROT is the low address word (R24). -/
def State.refusal (s : State) (kind : AccKind) : Refused → Raised
  | .xlate va code level entry => .fault va kind code level entry
  | .prot va => s.trapAt .prot (word va)

/-- The members without a late read cause (SOFTERR, DRAIN), and what the others raise; masked members read nothing. -/
def State.readSplit (s : State) (i : Instr) (ps : List Nat) : List Nat × List (Nat × Raised) :=
  splitFront (fun p =>
    if s.masked p then none else (s.readFault s.cur.wave p (s.sources i p)).map fun c => s.trapAt c 0) ps

/-- A body in which reads are checked first, as for the instructions that have no cause between LATCH and SOFTERR (R78, R143). -/
def reading (i : Instr) (f : State → List Nat → Done) (s : State) (ps : List Nat) : Done :=
  let (ok, rs) := s.readSplit i ps
  if ok.isEmpty then { st := s, ok := [], raised := rs }
  else
    let d := f s ok
    { d with raised := rs ++ d.raised }

/-- An instruction executed once per issue: an own cause stops every member, otherwise `f` acts with the operands of the lowest member. -/
def once (f : State → Nat → Except Raised State) (s : State) (ps : List Nat) : Done :=
  match ps with
  | [] => { st := s, ok := [], raised := [] }
  | p :: _ =>
    match f s p with
    | .ok s' => if s'.cur.blocked then { st := s.leave ps s'.cur.need, ok := [], raised := [] } else { st := s', ok := ps, raised := [] }
    | .error r => { st := s.skipFree, ok := [], raised := raiseAll ps r }

/-- The W registers of the issuing wave take other values, if told so. -/
def State.withW (s : State) (change : Bool) (w : Tab Word) : State := if change then s.modWave s.cur.wave fun x => { x with w := w } else s

/-- Members act one after another in rising lane order; each completes or raises (R104). `f` is told whether no member before this one has
completed: that member's result is what a W register keeps (R15, R107), and it takes its place when every member has acted, since all of them
read their sources first (R103). One that cannot act yet stays at the unit with those after it, and those after one whose access is in flight wait
for it (R250). -/
def eachMember (f : Bool → State → Nat → Except Raised State) : Bool → State → List Nat → Done
  | _, s, [] => { st := s, ok := [], raised := [] }
  | lead, s, p :: t =>
    match f lead s p with
    | .ok s' =>
      if s'.cur.blocked then { st := s.leave (p :: t) s'.cur.need, ok := [], raised := [] }
      else if s'.cur.away then { st := if t.isEmpty then s' else s'.leave t none, ok := [p], raised := [] }
      else
        let d := eachMember f false (s'.withW lead s.me.w) t
        { d with st := d.st.withW lead s'.me.w, ok := p :: d.ok }
    | .error r => let d := eachMember f lead s.skipFree t; { d with raised := (p, r) :: d.raised }

/-- The members of a unit act one after another; those that go on in it read the W registers as they were when it issued. -/
def inTurn (f : Bool → State → Nat → Except Raised State) (s : State) (ps : List Nat) : Done :=
  let d := eachMember f (!s.cur.led) (s.withW s.cur.led s.cur.regs) ps
  { d with st := d.st.withW s.cur.led s.me.w }

/-- A body in which all of some members stay at the unit while one of them must wait. -/
def together (f : State → List Nat → Done) (s : State) (ps : List Nat) : Done :=
  let d := f s ps
  if d.st.cur.rest.isEmpty then d else { st := s.leave ps d.st.cur.need, ok := [], raised := [] }

/-- Writes a register of one member; a W register takes the lead member's value alone (R15, R107). -/
def State.writeLead (s : State) (lead : Bool) (p : Nat) (c : Code) (v : Word) : State :=
  if isW c && !lead then s else s.modWave s.cur.wave fun w => w.writeCode p c v

/-- Writes consecutive registers from a code on. -/
def State.writeLeads (s : State) (lead : Bool) (p : Nat) (c : Code) : List Word → State
  | [] => s
  | v :: t => (s.writeLead lead p c v).writeLeads lead p (c + 1) t

/-- The destination that one member's value is kept in: none for a W register of a member that is not the lead (R15). -/
def leadDest (lead : Bool) (d : Code) : Code := if isW d && !lead then 0xFC else d

/-- Words reach consecutive registers of a thread. -/
def Wave.putWords (w : Wave) (p : Nat) (c : Code) : List Word → Wave
  | [] => w
  | v :: t => (w.writeCode p c v).putWords p (c + 1) t

/-- The late cause of reading some source codes, as what the member raises (R45). -/
def State.lateFault (s : State) (p : Nat) (codes : List Code) : Option Raised :=
  (s.readFault s.cur.wave p codes).map fun c => s.trapAt c 0

/-- SOFTERR alone of those causes: POISON, where an instruction can raise it, comes between it and DRAIN. -/
def State.lateSoft (s : State) (p : Nat) (codes : List Code) : Option Raised :=
  if s.readFault s.cur.wave p codes = some .softerr then some (s.trapAt .softerr 0) else none

/-- Writes D of one member where D must be V, O or W: a W register keeps the value of the lowest member (R15, R107). -/
def State.writeR (s : State) (ps : List Nat) (p : Nat) (c : Code) (v : Word) : State :=
  if isW c && ps.head? != some p then s else s.modWave s.cur.wave fun w => w.writeCode p c v

/-- Writes a value to D of every member. -/
def State.writeEach (s : State) (ps : List Nat) (c : Code) (f : Nat → Word) : State :=
  foldState (fun p s => s.writeR ps p c (f p)) ps s

/-- Writes a 64-bit value to the pair D of every member. -/
def State.writeEach64 (s : State) (ps : List Nat) (c : Code) (f : Nat → Word64) : State :=
  foldState (fun p s => (s.writeR ps p c ((f p).extractLsb' 0 32)).writeR ps p (c + 1) ((f p).extractLsb' 32 32)) ps s

end Sys2Proof.Machine
end

