-- ==== Sys2Proof/Machine/Issue.lean ====
section
/-! DEFINITION. Time (R396), the choice of an issue group (R12, R123), waits (R152, R191, R322, R362), and fetching and decoding a unit from an
overlay slot (R26 to R28, R38). -/

namespace Sys2Proof

/-- The instructions of the first class of R131. -/
def Instr.cold : Instr → Bool
  | .waitany _ | .waitall _ | .barWait _ | .barSync _ | .park _ => true
  | _ => false

/-- The units that wait in place before they issue (R219, R220, R314): they are still to be issued when their wait is over. -/
def Instr.waitsUnissued : Instr → Bool
  | .rayGo _ _ | .bldBuild _ | .bldBuildNft _ | .bldRefit _ | .bldRebal _ | .xcopy _ _ | .xchain _ _ => true
  | _ => false

/-- The steps that only an issue makes, never the agenda (R44, R433). -/
def Instr.withinIssue : Instr → Bool
  | .notedCauseDelivery | .illegalEncoding => true
  | _ => false

end Sys2Proof

namespace Sys2Proof.Machine

open Sys2Proof

/-! ### Time -/

/-- Parts of a reference period in which a clk at every legal frequency is a whole number: 3 × the least common multiple of 1 to 30. -/
def refUnits : Nat := 3 * 2329089562800

/-- Time passes by n clk: CLOCK counts them, and the 100 MHz reference counts n × 100 ÷ MHZ periods (R21, R396, log 16). -/
def State.tick (s : State) (n : Nat) : State :=
  let p := s.refPhase + n * (100 * refUnits / max 1 s.weir.mhz)
  { s with clock := s.clock + n, ref := s.ref + p / refUnits, refPhase := p % refUnits }

/-- Reference periods in a number of nanoseconds, rounded up. -/
def periods (ns : Nat) : Nat := ceilDiv ns 10

/-! ### Ready threads and the issue group -/

/-- A thread that holds a mark stands at its join (R123). -/
def Thread.atJoin (t : Thread) : Bool :=
  match t.mark with
  | some m => t.pc == m.addr && t.held == none && !t.inHandler
  | none => false

/-- The marks whose holders all wait at the join are cleared (R123). -/
def Wave.settleJoins (w : Wave) : Wave :=
  let open_ (id : Nat) : Bool := w.threads.any fun t => !t.ended && !t.atJoin && (t.mark.map JoinMark.id) == some id
  { w with threads := w.threads.map fun t =>
      match t.mark with
      | some m => if !t.ended && t.atJoin && !open_ m.id then { t with mark := none } else t
      | none => t }

/-- A thread is ready (R12, R123). -/
def Thread.ready (t : Thread) : Bool := !t.ended && t.held == none && !t.atJoin

/-- The ready positions of a wave. -/
def Wave.readyPositions (w : Wave) : List Nat := w.positions.filter fun p => (w.thread p).ready

/-- The least PC among some positions. -/
def Wave.lowestPc (w : Wave) (ps : List Nat) : Option Word :=
  (argMin (fun p => (w.thread p).pc.toNat) ps).map fun p => (w.thread p).pc

/-- The chosen PC of R12. -/
def Wave.chosenPc (w : Wave) : Option Word :=
  let ready := w.readyPositions
  let starved := ready.filter fun p => 64 ≤ (w.thread p).starve
  if starved.isEmpty then w.lowestPc ready else w.lowestPc starved

/-- The issue group at a PC (R12). -/
def Wave.groupAt (w : Wave) (pc : Word) : List Nat := w.readyPositions.filter fun p => (w.thread p).pc == pc

/-! ### Waits -/

/-- The wave waits from now on in the unit being issued, which reads a latch or not. A wait that is already satisfied ends at once. -/
def State.beginWait (s : State) (k : Nat) (x : Wait) (reads : Bool := false) : State :=
  let s := s.modWave k fun w => { w with wait := some x, waitSince := s.clock, waitReads := reads }
  if s.waitOver (coreOfWave k) (s.wave k).team x then s.endWait k else s

/-- Some source codes name a latch. -/
def readsLatch (codes : List Code) : Bool := codes.any fun c => 0xF8 ≤ c.toNat && c.toNat ≤ 0xFB

/-- Whether the wait of a wave, if it has one, is over. -/
def State.waitDone (s : State) (k : Nat) : Bool :=
  match (s.wave k).wait with
  | none => true
  | some x => s.waitOver (coreOfWave k) (s.wave k).team x

/-- Whether a wave may issue: it stands in the window, has neither come in nor issued in this clk, waits on nothing, and some thread is ready (R131, R132). The
launch's threads stop issuing no later than 64 clk after its DONE (R319). -/
def State.mayIssue (s : State) (k : Nat) : Bool :=
  match s.waves.find k with
  | none => false
  | some w =>
    w.inWindow && decide (w.nextClk ≤ s.clock) && s.waitDone k && !s.outstanding w.uid && !w.settleJoins.readyPositions.isEmpty
      && (match (s.launch w.launch).doneAt with | some t => decide (s.clock < t + 64) | none => true)

/-! ### Fetch and decode -/

/-- The overlay slot in which an overlay of an object is resident (R28, R140). -/
def CoreSt.slot (c : CoreSt) (i : Nat) : Ovl := if i = 0 then c.slot0 else c.slot1
def CoreSt.setSlot (c : CoreSt) (i : Nat) (o : Ovl) : CoreSt := if i = 0 then { c with slot0 := o } else { c with slot1 := o }
def CoreSt.resident (c : CoreSt) (obj n : Nat) : Option Nat :=
  [0, 1].find? fun i => (c.slot i).st == .resident && (c.slot i).obj == obj && (c.slot i).n == n

/-- Up to 12 bytes of an overlay from an offset on, none beyond offset 0xFFFF. -/
def codeBytes (o : Ovl) (off : Nat) : List Byte := (upFrom off (min 12 (0x10000 - off))).map (o.code.get 0)

/-- What stands where a prefix may stand. -/
inductive PrefixSeen where
  | absent | bad | vector (v : VPrefix) | memory (m : MPrefix)
  deriving DecidableEq, Repr

/-- The prefix at the head of some code bytes: a word whose low byte is 0xFF (R29, R34, R36). -/
def prefixAt : List Byte → PrefixSeen
  | b0 :: b1 :: b2 :: b3 :: _ =>
    if b0 = 0xFF then
      match decodePrefix (b3 ++ b2 ++ b1 ++ b0) with
      | some (.vector f) => .vector ⟨true, f.c, f.rm, f.zero, f.men, f.pred⟩
      | some (.memory f) => .memory ⟨true, f.wide, f.nt, f.sc, f.ord, f.scope⟩
      | none => .bad
    else .absent
  | b0 :: _ => if b0 = 0xFF then .bad else .absent
  | [] => .bad

/-- A decoded unit (R38): its instruction, its length in bytes, and its prefixes. -/
structure CodeUnit where
  instr : Instr
  len : Nat
  vp : VPrefix := {}
  mp : MPrefix := {}
  deriving DecidableEq, Repr

/-- The instruction after `skip` bytes of prefixes. -/
noncomputable def decodeAfter (bs : List Byte) (skip : Nat) (vp : VPrefix) (mp : MPrefix) : Option CodeUnit :=
  match decode (bs.drop skip) with
  | .ok (i, rest) => some ⟨i, bs.length - rest.length, vp, mp⟩
  | .error _ => none

/-- Decodes a unit: up to one memory and one vector prefix, in that order, then an instruction; none where it raises ILL (R38, R44). -/
noncomputable def decodeUnit (bs : List Byte) : Option CodeUnit :=
  match prefixAt bs with
  | .absent => decodeAfter bs 0 {} {}
  | .bad => none
  | .vector v =>
    match prefixAt (bs.drop 4) with
    | .absent => decodeAfter bs 4 v {}
    | .bad | .vector _ | .memory _ => none
  | .memory m =>
    match prefixAt (bs.drop 4) with
    | .absent => decodeAfter bs 4 {} m
    | .vector v => decodeAfter bs 8 v m
    | .bad | .memory _ => none

/-- The TVAL of ILL and PRIV at a unit (R24): its first 32 bits, or the halfword of a lone 16-bit instruction or of a word that would pass the
overlay's end. -/
def firstBits (bs : List Byte) : Word :=
  match bs with
  | b0 :: _ => if b0.getLsbD 0 && 4 ≤ bs.length then word (leNat (bs.take 4)) else word (leNat (bs.take 2))
  | [] => 0

/-- What the chosen group meets at its PC before any decoding (R27, R28, R141). -/
inductive Fetch where
  /-- every member raises a cause, with a TVAL -/
  | stop (c : Cause) (tval : Word)
  /-- the unit's code bytes -/
  | bytes (bs : List Byte)
  deriving DecidableEq, Repr

/-- Fetching at a code address for a wave: an overlay that is not resident is OVLMISS (R28); an uncorrectable error in the slot, wherever it lies
there, is SOFTERR, with the address of the code's line (R24, R141, log 55). -/
def State.fetch (s : State) (k : Nat) (pc : Word) : Fetch :=
  let w := s.wave k
  let c := s.core (coreOfWave k)
  match c.resident w.obj (pc.toNat / 0x10000) with
  | none => .stop .ovlmiss (word (pc.toNat / 0x10000))
  | some i => if (c.slot i).bad then .stop .softerr (word (pc.toNat / 128 * 128)) else .bytes (codeBytes (c.slot i) (pc.toNat % 0x10000))

/-- The slot that a group at an address executes from becomes EMPTY after an uncorrectable error (R141). -/
def State.dropBadSlot (s : State) (k : Nat) (pc : Word) : State :=
  s.modCore (coreOfWave k) fun c =>
    match c.resident (s.wave k).obj (pc.toNat / 0x10000) with
    | some i => if (c.slot i).bad then c.setSlot i {} else c
    | none => c

/-- The wave and its group are chosen for one issue: marks settle, and `cur` names the group, its address and the ready threads (R12). A wave that
waits in place goes on with the unit it waits in (R212). None when the wave has nothing to issue. -/
def State.chooseGroup (s : State) (k : Nat) : Option State :=
  if !s.mayIssue k then none
  else
    let s := if (s.wave k).wait.isSome then s.endWait k else s
    let s := s.modWave k Wave.settleJoins
    let w := s.wave k
    match w.inPlace with
    | some h => some { s with cur := { wave := k, group := h.group, full := h.group, ready := w.readyPositions, addr := h.addr,
                                       part := h.issued, led := h.led, regs := h.w } }
    | none =>
      match w.chosenPc with
      | none => none
      | some pc => some { s with cur := { wave := k, group := w.groupAt pc, full := w.groupAt pc, ready := w.readyPositions, addr := pc, regs := w.w } }

/-- What the chosen group executes: the unit that it waits in, or else what it fetches. -/
def State.fetchChosen (s : State) : Fetch :=
  match s.me.inPlace with
  | some h => .bytes h.code
  | none => s.fetch s.cur.wave s.cur.addr

/-- Sets the fetched bytes of the unit being issued. -/
def State.setUnit (s : State) (bs : List Byte) (u : Option CodeUnit) : State :=
  let c := { s.cur with
    first := firstBits bs, code := bs, len := (u.map CodeUnit.len).getD 4, vp := (u.map CodeUnit.vp).getD {}, mp := (u.map CodeUnit.mp).getD {} }
  { s with cur := c }

/-- The single-bit errors that an issue meets are corrected: in its overlay slot, in the wave's slot state and in the registers that it reads (R141). -/
def State.meetIssue (s : State) (i : Instr) : State :=
  let k := s.cur.wave
  let codes := sourcesOf i s.cur true
  let slot := (s.core s.myCore).resident s.me.obj (s.cur.addr.toNat / 0x10000)
  s.meetSites fun x =>
    match x with
    | .register w p c => w == k && s.cur.group.contains p && codes.any fun r => r.toNat == c
    | .slotState w => w == k
    | .codeSlot c n => c == s.myCore && slot == some n
    | .tarnWord _ _ | .accElement _ _ _ _ | .barrier _ | .fifoEntry _ _ _ | .channel _ _ | .reservoir _ | .l2Line _ _ | .llcLine _
    | .directory _ | .watchEntry _ | .rayQuery _ | .builderState _ => false

/-- The members of the group that a noted cause stops (R433). -/
def State.notedMembers (s : State) : List Nat := s.cur.group.filter fun p => !(s.me.thread p).noted.isEmpty

/-- The unit in some code bytes reads a latch. -/
noncomputable def unitReadsLatch (bs : List Byte) : Bool :=
  match decodeUnit bs with
  | some u => readsLatch (sourcesOf u.instr { vp := u.vp, mp := u.mp } true)
  | none => false

/-- The unit at a code address reads a latch, for a wave. -/
noncomputable def State.readsLatchAt (s : State) (k : Nat) (pc : Word) : Bool :=
  match s.fetch k pc with
  | .stop _ _ => false
  | .bytes bs => unitReadsLatch bs

/-- A wave that cannot issue stands at a boundary that R18 point 4 permits: the instruction that it would execute next, or waits in, reads no
latch. Behind a FENCE that waits, that is the one after it (R116); of a wave whose threads are all held, the one of each of them. -/
noncomputable def State.stallBoundary (s : State) (k : Nat) : Bool :=
  let w := s.wave k
  if w.wait.isSome then !w.waitReads
  else
    match w.inPlace with
    | some h =>
      match decodeUnit h.code with
      | some u => if u.instr = .fence then !s.readsLatchAt k (h.addr + word u.len) else !unitReadsLatch h.code
      | none => true
    | none =>
      let w := w.settleJoins
      match w.chosenPc with
      | some pc => !s.readsLatchAt k pc
      | none => w.threads.all fun t => t.ended || !s.readsLatchAt k t.pc

/-- A member of a unit has completed in it: it has gone on to the next unit, and has not trapped. -/
def State.completedIn (s t : State) : Bool :=
  s.cur.group.any fun p => (t.me.thread p).pc == s.nextAddr && (t.me.thread p).inHandler == (s.me.thread p).inHandler

/-- After the unit of `before` was run. When it issues, once, the starvation counts of R12 move. The wave belongs to class 1 of R131 when its
instruction is one of that class and has completed in some member, until it issues again. A held unit that waits in place is the wave's next one
(R212), also when only some members wait. Nothing happens when the wave has left its slot. -/
def State.endIssue (s before : State) (i : Instr) : State :=
  let k := s.cur.wave
  let c := s.cur
  let issues := !c.held || (c.inPlace && !i.waitsUnissued)
  let stays := if c.held then c.group else c.rest
  if (s.wave k).uid ≠ before.me.uid then s
  else
    s.modWave k fun w => { w with
      holdSince := if stays.isEmpty then none else some s.clock
      inPlace := if c.held && !c.inPlace then w.inPlace
        else if stays.isEmpty then none else some ⟨stays, c.addr, c.code, issues, c.led || before.completedIn s, c.regs⟩
      cand := if c.held then w.cand else none
      denied := if c.held then w.denied else none
      coldWait := if issues then i.cold && before.completedIn s else w.coldWait
      answers := if c.held then w.answers else []
      threads := if !issues || c.part then w.threads
        else (List.range w.threads.length).zipWith (fun p t =>
          if c.full.contains p then { t with starve := 0 }
          else if c.ready.contains p then { t with starve := t.starve + 1 }
          else t) w.threads }

/-- Every member of the group raises a cause at its PC before any decoding. -/
def State.stopGroup (s : State) (c : Cause) (tval : Word) : State :=
  s.deliverAll s.cur.wave (raiseAll s.cur.group (.trap c s.cur.addr tval))

/-- What follows a next state. -/
def andThen (o : Host.Outcome State Fault Refusal) (f : State → Host.Outcome State Fault Refusal) : Host.Outcome State Fault Refusal :=
  match o with
  | .next s => f s
  | .fault r => .fault r
  | .refused r => .refused r

/-- Runs a unit in the members that stay within the overlays: those that would fall through past overlay 15 raise ILL at it instead (R27, log 26). -/
def State.runWithin (s : State) (run : State → Host.Outcome State Fault Refusal) : Host.Outcome State Fault Refusal :=
  if s.cur.addr.toNat + s.cur.len < 2 ^ 20 then run s
  else
    andThen (run s) fun t =>
      let past := s.cur.group.filter fun p => t.me.uid == s.me.uid && !(t.me.thread p).ended && (t.me.thread p).pc == 0x100000
      let rest := s.cur.group.filter fun p => !past.contains p
      if past.isEmpty then .next t
      else
        andThen (if rest.isEmpty then .next s else run { s with cur := { s.cur with group := rest } }) fun u =>
          .next (u.deliverAll s.cur.wave (raiseAll past (.trap .ill s.cur.addr s.cur.first)))

/-- Runs the rest of a unit behind the delivery of the causes noted for some members (R433). A unit that does not issue yet delivers nothing; one that
waits in place may have issued before. -/
def State.behindNoted (s : State) (i : Instr) (noted run : State → Host.Outcome State Fault Refusal) : Host.Outcome State Fault Refusal :=
  if s.notedMembers.isEmpty || s.cur.part then run s
  else
    andThen (noted s) fun n =>
      if n.me.uid ≠ s.me.uid ∨ n.cur.group = [] then .next n
      else
        andThen (run n) fun t =>
          if t.cur.held && (!t.cur.inPlace || i.waitsUnissued) then
            andThen (run { s with cur := { s.cur with group := n.cur.group, ready := n.cur.ready } }) fun u =>
              .next { u with cur := { u.cur with group := s.cur.group, ready := s.cur.ready } }
          else .next t

/-- One issue of a wave; `run` is the meaning of each instruction. Of what a group meets at its PC, OVLMISS alone goes before a noted cause. -/
noncomputable def State.issueWave (s : State) (k : Nat) (run : Instr → State → Host.Outcome State Fault Refusal) :
    Host.Outcome State Fault Refusal :=
  match s.chooseGroup k with
  | none => .next s
  | some s =>
    match s.fetchChosen with
    | .stop .ovlmiss tval => .next ((s.stopGroup .ovlmiss tval).endIssue s .illegalEncoding)
    | .stop c tval =>
      andThen ((s.dropBadSlot k s.cur.addr).behindNoted .illegalEncoding (run .notedCauseDelivery) fun s => .next (s.stopGroup c tval)) fun t =>
        .next (t.endIssue s .illegalEncoding)
    | .bytes bs =>
      let u := decodeUnit bs
      let i := (u.map CodeUnit.instr).getD .illegalEncoding
      let s := (s.setUnit bs u).meetIssue i
      andThen (s.behindNoted i (run .notedCauseDelivery) fun s => s.runWithin (run i)) fun t => .next (t.endIssue s i)

end Sys2Proof.Machine
end

