-- ==== Sys2Proof/Machine/Tarn.lean ====
section
/-! DEFINITION. The Tarn: addresses (R135), format windows (R136, R137), LDT, STT and the Tarn atomics (R147, R148). -/

namespace Sys2Proof.Machine

open Sys2Proof

/-! ### Addresses and bytes -/

/-- The base of a team's share on a core. -/
def Team.tarnBase (t : Team) (core : Nat) : Option Nat :=
  ((t.cores.zip t.tarn).find? fun x => x.1 == core).map Prod.snd

/-- Where `len` bytes at a share offset stand, for an access with Tarn address `ta` from a core: the core and absolute offset, or none where
R135 raises TARNR. -/
def State.tarnPlace (_s : State) (core : Nat) (t : Team) (ta off len : Nat) : Option (Nat × Nat) :=
  if ta / 2 ^ 24 ≠ 0 ∨ (bit ta 23 ∧ !t.pair) ∨ t.tarnLen < off + len then none
  else
    let c := if bit ta 23 then partnerCore core else core
    (t.tarnBase c).map fun b => (c, b + off)

/-- The share offset of a Tarn address. -/
def tarnOffset (ta : Nat) : Nat := ta % 2 ^ 23

/-- Bytes of a core's Tarn, and a write of some. A written word loses its poison mark (R151); one written whole loses its error. -/
def CoreSt.tarnBytes (c : CoreSt) (at_ len : Nat) : List Byte := (upFrom at_ len).map (c.tarn.get 0)

def putTarn : Tab Byte → Nat → List Byte → Tab Byte
  | t, _, [] => t
  | t, a, b :: rest => putTarn (t.putD 0 a b) (a + 1) rest

/-- The Tarn words that a byte range meets. -/
def wordsOf (at_ len : Nat) : List Nat := upFrom (at_ / 4) (ceilDiv (at_ % 4 + len) 4)

def CoreSt.writeTarn (c : CoreSt) (at_ : Nat) (data : List Byte) : CoreSt :=
  let len := data.length
  { c with
    tarn := putTarn c.tarn at_ data
    tarnPoison := c.tarnPoison.filter fun w => !(wordsOf at_ len).contains w
    tarnBad := c.tarnBad.filter fun w => !(at_ ≤ 4 * w && 4 * w + 4 ≤ at_ + len) }

/-- The cause of reading a Tarn range: SOFTERR for an uncorrectable error (R141), POISON for a mark (R151). -/
def CoreSt.tarnFault (c : CoreSt) (at_ len : Nat) : Option Cause :=
  let ws := wordsOf at_ len
  if ws.any c.tarnBad.contains then some .softerr
  else if ws.any c.tarnPoison.contains then some .poison
  else none

/-- Reading a Tarn range corrects the single-bit errors in it (R141). -/
def State.meetTarn (s : State) (core at_ len : Nat) : State :=
  s.meetSites fun x =>
    match x with
    | .tarnWord c off => c == core && (wordsOf at_ len).contains (off / 4)
    | .register _ _ _ | .slotState _ | .accElement _ _ _ _ | .codeSlot _ _ | .barrier _ | .fifoEntry _ _ _ | .channel _ _ | .reservoir _
    | .l2Line _ _ | .llcLine _ | .directory _ | .watchEntry _ | .rayQuery _ | .builderState _ => false

/-! ### Format windows -/

/-- A format window in use: its frame's start and length in bytes, GEOM and FMT (R136, R137). -/
structure Window where
  base : Nat
  len : Nat
  geom : Nat
  fmt : Nat
  deriving DecidableEq, Repr

/-- Window k of a team. -/
def Team.window (t : Team) (k : Nat) : Word × Word := t.windows.get (0, 0) k

def windowOf (x : Word × Word) : Window :=
  ⟨256 * fld x.1.toNat 0 11, 256 * fld x.2.toNat 8 11, fld x.2.toNat 5 3, fld x.2.toNat 0 5⟩

/-- The lowest-numbered enabled window that contains an offset. -/
def Team.windowAt (t : Team) (off : Nat) : Option Window :=
  (List.range 8).findSome? fun k =>
    let x := t.window k
    let w := windowOf x
    if bit x.2.toNat 31 && w.base ≤ off && off < w.base + w.len then some w else none

/-- The control range (R137), and the control word that an offset names: 2 k for WBASE and 2 k + 1 for WCFG of window k. -/
def inControl (ta : Nat) : Bool := 0x7FFF00 ≤ tarnOffset ta
def controlWord (ta : Nat) : Option Nat :=
  let j := (tarnOffset ta - 0x7FFF00) / 4
  if ta / 2 ^ 23 = 0 ∧ j < 16 then some j else none

/-- Reads and writes a control word; bits written to reserved fields are discarded. -/
def Team.readControl (t : Team) (j : Nat) : Word := if j % 2 = 0 then (t.window (j / 2)).1 else (t.window (j / 2)).2
def Team.writeControl (t : Team) (j : Nat) (v : Word) : Team :=
  let x := t.window (j / 2)
  { t with windows := t.windows.put (j / 2) (if j % 2 = 0 then (v &&& 0x7FF, x.2) else (x.1, v &&& 0x8007FFFF)) }

/-! ### Elements -/

/-- What an access at a Tarn address reads or writes. -/
inductive TarnSpot where
  | control (j : Nat)
  | raw (core at_ : Nat)
  | element (core at_ : Nat) (u : Units) (pos : Nat)
  deriving DecidableEq, Repr

/-- The element index of an offset in a window, when the window's FMT is typed and the index is below the capacity (R68). -/
def Window.index (w : Window) (u : Units) (off : Nat) : Nat := u.first w.len w.geom + (off - w.base) / 4

/-- The place of a window element (R67): share offset of its unit, and its position in the unit. -/
def Window.unitAt (w : Window) (u : Units) (i : Nat) : Nat × Nat := (w.base + i / u.count * u.bytes, i % u.count)

/-- Where an aligned LDT or STT at a Tarn address acts, or its cause: FMTMIX, then TARNR (R136, R147). -/
def State.tarnSpot (s : State) (core : Nat) (t : Team) (ta : Nat) : Except Cause TarnSpot :=
  let off := tarnOffset ta
  if inControl ta then
    match controlWord ta with
    | some j => .ok (.control j)
    | none => .error .tarnr
  else
    match t.windowAt off with
    | none =>
      match s.tarnPlace core t ta off 4 with
      | some (c, a) => .ok (.raw c a)
      | none => .error .tarnr
    | some w =>
      if w.fmt = 0 then
        match s.tarnPlace core t ta off 4 with
        | some (c, a) => .ok (.raw c a)
        | none => .error .tarnr
      else
        match unitsOf w.fmt with
        | none => .error .fmtmix
        | some u =>
          let i := w.index u off
          if u.capacity w.len ≤ i then .error .fmtmix
          else
            let (o, pos) := w.unitAt u i
            match s.tarnPlace core t ta o u.bytes with
            | some (c, a) => .ok (.element c a u pos)
            | none => .error .tarnr

/-- The Tarn address of LDT and STT. -/
def State.tarnAddr (s : State) (p : Nat) (before : List Code) (a : Code) (off : BitVec 8) : Nat :=
  (s.src p before a + off.signExtend 32 * 4).toNat

/-- LDT in one member (R147). -/
def ldtOne (d a : Code) (off : BitVec 8) (lead : Bool) (s : State) (p : Nat) : Except Raised State :=
  match s.lateFault p [a] with
  | some r => .error r
  | none =>
    let ta := s.tarnAddr p [] a off
    if ta % 4 ≠ 0 then .error (s.trapAt .align (word ta))
    else
      match s.tarnSpot s.myCore s.myTeam ta with
      | .error c => .error (s.trapAt c (word ta))
      | .ok (.control j) => .ok (s.writeLead lead p d (s.myTeam.readControl j))
      | .ok (.raw c at_) =>
        match (s.core c).tarnFault at_ 4 with
        | some x => .error (s.trapAt x 0)
        | none => .ok ((s.meetTarn c at_ 4).writeLead lead p d (word (leNat ((s.core c).tarnBytes at_ 4))))
      | .ok (.element c at_ u pos) =>
        match (s.core c).tarnFault at_ u.bytes with
        | some x => .error (s.trapAt x 0)
        | none =>
          .ok ((s.meetTarn c at_ u.bytes).writeLead lead p d (word (decodeTo fp32 (u.element (leNat ((s.core c).tarnBytes at_ u.bytes)) pos))))

/-- LDT (R147). -/
def execLdt (d a : Code) (o : BitVec 8) (s : State) : Host.Outcome State Fault Refusal :=
  .next (s.runUnit (.ldt d a o) 0 (eachMember (ldtOne d a o) true) )

/-- STT in one member (R147). The data's own causes follow FMTMIX and precede TARNR. Into a unit with an uncorrectable word it encodes and stores the
unit all the same, and the marks of its words go: R141 has STT raise nothing (log 20, the model's choice). -/
def sttOne (d a : Code) (off : BitVec 8) (_lead : Bool) (s : State) (p : Nat) : Except Raised State :=
  match s.lateFault p (if a = 0xFC then [d, a] else [a]) with
  | some r => .error r
  | none =>
    let ta := s.tarnAddr p [d] a off
    if ta % 4 ≠ 0 then .error (s.trapAt .align (word ta))
    else
      match s.tarnSpot s.myCore s.myTeam ta, s.lateFault p [d] with
      | .error .fmtmix, _ => .error (s.trapAt .fmtmix (word ta))
      | _, some r => .error r
      | .error c, none => .error (s.trapAt c (word ta))
      | .ok (.control j), none => .ok (s.modTeam s.me.team fun t => t.writeControl j (s.src p [] d))
      | .ok (.raw c at_), none => .ok (s.modCore c fun x => x.writeTarn at_ (leBytes (s.src p [] d).toNat 4))
      | .ok (.element c at_ u pos), none =>
        let old := leNat ((s.core c).tarnBytes at_ u.bytes)
        .ok (s.modCore c fun x => x.writeTarn at_ (leBytes (u.encode old pos [fp32.dec (s.src p [] d).toNat]) u.bytes))

/-- STT (R147). -/
def execStt (d a : Code) (o : BitVec 8) (s : State) : Host.Outcome State Fault Refusal :=
  .next (s.runUnit (.stt d a o) 0 (eachMember (sttOne d a o) true))

/-- A Tarn atomic in one member (R148): `f` gives the word to store, if any, from the old word, B and C. Of what can go wrong after FMTMIX, SOFTERR
and POISON come before the atomic's own DRAIN and TARNR (R45). -/
def tatomOne (d a b : Code) (f : Word → Word → Word → Option Word) (lead : Bool) (s : State) (p : Nat) : Except Raised State :=
  let codes := [a, b] ++ (if s.cur.vp.hasC then [s.cur.vp.c] else [])
  match s.lateFault p [a] with
  | some r => .error r
  | none =>
    let ta := (s.src p [] a).toNat
    let typed := match s.myTeam.windowAt (tarnOffset ta) with | some w => !inControl ta && w.fmt != 0 | none => false
    if ta % 4 ≠ 0 then .error (s.trapAt .align (word ta))
    else if typed then .error (s.trapAt .fmtmix (word ta))
    else
      let place := if inControl ta then none else s.tarnPlace s.myCore s.myTeam ta (tarnOffset ta) 4
      let held := place.bind fun x => ((s.core x.1).tarnFault x.2 4).map fun c => s.trapAt c 0
      match ((s.lateSoft p codes).or held).or (s.lateFault p codes), place with
      | some r, _ => .error r
      | none, none => .error (s.trapAt .tarnr (word ta))
      | none, some (c, at_) =>
        let old := word (leNat ((s.core c).tarnBytes at_ 4))
        let s := s.meetTarn c at_ 4
        let s' := match f old (s.src p [a] b) (s.src p [a, b] s.cur.vp.c) with
          | some v => s.modCore c fun x => x.writeTarn at_ (leBytes v.toNat 4)
          | none => s
        .ok (if d = 0xFC then s' else s'.writeLead lead p d old)

/-- TATOM.ADD (R148). -/
def execTatomAdd (d a b : Code) (s : State) : Host.Outcome State Fault Refusal :=
  .next (s.runUnit (.tatomAdd d a b) 0 (eachMember (tatomOne d a b fun old x _ => some (old + x)) true))

/-- TATOM.CAS (R148). -/
def execTatomCas (d a b : Code) (s : State) : Host.Outcome State Fault Refusal :=
  .next (s.runUnit (.tatomCas d a b) 0 (eachMember (tatomOne d a b fun old x c => if old = c then some x else none) true))

end Sys2Proof.Machine
end

