-- ==== Sys2Proof/Machine/Tags.lean ====
section
/-! DEFINITION. Copy tags and TCOPY (R138, R149 to R153), waits on tags (R152), PARK and YIELD (R154, R157), the issue window (R131), and
overlays (R158 to R160). -/

namespace Sys2Proof.Machine

open Sys2Proof

/-! ### TCOPY -/

/-- The registers of a group as one number, the first in the lowest bits. -/
def State.group (s : State) (p : Nat) (a : Code) : Nat → Nat
  | 0 => 0
  | n + 1 => (s.me.readCode p a).toNat + 2 ^ 32 * s.group p (a + 1) n

/-- The units of a line are marked in the L2 of a die (R141, R247). -/
def State.markL2 (s : State) (d pa : Nat) : State :=
  s.modDie d fun x => { x with l2bad := (upFrom (pa / 128 * 8) 8).foldl sortedInsert x.l2bad }

/-- One 16-byte unit of a copy moves (R151): it recalls region ownership (R384). A unit read from a marked line marks the Tarn words; one whose Tarn
words carry a mark or an uncorrectable error marks its destination line (R141). -/
def State.moveUnit (s : State) (c : TCopy) (u : Nat × Nat) : State :=
  let s := s.touchRgn c.die u.2 false
  if c.isIn then
    let data := s.viewBytes c.die u.2 16
    let bad := s.poisonedAt c.die u.2
    s.modCore c.tarnCore fun x =>
      let x := x.writeTarn u.1 data
      if bad then { x with tarnPoison := (wordsOf u.1 16).foldl sortedInsert x.tarnPoison } else x
  else
    let s := s.meetTarn c.tarnCore u.1 16
    let x := s.core c.tarnCore
    let bad := (x.tarnFault u.1 16).isSome
    let from_ : OutStore := { since := s.ref, va := c.va + (u.1 - c.tarnOff), asid := c.asid, queue := (s.launch c.launch).queue }
    let s := s.store c.die { agent := 0, pa := u.2, data := x.tarnBytes u.1 16, poisoned := bad, out := some from_ }
    if bad then s.markL2 c.die u.2 else s

/-- The units that free bits choose move now; the others stay. -/
def State.moveSome (s : State) (c : TCopy) : List (Nat × Nat) → State × List (Nat × Nat)
  | [] => (s, [])
  | u :: t =>
    let (b, s) := s.freeBit
    if b then (s.moveUnit c u).moveSome c t
    else
      let (s, rest) := s.moveSome c t
      (s, u :: rest)

/-- The units of a copy: Tarn offset and physical address. -/
def copyUnits (r : List (Nat × Nat × Nat)) (va off n : Nat) : List (Nat × Nat) :=
  (List.range n).map fun j => (off + 16 * j, rangePa r (va + 16 * j))

/-- A leaf that TCOPY may read or write (R150). -/
def copyAllows (priv isIn : Bool) (e : Nat) : Bool :=
  (if isIn then readable priv e else writable priv e) && notControl e && !pteDev e

/-- The checks and the start of a TCOPY with the lowest member's descriptor (R149, R150). The units move in any order until the tag is DONE:
free bits choose those that move at once. A copy of no bytes is checked like any other (log 52). -/
def tcopyStart (tag : Nat) (a : Code) (isIn : Bool) (s : State) (p : Nat) : Except Raised State :=
  let desc := s.group p a 4
  let len := fld desc 96 20
  let ta := fld desc 64 32
  let va := fld desc 0 64
  let d := s.myDie
  if fld desc 116 12 ≠ 0 ∨ 393216 < len then .error (s.trapAt .ill s.cur.first)
  else if va % 16 ≠ 0 then .error (s.trapAt .align (word va))
  else if ta % 16 ≠ 0 then .error (s.trapAt .align (word ta))
  else if len % 16 ≠ 0 then .error (s.trapAt .align (word len))
  else
    match s.translateRange d s.me.space (copyAllows s.me.priv isIn) va len (some s.myCore) with
    | (.error r, s) => .error (s.refusal (if isIn then .read else .write) r)
    | (.ok r, s) =>
      match s.tarnPlace s.myCore s.myTeam ta (tarnOffset ta) len with
      | none => .error (s.trapAt .tarnr (word ta))
      | some (c, off) =>
        let copy : TCopy := { tag := tag, isIn := isIn, asid := s.me.space.asid, va := va, launch := s.me.launch, die := d, tarnCore := c, tarnOff := off, len := len, units := [] }
        let setTag (x : TagState) (s : State) : State := s.modCore s.myCore fun y => { y with tags := y.tags.put tag x }
        if len = 0 then .ok (setTag .done s).settleWaits
        else
          let (s, rest) := s.moveSome copy (copyUnits r va off (len / 16))
          let s := setTag .busy s
          .ok (s.modCore s.myCore fun y => { y with copies := y.copies ++ [{ copy with units := rest }] })

/-- TCOPY: it waits in place while its tag is BUSY. -/
def tcopy (i : Instr) (tag : BitVec 6) (a : Code) (isIn : Bool) (s : State) : State :=
  s.runUnit i 0 (reading i fun s ps =>
    if (s.core s.myCore).tags.get .idle tag.toNat = .busy then { st := s.waits.hold, ok := [], raised := [] }
    else once (tcopyStart tag.toNat a isIn) s ps)

/-- TCOPY.IN (R150). -/
def execTcopyIn (t : BitVec 6) (a : Code) (s : State) : Host.Outcome State Fault Refusal := .next (tcopy (.tcopyIn t a) t a true s)

/-- TCOPY.OUT (R150). -/
def execTcopyOut (t : BitVec 6) (a : Code) (s : State) : Host.Outcome State Fault Refusal := .next (tcopy (.tcopyOut t a) t a false s)

/-- TCOPY_COMPLETE (R138): the remaining units move and the tag becomes DONE, which ends the waits that it satisfies. -/
def execTcopyComplete (core tag : Nat) (s : State) : Host.Outcome State Fault Refusal :=
  match (s.core core).copies.find? fun c => c.tag == tag with
  | none => .next s
  | some c =>
    let s := foldState (fun u s => s.moveUnit c u) c.units s
    .next (s.modCore core fun y =>
      { y with copies := y.copies.filter fun x => x.tag != tag, tags := y.tags.put tag .done }).settleWaits

/-! ### Waits on tags -/

/-- An instruction that makes the wave wait on a condition read by the lowest member; it is a latch-invalidating point (R18) unless `keep`. -/
def waitOp (i : Instr) (keep : Bool) (f : State → Nat → Wait) (s : State) : State :=
  s.runUnit i 0 (reading i (once fun s p =>
    let x := f s p
    let s := if keep then s else s.modWave s.cur.wave Wave.dropLatches
    .ok (s.beginWait s.cur.wave x (readsLatch (s.sources i p)))))

/-- WAITANY (R152). -/
def execWaitany (a : Code) (s : State) : Host.Outcome State Fault Refusal :=
  .next (waitOp (.waitany a) false (fun s p => .tags true (s.src64 p a)) s)

/-- WAITALL (R152). -/
def execWaitall (a : Code) (s : State) : Host.Outcome State Fault Refusal :=
  .next (waitOp (.waitall a) false (fun s p => .tags false (s.src64 p a)) s)

/-- TFFR (R153). -/
def execTffr (d : Code) (s : State) : Host.Outcome State Fault Refusal :=
  .next (s.runUnit (.tffr d) 0 (allDone fun s ps =>
    let c := s.core s.myCore
    s.writeEach ps d fun _ => word (((List.range 64).find? fun t => c.tags.get .idle t == .done).getD 64)))

/-- TCLR's column of R138. -/
def clearTags (mask : Word64) (tags : Tab TagState) : Tab TagState :=
  tags.filter fun t => !(t.2 == .done && mask.getLsbD t.1)

/-- TCLR (R153). -/
def execTclr (a : Code) (s : State) : Host.Outcome State Fault Refusal :=
  .next (s.runUnit (.tclr a) 0 (reading (.tclr a) (once fun s p =>
    .ok (s.modCore s.myCore fun c => { c with tags := clearTags (s.src64 p a) c.tags }))))

/-! ### PARK and YIELD -/

/-- PARK (R154): arms or disarms the wave; a latch-invalidating point. -/
def execPark (a : Code) (s : State) : Host.Outcome State Fault Refusal :=
  .next (s.runUnit (.park a) 0 (reading (.park a) (once fun s p =>
    let n := s.src p [] a
    .ok (s.modWave s.cur.wave fun w => { w.dropLatches with park := if n = 0 then none else some n }))))

/-- Whether a resident wave has a ready thread and waits on nothing. -/
def State.standsReady (s : State) (k : Nat) : Bool :=
  match s.waves.find k with
  | none => false
  | some w => s.waitDone k && !w.settleJoins.readyPositions.isEmpty

/-- The waves of a core, by key. -/
def State.wavesOf (s : State) (core : Nat) : List Nat := (s.waves.filter fun w => coreOfWave w.1 == core).map Prod.fst

/-- A wave leaves the issue window: a deschedule (R18), which ends its collector holds, its count of R201 and its shot reservation. -/
def Wave.deschedule (w : Wave) : Wave := { w.dropLatches with inWindow := false, collector := [], denied := none }
def State.deschedule (s : State) (k : Nat) : State :=
  (s.modWave k Wave.deschedule).modCore (coreOfWave k) fun c => { c with reservation := c.reservation.filter fun r => r.1 != k }

/-- YIELD's effect (R157). -/
def yieldOp (i : Instr) (s : State) : State :=
  s.runUnit i 0 (allDone fun s _ =>
    let outside := (s.wavesOf s.myCore).filter fun k => !(s.wave k).inWindow && s.standsReady k
    (s.deschedule s.cur.wave).modWave s.cur.wave fun w => { w with yieldTo := outside.map fun k => (s.wave k).uid })

/-- YIELD (R157). -/
def execYield (s : State) : Host.Outcome State Fault Refusal := .next (yieldOp .yield s)

/-- YIELD in the C16 form (R32). -/
def execC16Yield (s : State) : Host.Outcome State Fault Refusal := .next (yieldOp .c16Yield s)

/-- A wave may enter the window as far as its own YIELD decides: every wave it let pass has entered once, or is gone (R157). -/
def State.yieldOver (s : State) (core k : Nat) : Bool :=
  (s.wave k).yieldTo.all fun u => !(s.wavesOf core).any fun j => (s.wave j).uid == u

/-- The first of some waves that cannot issue now. Whether the next unit of a wave that nothing shows to wait can issue is left to timing: a free bit
for each (log 1). -/
def State.firstStalled (s : State) : List Nat → Option Nat × State
  | [] => (none, s)
  | k :: t =>
    if (s.wave k).holdSince.isSome || s.outstanding (s.wave k).uid || !s.standsReady k then (some k, s)
    else
      let (b, s) := s.freeBit
      if b then (some k, s) else s.firstStalled t

/-- The waves in the window of a core. -/
def State.windowOf (s : State) (core : Nat) : List Nat := (s.wavesOf core).filter fun k => (s.wave k).inWindow

/-- The wave that leaves a full window: class 1 before class 2, the latest admission first (R131). Of waves with one admission the lower slot goes first,
which is the model's choice, here and where they enter (log 28). -/
noncomputable def State.leaver (s : State) (core : Nat) : Option Nat × State :=
  let latest := sortBy (fun k => s.clock - (s.wave k).admitted) (s.windowOf core)
  match latest.find? fun k => (s.wave k).coldWait with
  | some k => (some k, s)
  | none => s.firstStalled (latest.filter s.stallBoundary)

/-- A wave enters the window, which counts as its turn for the waves that yielded to it. It may issue from the next clk. -/
def State.enterWindow (s : State) (k : Nat) : State :=
  let u := (s.wave k).uid
  let s := foldState (fun j s => s.modWave j fun w => { w with yieldTo := w.yieldTo.filter (· != u) }) (s.wavesOf (coreOfWave k)) s
  s.modWave k fun w => { w with inWindow := true, nextClk := s.clock + 1, yieldTo := [] }

/-- The resident ready wave outside the window that enters next: the one with the earliest admission (R131). -/
def State.nextOutside (s : State) (core : Nat) : Option Nat :=
  argMin (fun k => (s.wave k).admitted)
    ((s.wavesOf core).filter fun k => !(s.wave k).inWindow && s.standsReady k && s.yieldOver core k)

/-- Free places of a core's window are taken. `fuel` bounds the places. -/
def State.fillWindow (s : State) (core : Nat) : Nat → State
  | 0 => s
  | fuel + 1 =>
    match s.nextOutside core with
    | some k => if (s.windowOf core).length < 8 then (s.enterWindow k).fillWindow core fuel else s
    | none => s

/-- Free places in the windows of all cores are taken (R131). -/
def State.fillWindows (s : State) : State :=
  foldState (fun w s => if w.2.inWindow then s else s.fillWindow (coreOfWave w.1) 8) s.waves s

/-- WINDOW_ENTER (R131): the resident ready wave with the earliest admission enters a free place, or displaces an eligible wave. -/
noncomputable def execWindowEnter (wave : Nat) (s : State) : Host.Outcome State Fault Refusal :=
  let core := coreOfWave wave
  if s.nextOutside core != some wave then .next s
  else if (s.windowOf core).length < 8 then .next (s.enterWindow wave)
  else
    match s.leaver core with
    | (some k, s) => .next ((s.deschedule k).enterWindow wave)
    | (none, s) => .next s

/-! ### Overlays -/

/-- The copy of an object on a die (R432). -/
def State.objCopy (s : State) (d obj : Nat) : ObjCopy := (s.die d).objs.get {} obj

/-- The overlay-table entry of an overlay (R158): valid, image address, image length. -/
def ovlEntry (e : Word64) : Option (Nat × Nat) :=
  let n := e.toNat
  if bit n 63 then some (fld n 8 49 * 256, (fld n 0 8 + 1) * 256) else none

/-- The load of overlay n of an object: its pages, translated (R159, R432). An image page must be executable and readable; a table page
readable. -/
def State.planLoad (s : State) (d : Nat) (sp : Space) (priv : Bool) (obj n : Nat) (va len : Nat) (core : Option Nat := none) :
    Except Refused OvlLoad × State :=
  let c := s.objCopy d obj
  let ntab := if (c.tabaddr.get 0 n).toNat = 0 then 0 else c.ntab.get 0 n
  let tva := (c.tabaddr.get 0 n).toNat
  match s.translateRange d sp (fun _ => true) va len core with
  | (.error r, s) => (.error r, s)
  | (.ok m, s) =>
    match s.translateRange d sp (fun _ => true) tva (72 * ntab) core with
    | (.error r, s) => (.error r, s)
    | (.ok tm, s) =>
      match m.find? (fun x => !(pteX x.2.2 && readable priv x.2.2 && notControl x.2.2)),
          tm.find? (fun x => !(readable priv x.2.2 && notControl x.2.2)) with
      | some x, _ => (.error (.prot x.1), s)
      | none, some x => (.error (.prot x.1), s)
      | none, none => (.ok { asid := sp.asid, obj := obj, n := n, va := va, len := len, map := m, tabVa := tva, ntab := ntab, tabMap := tm }, s)

/-- Bytes of a translated range in die d's order, decoded through RGN pages (R384). -/
def State.rangeBytes (s : State) (d : Nat) (m : List (Nat × Nat × Nat)) (va len : Nat) : List Byte :=
  (upFrom va len).map fun a => s.seenByte d (rangeLeaf m a) (rangePa m a)

/-- A target table from its 72 bytes (R51). -/
def parseTable (bs : List Byte) : TargetTable :=
  { entries := (List.range (field bs 0 1)).map fun j => word (field bs (8 + 4 * j) 4), join := word (field bs 4 4) }

/-- The non-zero bytes of an image by offset. -/
def sparse (at_ : Nat) : List Byte → Tab Byte
  | [] => []
  | b :: t => if b = 0 then sparse (at_ + 1) t else (at_, b) :: sparse (at_ + 1) t

/-- The slot that a completed load leaves (R159). -/
def State.loadedSlot (s : State) (d : Nat) (l : OvlLoad) : Ovl :=
  { st := .resident, obj := l.obj, n := l.n
    code := sparse 0 (s.rangeBytes d l.map l.va l.len)
    tables := (List.range l.ntab).map fun j => parseTable (s.rangeBytes d l.tabMap (l.tabVa + 72 * j) 72) }

/-- OVL.LOAD's effect once per issue (R159, R160). -/
def ovlLoadStart (n : Nat) (slot : Nat) (s : State) (_p : Nat) : Except Raised State :=
  let w := s.me
  let d := s.myDie
  match ovlEntry ((s.objCopy d w.obj).ovltab.get 0 n) with
  | none => .error (s.trapAt .ovlmiss (word n))
  | some (va, len) =>
    match s.planLoad d w.space w.priv w.obj n va len (some s.myCore) with
    | (.error r, s) => .error (s.refusal .exec r)
    | (.ok l, s) =>
      let o := (s.core s.myCore).slot slot
      if o.st = .resident ∧ o.obj = w.obj ∧ o.n = n then .ok s
      else .ok (s.modCore s.myCore fun c => c.setSlot slot { st := .loading, pend := some l })

/-- OVL.LOAD (R159). -/
def execOvlLoad (n : BitVec 4) (s' : BitVec 1) (s : State) : Host.Outcome State Fault Refusal :=
  .next (s.runUnit (.ovlLoad n s') 0 (once (ovlLoadStart n.toNat s'.toNat)))

/-- Reserved bits of the entry that OVL.LOAD.TAB writes, which raise ILL before PRIV (R45, R159). -/
def State.tabIll (s : State) (a : Code) (_p : Nat) : Option Raised :=
  match s.cur.group.find? fun q => s.readsFreely q (pairCodes a) with
  | some q => if fld (s.src64 q a).toNat 57 6 ≠ 0 then some (s.trapAt .ill s.cur.first) else none
  | none => none

/-- OVL.LOAD.TAB (R159). -/
def execOvlLoadTab (n : BitVec 4) (a : Code) (s : State) : Host.Outcome State Fault Refusal :=
  .next (s.runWith (.ovlLoadTab n a) (s.tabIll a) (fun _ => none) 0 (reading (.ovlLoadTab n a) (once fun s p =>
    let v := s.src64 p a
    if fld v.toNat 57 6 ≠ 0 then .error (s.trapAt .ill s.cur.first)
    else
      let obj := s.me.obj
      .ok (s.modDie s.myDie fun x =>
        { x with objs := x.objs.put obj { s.objCopy s.myDie obj with ovltab := (s.objCopy s.myDie obj).ovltab.put n.toNat v } }))))

/-- OVL.WAIT (R160): waits in place while a load into the slot is pending. -/
def execOvlWait (s' : BitVec 1) (s : State) : Host.Outcome State Fault Refusal :=
  .next (s.runUnit (.ovlWait s') 0 fun s ps =>
    if ((s.core s.myCore).slot s'.toNat).st = .loading then { st := s.waits.hold, ok := [], raised := [] }
    else { st := s, ok := ps, raised := [] })

/-- OVL_LOAD_COMPLETE (R159): the copy completes and the slot is RESIDENT. -/
def execOvlLoadComplete (core slot : Nat) (s : State) : Host.Outcome State Fault Refusal :=
  match ((s.core core).slot slot).pend with
  | none => .next s
  | some l => .next (s.modCore core fun c => c.setSlot slot (s.loadedSlot (dieOfCore core) l))

end Sys2Proof.Machine
end

