-- ==== Sys2Proof/Machine/Cluster.lean ====
section
/-! DEFINITION. The cluster (09_cluster.md, 10_cluster_instructions.md): vertical FIFOs, named barriers, the shot ring and the upper-tier gate. -/

namespace Sys2Proof.Machine

open Sys2Proof

/-- VF.* and GATE.* have no meaning on a geometry die (R186, R211). -/
def State.geometryIll (s : State) (_p : Nat) : Option Raised :=
  if s.kindOf s.myDie = .geometry then some (s.trapAt .ill s.cur.first) else none

/-- The frame of VF.* and GATE.*. -/
def State.runShading (s : State) (i : Instr) (busy : List Nat → Option State) (body : State → List Nat → Done) : State :=
  s.runWith i s.geometryIll busy 0 body

/-! ### Vertical FIFOs (R192 to R194, R213 to R215) -/

/-- The key of FIFO f of the issuing core's pair. -/
def State.fifoKey (s : State) (f : Nat) : Nat := 2 * pairOfCore s.myCore + f

/-- The entries of a FIFO at the start of this clk, and the pops in it so far (R215). -/
def Cluster.fifoStart (c : Cluster) (key clock : Nat) : Nat × Nat :=
  match c.fifoClk.find key with
  | some (t, n, pops) => if t = clock then (n, pops) else ((c.fifos.get [] key).length, 0)
  | none => ((c.fifos.get [] key).length, 0)

/-- A FIFO has other entries after some more pops; what stood at the start of the clk is kept. -/
def Cluster.putFifo (c : Cluster) (key clock pops : Nat) (l : List FifoEntry) : Cluster :=
  let (n, k) := c.fifoStart key clock
  { c with fifos := c.fifos.put key l, fifoClk := c.fifoClk.put key (clock, n, k + pops) }

/-- The entries of FIFO f of the issuing core's pair, oldest first. -/
def State.fifo (s : State) (f : Nat) : List FifoEntry := (s.cluster s.myCluster).fifos.get [] (s.fifoKey f)

/-- Changes FIFO f of the issuing core's pair, with so many pops. -/
def State.setFifo (s : State) (f pops : Nat) (l : List FifoEntry) : State :=
  s.modCluster s.myCluster fun c => c.putFifo (s.fifoKey f) s.clock pops l

/-- FIFO f has an entry to pop in this clk: an entry of this clk's push is not delivered before the next (R215). -/
def State.popReady (s : State) (f : Nat) : Bool :=
  let (n, pops) := (s.cluster s.myCluster).fifoStart (s.fifoKey f) s.clock
  pops < n && !(s.fifo f).isEmpty

/-- The single-bit error in the entry of FIFO f that stands first is corrected (R141). -/
def State.meetFifo (s : State) (f : Nat) : State :=
  let key := s.fifoKey f
  s.meetSites fun x =>
    match x with
    | .fifoEntry cl g i => cl == s.myCluster && g == key && i == 0
    | .register _ _ _ | .slotState _ | .tarnWord _ _ | .accElement _ _ _ _ | .codeSlot _ _ | .barrier _ | .channel _ _ | .reservoir _
    | .l2Line _ _ | .llcLine _ | .directory _ | .watchEntry _ | .rayQuery _ | .builderState _ => false

/-- The wave's team holds its pair's FIFOs (R193). -/
def State.holdsFifos (s : State) : Bool :=
  (s.cluster s.myCluster).fifoOwner.find (pairOfCore s.myCore) == some s.me.team

/-- FIFO 0 is pushed from tier 0 and popped from tier 1, FIFO 1 the other way (R192). -/
def State.pushes (s : State) (f : Nat) : Bool := tierOfCore s.myCore == f
def State.pops (s : State) (f : Nat) : Bool := tierOfCore s.myCore != f

/-- VF.PUSH (R213): the entry holds the members' values; a member without an active drain keeps the push from taking place. FIFO is due in every
member that SOFTERR does not stop (R45, R193). -/
def execVfPush (f : BitVec 1) (a : Code) (s : State) : Host.Outcome State Fault Refusal :=
  let i := Instr.vfPush f a
  let n := f.toNat
  .next (s.runShading i
    (fun _ => if s.holdsFifos && s.pushes n && 16 ≤ (s.fifo n).length then some s.waits else none)
    fun s ps =>
      if !s.holdsFifos || !s.pushes n then
        let (ok, rs) := splitFront (fun p => s.lateSoft p (s.sources i p)) ps
        { st := s, ok := [], raised := rs ++ raiseAll ok (s.trapAt .fifo (word n)) }
      else
        let (ok, rs) := s.readSplit i ps
        if rs.any fun r => (match r.2 with | .trap .drain _ _ => true | _ => false) then { st := s, ok := [], raised := rs }
        else if ok.isEmpty then { st := s, ok := [], raised := rs }
        else
          let w := s.me
          let e : FifoEntry := { width := w.width, vals := (List.range w.width).map fun p => if ok.contains p then s.src p [] a else 0 }
          { st := s.setFifo n 0 (s.fifo n ++ [e]), ok := ok, raised := rs })

/-- VF.POP (R213): the oldest entry leaves, and each member receives the value of its position. -/
def execVfPop (d : Code) (f : BitVec 1) (s : State) : Host.Outcome State Fault Refusal :=
  let n := f.toNat
  .next (s.runShading (.vfPop d f)
    (fun _ => if s.holdsFifos && s.pops n && !s.popReady n then some s.waits else none)
    fun s ps =>
      if !s.holdsFifos || !s.pops n then { st := s, ok := [], raised := raiseAll ps (s.trapAt .fifo (word n)) }
      else
        match s.fifo n with
        | [] => { st := s, ok := [], raised := [] }
        | e :: rest =>
          let hit := ps.filter fun p => e.bad && p < e.width
          let ok := ps.filter fun p => !hit.contains p
          let s := (s.meetFifo n).setFifo n 1 rest
          { st := s.writeEach ok d fun p => e.vals.getD p 0, ok := ok, raised := raiseAll hit (s.trapAt .softerr 0) })

/-- VF.FREE (R214): the count from before the pushes and pops of its clk (R215). -/
def execVfFree (d : Code) (f : BitVec 1) (s : State) : Host.Outcome State Fault Refusal :=
  let n := f.toNat
  .next (s.runShading (.vfFree d f) (fun _ => none) fun s ps =>
    if !s.holdsFifos then { st := s, ok := [], raised := raiseAll ps (s.trapAt .fifo (word n)) }
    else allDone (fun s ps => s.writeEach ps d fun _ => word (16 - ((s.cluster s.myCluster).fifoStart (s.fifoKey n) s.clock).1)) s ps)

/-! ### Named barriers (R189 to R191, R216, R217) -/

/-- Some wave of a team waits on a barrier, in its slot or parked. -/
def State.barrierWaited (s : State) (t b : Nat) : Bool :=
  let on (x : Wait) : Bool := x.onBarrier b && !s.waitOver 0 t x
  (s.waves.any fun w => w.2.team == t && w.2.wait.any on) || s.parked.any fun p => p.2.team == t && !p.2.ready && on p.2.wait

/-- BARRIER in every member, with the barrier's number. -/
def State.barrierCause (s : State) (b : Nat) : Raised := s.trapAt .barrier (word b)

/-- Changes a barrier of the issuing wave's team; a phase that completes ends the waits that it satisfies. -/
def State.setMyBarrier (s : State) (b : Nat) (x : Barrier) : State := (s.modTeam s.me.team fun t => t.setBarrier b x).settleWaits

/-- BAR.INIT (R190). -/
def execBarInit (n : BitVec 4) (a : Code) (s : State) : Host.Outcome State Fault Refusal :=
  .next (s.runUnit (.barInit n a) 0 (reading (.barInit n a) (once fun s p =>
    let b := n.toNat
    let k := (s.src p [] a).toNat
    let x := s.myTeam.barrier b
    if k = 0 ∨ 4095 < k ∨ x.left ≠ x.exp ∨ s.barrierWaited s.me.team b then .error (s.barrierCause b)
    else .ok (s.setMyBarrier b { x with exp := k, left := k, part := [], token := [] }))))

/-- BAR.EXPECT (R190). -/
def execBarExpect (n : BitVec 4) (a : Code) (s : State) : Host.Outcome State Fault Refusal :=
  .next (s.runUnit (.barExpect n a) 0 (reading (.barExpect n a) (once fun s p =>
    let b := n.toNat
    let k := (s.src p [] a).toNat
    let x := s.myTeam.barrier b
    if 65535 < k ∨ x.exp = 0 ∨ 65535 < x.left + k then .error (s.barrierCause b)
    else .ok (s.setMyBarrier b { x with left := x.left + k }))))

/-- BAR.ARRIVE (R190). -/
def execBarArrive (n : BitVec 4) (s : State) : Host.Outcome State Fault Refusal :=
  .next (s.runUnit (.barArrive n) 0 (once fun s _ =>
    let x := s.myTeam.barrier n.toNat
    if x.exp = 0 then .error (s.barrierCause n.toNat) else .ok (s.setMyBarrier n.toNat (x.arriveWave s.me.wid))))

/-- The phase that a wave waits for: its TOKEN's, or the end of the current one when it has not arrived (R191). -/
def Barrier.targetOf (x : Barrier) (wid : Nat) : BitVec 32 := if x.part.contains wid then x.token.get 0 wid else x.phase + 1

/-- The wait of BAR.WAIT and BAR.SYNC, a latch-invalidating point (R18, R217). -/
def State.barrierWait (s : State) (b : Nat) : State :=
  let target := (s.myTeam.barrier b).targetOf s.me.wid
  (s.modWave s.cur.wave Wave.dropLatches).beginWait s.cur.wave (.barrier b target)

/-- BAR.WAIT (R191). -/
def execBarWait (n : BitVec 4) (s : State) : Host.Outcome State Fault Refusal :=
  .next (s.runUnit (.barWait n) 0 (once fun s _ =>
    if (s.myTeam.barrier n.toNat).exp = 0 then .error (s.barrierCause n.toNat) else .ok (s.barrierWait n.toNat)))

/-- BAR.SYNC (R191): an arrival and then the wait. -/
def execBarSync (n : BitVec 4) (s : State) : Host.Outcome State Fault Refusal :=
  .next (s.runUnit (.barSync n) 0 (once fun s _ =>
    let x := s.myTeam.barrier n.toNat
    if x.exp = 0 then .error (s.barrierCause n.toNat)
    else .ok ((s.setMyBarrier n.toNat (x.arriveWave s.me.wid)).barrierWait n.toNat)))

/-! ### The shot ring (R200, R201) -/

/-- RATE of a cluster in shots per µs, never below 48 (R202, R393). -/
def State.rate (s : State) (cl : Nat) : Nat := min 16384 (max 48 (s.weir.rate.get (Config.rateDefault cl) cl))

/-- The ISO gangs of a cluster, with their shot shares (R267). -/
def State.isoShares (s : State) (cl : Nat) : List (Nat × Nat) :=
  (s.launches.filter fun l => l.2.phase == .running && bit l.2.rcd.flags 2 && l.2.cluster == cl).map fun l => (l.1, fld l.2.rcd.isores 0 8)

/-- The reservoir gains RATE ÷ 100 shots for each reference period since its last gain (R200); shares of it go to the ISO gangs instead (R267).
Fractions are kept in 1 ÷ 25,600 of a shot; a gang's undelivered share is kept up to 256 shots. -/
def State.fillReservoir (s : State) (cl : Nat) : State :=
  let shares := s.isoShares cl
  let gain := s.rate cl * (s.ref - (s.cluster cl).lastFill)
  s.modCluster cl fun c =>
    let total := c.frac + gain * (256 - (shares.map Prod.snd).sum)
    { c with
      reservoir := min 256 (c.reservoir + total / 25600), frac := total % 25600, lastFill := s.ref
      isoCredit := shares.map fun x => (x.1, min (256 * 25600) (c.isoCredit.get 0 x.1 + gain * x.2)) }

/-- SHOT_RESERVOIR_FILL (R200). -/
def execShotReservoirFill (cl : Nat) (s : State) : Host.Outcome State Fault Refusal := .next (s.fillReservoir cl)

/-- The core of a cluster that holds the oldest reservation, the lower core first. -/
def State.oldestReservation (s : State) (cl : Nat) : Option (Nat × Nat × Nat) :=
  argMin (fun x => x.2.2) ((upFrom (8 * cl) 8).filterMap fun k => (s.core k).reservation.map fun r => (k, r))

/-- The gate of a core's pair has removed its power (R205, R206): shots are not delivered to it. -/
def State.unpowered (s : State) (core : Nat) : Bool :=
  tierOfCore core == 1 && (match ((s.cluster (clusterOfCore core)).gates.get {} (pairOfCore core)).st with
    | .hold | .gated | .wakeq | .ramp => true
    | .on | .drain => false)

/-- Moves shots from the reservoir to a pocket. -/
def State.deliverShots (s : State) (cl core n : Nat) : State :=
  (s.modCluster cl fun c => { c with reservoir := c.reservoir - n }).modCore core fun c => { c with pocket := c.pocket + n }

/-- What the ring delivers to the visited core under R200: to the oldest reservation's core alone, else a refill. -/
def State.ringDelivery (s : State) (cl core : Nat) : Nat :=
  let have_ := (s.cluster cl).reservoir
  let pocket := (s.core core).pocket
  match s.oldestReservation cl with
  | some (k, w, _) => if k = core then min have_ (((s.wave w).denied.map fun d => d.2.2).getD 0 - pocket) else 0
  | none => min have_ (32 - pocket)

/-- The shots that ISO gangs with a wave on the visited core receive first (R267). -/
def State.isoDelivery (s : State) (cl core : Nat) : State :=
  foldState (fun x s =>
    if (s.waves.any fun w => coreOfWave w.1 == core && w.2.launch == x.1) then
      let n := min ((s.cluster cl).isoCredit.get 0 x.1 / 25600) (32 - (s.core core).pocket)
      (s.modCluster cl fun c => { c with isoCredit := c.isoCredit.put x.1 (c.isoCredit.get 0 x.1 - 25600 * n) }).modCore core
        fun c => { c with pocket := c.pocket + n }
    else s) (s.isoShares cl) s

/-- SHOT_RING_VISIT (R200): once a clk, to core CLOCK mod 8. -/
def execShotRingVisit (cl : Nat) (s : State) : Host.Outcome State Fault Refusal :=
  let core := 8 * cl + s.clock % 8
  if (s.cluster cl).visited = some s.clock then .next s
  else
    let s := s.modCluster cl fun c => { c with visited := some s.clock }
    if s.unpowered core then .next s
    else
      let s := s.isoDelivery cl core
      .next (s.deliverShots cl core (s.ringDelivery cl core))

/-- A wave has been denied on shots alone for 256 consecutive clk up to this one or the last (R201). -/
def State.longDenied (s : State) (k : Nat) : Bool :=
  match s.waves.find k with
  | some w => w.inWindow && (match w.denied with | some (t, u, _) => decide (t + 255 ≤ u) && decide (s.clock ≤ u + 1) | none => false)
  | none => false

/-- The wave with the earliest admission among those that qualify places the core's reservation (R201). -/
def State.placeReservation (s : State) (core : Nat) : State :=
  match (s.core core).reservation, argMin (fun k => (s.wave k).admitted) ((s.wavesOf core).filter s.longDenied) with
  | none, some k => s.modCore core fun c => { c with reservation := some (k, s.clock) }
  | _, _ => s

/-- SHOT_RESERVATION (R201). -/
def execShotReservation (wave : Nat) (s : State) : Host.Outcome State Fault Refusal := .next (s.placeReservation (coreOfWave wave))

/-! ### The upper-tier gate (R205 to R210, R223 to R225) -/

def State.gate (s : State) (cl pair : Nat) : Gate := (s.cluster cl).gates.get {} pair
def State.setGate (s : State) (cl pair : Nat) (g : Gate) : State :=
  s.modCluster cl fun c => { c with gates := c.gates.put pair g }

/-- The key of a pair's upper core. -/
def upperCore (cl pair : Nat) : Nat := 8 * cl + 2 * pair + 1

/-- Entries in a pair's up FIFO. -/
def State.upCount (s : State) (cl pair : Nat) : Nat := ((s.cluster cl).fifos.get [] (2 * pair)).length

/-- UPW of R225: a wave resident on the upper core, a parked wave with a Tarn share there, or a BUSY tag. -/
def State.upWork (s : State) (cl pair : Nat) : Bool :=
  let u := upperCore cl pair
  (s.waves.any fun w => coreOfWave w.1 == u)
    || (s.parked.any fun p => let t := s.team p.2.team; t.tarnLen != 0 && t.cores.contains u)
    || (s.core u).tags.any fun t => t.2 == .busy

/-- Cores of a cluster in RAMP or WAKEQ. -/
def State.waking (s : State) (cl : Nat) : List (Nat × Gate) :=
  (s.cluster cl).gates.filter fun g => g.2.st == .ramp || g.2.st == .wakeq

/-- The places k of the cores that enter WAKEQ in this clk: behind every core already there, the lower pair first (R207). -/
def State.settlePlaces (s : State) (cl : Nat) : State :=
  let fresh (g : Gate) : Bool := g.st == .wakeq && g.clk == s.clock
  let l := s.waking cl
  let place (pair : Nat) : Nat := 1 + (l.filter fun g => !fresh g.2 || g.1 < pair).length
  s.modCluster cl fun c => { c with gates := c.gates.map fun g => if fresh g.2 then (g.1, { g.2 with qpos := place g.1 }) else g }

/-- A gate enters WAKEQ. -/
def State.enterWakeq (s : State) (cl pair : Nat) (wakeAt : Nat) : State :=
  (s.setGate cl pair { s.gate cl pair with st := .wakeq, since := s.ref, clk := s.clock, pend := false, wakeAt := wakeAt }).settlePlaces cl

/-- An event of a gate may be applied in this clk at a place in the order of R224: 0 to 7 for an instruction of core c, 8 for a wake of the MC, 9 for
an advance. What comes too late in a clk for its place falls in the next. -/
def Gate.open_ (g : Gate) (clock rank : Nat) : Bool := g.evClk != clock || g.evRank ≤ rank

/-- A gate's last event is the one at that place in this clk. -/
def State.stampGate (s : State) (cl pair rank : Nat) : State :=
  s.setGate cl pair { s.gate cl pair with evClk := s.clock, evRank := rank }

/-- A wake (R205, R223). A FAILED core takes none (R210). -/
def State.wakeGate (s : State) (cl pair : Nat) : State :=
  let g := s.gate cl pair
  if g.failed then s
  else
    match g.st with
    | .drain => s.setGate cl pair { g with st := .on }
    | .hold => if g.pend then s else s.setGate cl pair { g with pend := true, wakeAt := s.ref }
    | .gated => s.enterWakeq cl pair s.ref
    | .on | .wakeq | .ramp => s

/-- A gating request (R205, R223). -/
def State.requestGate (s : State) (cl pair : Nat) : State :=
  let g := s.gate cl pair
  if !g.failed ∧ g.st = .on then s.setGate cl pair { g with st := .drain, since := s.ref, clk := s.clock } else s

/-- GATE.REQ and GATE.WAKE: an event of the gate at the place of the issuing core (R223, R224). -/
def State.gateEvent (s : State) (i : Instr) (pair : Nat) (f : State → State) : State :=
  let rank := s.myCore % 8
  s.runShading i (fun _ => if (s.gate s.myCluster pair).open_ s.clock rank then none else some s)
    (allDone fun s _ => (f s).stampGate s.myCluster pair rank)

/-- GATE.REQ (R223). -/
def execGateReq (p : BitVec 2) (s : State) : Host.Outcome State Fault Refusal :=
  .next (s.gateEvent (.gateReq p) p.toNat fun s => s.requestGate s.myCluster p.toNat)

/-- GATE.WAKE (R223). -/
def execGateWake (p : BitVec 2) (s : State) : Host.Outcome State Fault Refusal :=
  .next (s.gateEvent (.gateWake p) p.toNat fun s => s.wakeGate s.myCluster p.toNat)

/-- GATE_MC_WAKE (R224). -/
def execGateMcWake (cl pair : Nat) (s : State) : Host.Outcome State Fault Refusal :=
  if (s.gate cl pair).open_ s.clock 8 then .next ((s.wakeGate cl pair).stampGate cl pair 8) else .next s

/-- DRAIN ends where its conditions hold: power is removed and HOLD begins (R205, R206). -/
def State.drainGate (s : State) (cl pair : Nat) : State :=
  let g := s.gate cl pair
  if g.st = .drain ∧ s.upCount cl pair = 0 ∧ !s.upWork cl pair then
    s.setGate cl pair { g with st := .hold, since := s.ref, clk := s.clock, pend := false, evClk := s.clock, evRank := 9 }
  else s

/-- HOLD ends 4 µs after it began (R205). -/
def State.endHold (s : State) (cl pair : Nat) : State :=
  let g := s.gate cl pair
  if g.st = .hold ∧ g.since + 400 ≤ s.ref then
    (if g.pend then s.enterWakeq cl pair g.wakeAt else s.setGate cl pair { g with st := .gated, since := s.ref, clk := s.clock }).stampGate cl pair 9
  else s

/-- The first core of a cluster's wake order: the earliest to enter WAKEQ, the lower pair first (R207). -/
def State.firstWaking (s : State) (cl : Nat) : Option Nat :=
  (argMin (fun g => g.2.clk) ((s.cluster cl).gates.filter fun g => g.2.st == .wakeq)).map Prod.fst

/-- RAMP begins where the core is first in the wake order and one of the cluster's two in-rush slots is free (R207). Whether the ramp will reach ON
is the hardware's: a free bit (R210, log 1). -/
def State.startRamp (s : State) (cl pair : Nat) : State :=
  let ramps := ((s.cluster cl).gates.filter fun g => g.2.st == .ramp).length
  if s.firstWaking cl = some pair ∧ ramps < 2 then
    let (stuck, s) := s.freeBit
    (s.setGate cl pair { s.gate cl pair with st := .ramp, since := s.ref, clk := s.clock, stuck := stuck }).stampGate cl pair 9
  else s

/-- 2.5 µs after RAMP began, and within 9 µs of its wake, the upper core is ON with every part of it as R208 says. -/
def State.endRamp (s : State) (cl pair : Nat) : State :=
  let g := s.gate cl pair
  if g.st = .ramp ∧ !g.stuck ∧ g.since + 250 ≤ s.ref ∧ s.ref ≤ g.wakeAt + 900 then
    ((s.setGate cl pair { clk := s.clock, since := s.ref }).stampGate cl pair 9).setCore (upperCore cl pair) {}
  else s

/-- A ramp that has not reached ON within 9 µs of the wake fails, and the MC logs it (R210). -/
def State.failRamp (s : State) (cl pair : Nat) : State :=
  let g := s.gate cl pair
  if g.st = .ramp ∧ (g.stuck ∧ g.wakeAt + 900 ≤ s.ref ∨ g.wakeAt + 900 < s.ref) then
    ((s.setGate cl pair { st := .gated, since := s.ref, clk := s.clock, failed := true }).stampGate cl pair 9).logMc (.gateFailed cl pair)
  else s

/-- GATE_DRAIN_DONE (R205). -/
def execGateDrainDone (cl pair : Nat) (s : State) : Host.Outcome State Fault Refusal := .next (s.drainGate cl pair)

/-- GATE_HOLD_END (R205). -/
def execGateHoldEnd (cl pair : Nat) (s : State) : Host.Outcome State Fault Refusal := .next (s.endHold cl pair)

/-- GATE_RAMP_START (R207). -/
def execGateRampStart (cl pair : Nat) (s : State) : Host.Outcome State Fault Refusal := .next (s.startRamp cl pair)

/-- GATE_RAMP_DONE (R208). -/
def execGateRampDone (cl pair : Nat) (s : State) : Host.Outcome State Fault Refusal := .next (s.endRamp cl pair)

/-- GATE_RAMP_FAIL (R210). -/
def execGateRampFail (cl pair : Nat) (s : State) : Host.Outcome State Fault Refusal := .next (s.failRamp cl pair)

/-- The state advances of a cluster's gates at the end of a clk, which R205 tests continuously (R206, R224): what frees an in-rush slot or a place in
the wake order comes before what takes it. -/
def State.advanceGates (s : State) (cl : Nat) : State :=
  let pairs := ((s.cluster cl).gates.filter fun g => g.2.st != .on && g.2.st != .gated).map Prod.fst
  let s := foldState (fun p s => (((s.drainGate cl p).endHold cl p).endRamp cl p).failRamp cl p) pairs s
  foldState (fun p s => (s.startRamp cl p)) (pairs ++ pairs) s

/-- GATE.STAT's word (R225). -/
def State.gateWord (s : State) (cl pair : Nat) : Word :=
  let g := s.gate cl pair
  let (num, total) : Nat × Nat := match g.st with
    | .on => (0, 0) | .drain => (1, 0) | .hold => (2, 400) | .gated => (3, 0) | .wakeq => (4, 0) | .ramp => (5, 250)
  let queued := g.st == .wakeq || g.st == .ramp
  word (num + 8 * ofBool g.pend + 16 * ofBool g.failed + 2 ^ 8 * s.upCount cl pair + 2 ^ 13 * ofBool (s.upWork cl pair)
    + 2 ^ 16 * ceilDiv (total - (s.ref - g.since)) 10 + 2 ^ 24 * (if queued then g.qpos else 0))

/-- GATE.STAT's word after every event of the clk up to now: a DRAIN whose conditions hold has advanced (R225). -/
def State.gateNow (s : State) (cl pair : Nat) : Word := (s.drainGate cl pair).gateWord cl pair

/-- GATE.STAT (R225): the value is read again at the end of the clk, after the clk's later events. -/
def execGateStat (d : Code) (p : BitVec 2) (s : State) : Host.Outcome State Fault Refusal :=
  .next (s.runShading (.gateStat d p) (fun _ => none) (allDone fun s ps =>
    let r : StatRead := { wave := s.cur.wave, uid := s.me.uid, ps := ps, code := d, pair := p.toNat }
    let s := s.writeEach ps d fun _ => s.gateNow s.myCluster p.toNat
    s.modCluster s.myCluster fun c => { c with statReads := c.statReads ++ [r] }))

/-- The GATE.STATs of a cluster's waves in this clk have their values, and are over. -/
def State.endStatReads (s : State) (cl : Nat) : State :=
  let s' := foldState (fun r s =>
    if (s.wave r.wave).uid = r.uid then
      s.modWave r.wave fun w => r.ps.foldl (fun w p => if isW r.code && r.ps.head? != some p then w else w.writeCode p r.code (s.gateNow cl r.pair)) w
    else s) (s.cluster cl).statReads s
  if (s.cluster cl).statReads.isEmpty then s else s'.modCluster cl fun c => { c with statReads := [] }

end Sys2Proof.Machine
end

