-- ==== Sys2Proof/Machine/Flags.lean ====
section
/-! DEFINITION. The relations of the compares (R84, R87, R90), the operations on predicates (R124), and writing a predicate in every member. The
predicates M1 to M7 are this machine's flags (R13, R14). -/

namespace Sys2Proof.Machine

open Sys2Proof

/-- Integer relations (R84). -/
def icmpLt (a b : Word) : Bool := decide (a.toInt < b.toInt)
def icmpLe (a b : Word) : Bool := decide (a.toInt ≤ b.toInt)
def icmpLtu (a b : Word) : Bool := decide (a.toNat < b.toNat)
def icmpLeu (a b : Word) : Bool := decide (a.toNat ≤ b.toNat)

/-- FP32 relations (R90). -/
def fcmpEq (a b : Word) : Bool := (fp32.dec a.toNat).eq (fp32.dec b.toNat)
def fcmpLt (a b : Word) : Bool := (fp32.dec a.toNat).lt (fp32.dec b.toNat)
def fcmpLe (a b : Word) : Bool := (fp32.dec a.toNat).le (fp32.dec b.toNat)
def fcmpUn (a b : Word) : Bool := (fp32.dec a.toNat).isNan || (fp32.dec b.toNat).isNan

/-- Writes predicate m of some members; a write to M0 is discarded (R14). -/
def Wave.setPreds (w : Wave) (m : PredNo) (f : Nat → Bool) : List Nat → Wave
  | [] => w
  | p :: t => (w.modThread p fun x => x.setPred m (f p)).setPreds m f t

/-- An instruction that computes a predicate in every member from the state before it: reads, then writes (R78, R84, R124). It accepts no
mask and pushes no latch. -/
def predOp (i : Instr) (m : PredNo) (f : State → Nat → Bool) (s : State) : State :=
  s.runUnit i 0 (reading i (allDone fun s ps => s.modWave s.cur.wave fun w => w.setPreds m (f s) ps))

/-- A compare of two 32-bit sources. -/
def compareOp (i : Instr) (m : PredNo) (a b : Code) (f : Word → Word → Bool) (s : State) : State :=
  predOp i m (fun s p => f (s.src p [] a) (s.src p [a] b)) s

/-- A predicate operation on two predicates. -/
def predPair (i : Instr) (m x y : PredNo) (f : Bool → Bool → Bool) (s : State) : State :=
  predOp i m (fun s p => f ((s.me.thread p).pred x) ((s.me.thread p).pred y)) s

end Sys2Proof.Machine
end

