-- ==== Sys2Proof/Machine/Lane.lean ====
section
/-! DEFINITION. `LaneOp` of R78: the shared operations of the lane arithmetic. Every member reads its sources before any member writes. -/

namespace Sys2Proof.Machine

open Sys2Proof

/-- The rounding mode of the unit's prefix (R34, R63). -/
def State.rm (s : State) : Rm := Rm.ofField s.cur.vp.rm.toNat

/-- Whether the unit's prefix selects stochastic rounding. -/
def State.sr (s : State) : Bool := s.cur.vp.rm.toNat == 4

/-- The addend: C where the prefix carries one, else D (R35, R81). -/
def State.addend (s : State) (p : Nat) (d a b : Code) : Word :=
  if s.cur.vp.hasC then s.src p [a, b] s.cur.vp.c else s.me.readCode p d

/-- Phase 2 of R78 for a 32-bit result: every member that completes writes its destination. `old` is the wave before the instruction. -/
def writeLanes (old : Wave) (vp : VPrefix) (mask : Nat → Bool) (lead : Option Nat) (d : Code) (f : Nat → Word) : List Nat → Wave → Wave
  | [], w => w
  | p :: t, w => writeLanes old vp mask lead d f t (w.dst old (lead == some p) vp.zero (mask p) p d (f p))

/-- Phase 2 of R78 for a 64-bit result. -/
def writeLanes64 (old : Wave) (vp : VPrefix) (mask : Nat → Bool) (lead : Option Nat) (d : Code) (f : Nat → Word64) : List Nat → Wave → Wave
  | [], w => w
  | p :: t, w => writeLanes64 old vp mask lead d f t (w.dst64 old (lead == some p) vp.zero (mask p) p d (f p))

/-- The member whose result a W register keeps: the lowest whose mask bit is true (R15). -/
def State.lead (s : State) (ps : List Nat) : Option Nat := ps.find? fun p => !s.masked p

/-- Every member of `ps` receives a 32-bit result. -/
def State.writeResult (s : State) (d : Code) (f : Nat → Word) (ps : List Nat) : State :=
  s.modWave s.cur.wave fun w => writeLanes s.me s.cur.vp s.masked (s.lead ps) d f ps w

/-- Every member of `ps` receives a 64-bit result. -/
def State.writeResult64 (s : State) (d : Code) (f : Nat → Word64) (ps : List Nat) : State :=
  s.modWave s.cur.wave fun w => writeLanes64 s.me s.cur.vp s.masked (s.lead ps) d f ps w

/-- A lane instruction with a 32-bit result. -/
def laneOp (i : Instr) (d : Code) (f : State → Nat → Word) (s : State) : State :=
  s.runUnit i 0 (reading i (allDone fun s ps => s.writeResult d (f s) ps))

/-- A lane instruction with a 64-bit result. -/
def laneOp64 (i : Instr) (d : Code) (f : State → Nat → Word64) (s : State) : State :=
  s.runUnit i 0 (reading i (allDone fun s ps => s.writeResult64 d (f s) ps))

/-- Two 32-bit sources. -/
def laneBin (i : Instr) (d a b : Code) (f : Word → Word → Word) (s : State) : State :=
  laneOp i d (fun s p => f (s.src p [] a) (s.src p [a] b)) s

/-- Two 32-bit sources under the prefix's rounding mode. -/
def laneRound (i : Instr) (d a b : Code) (f : Rm → Word → Word → Word) (s : State) : State :=
  laneOp i d (fun s p => f s.rm (s.src p [] a) (s.src p [a] b)) s

/-- Two 32-bit sources and the addend, under the prefix's rounding mode. -/
def laneAdd (i : Instr) (d a b : Code) (f : Rm → Word → Word → Word → Word) (s : State) : State :=
  laneOp i d (fun s p => f s.rm (s.src p [] a) (s.src p [a] b) (s.addend p d a b)) s

/-- One 32-bit source under the prefix's rounding mode. -/
def laneUn (i : Instr) (d a : Code) (f : Rm → Word → Word) (s : State) : State :=
  laneOp i d (fun s p => f s.rm (s.src p [] a)) s

/-- D and an immediate (R86). -/
def laneImm (i : Instr) (d : Code) (f : Word → Word) (s : State) : State :=
  laneOp i d (fun s p => f (s.me.readCode p d)) s

/-- The value of S5 (R31): a register, Z, or the constant ±1, which is ±1.0 for the float forms. -/
def State.s5 (s : State) (p : Nat) (float : Bool) (x : BitVec 5) : Word :=
  match s5Code x with
  | some c => s.src p [] c
  | none =>
    if x.toNat = 29 then (if float then 0x3F800000 else 1) else (if float then 0xBF800000 else 0xFFFFFFFF)

/-- A C16 form: D = A = DS6 and B = S5 (R32). -/
def laneC16 (i : Instr) (d : BitVec 6) (x : BitVec 5) (float : Bool) (f : Rm → Word → Word → Word) (s : State) : State :=
  laneOp i (ds6Code d) (fun s p => f s.rm (s.me.readCode p (ds6Code d)) (s.s5 p float x)) s

/-- Narrows a list of values to elements of a format, element 0 first: under SR each takes the LFSR and steps it (R66, R94). -/
def narrow (f : Fmt) (rm : Rm) (sr : Bool) : Word → List FVal → List Nat × Word
  | l, [] => ([], l)
  | l, v :: t =>
    if sr then
      let (r, l') := narrow f rm sr (lfsrStep l) t
      (f.roundSR l v :: r, l')
    else
      let (r, l') := narrow f rm sr l t
      (f.sat rm v :: r, l')

/-- The elements side by side, element 0 in the lowest bits. -/
def packed (f : Fmt) : List Nat → Nat
  | [] => 0
  | x :: t => x + (packed f t) <<< f.width

/-- A narrowing conversion of one or more elements (R94, R96): unmasked members round and, under SR, their LFSR steps once an element. -/
def laneNarrow (i : Instr) (d : Code) (f : Fmt) (vals : State → Nat → List FVal) (s : State) : State :=
  s.runUnit i 0 (reading i (allDone fun s ps =>
    let out (p : Nat) : List Nat × Word := narrow f s.rm s.sr (s.me.thread p).lfsr (vals s p)
    let t := s.writeResult d (fun p => word (packed f (out p).1)) ps
    foldState (fun p t => if s.masked p then t else t.modThread t.cur.wave p fun x => { x with lfsr := (out p).2 }) ps t))

end Sys2Proof.Machine
end

