-- ==== Sys2Proof/Machine/CopyEngine.lean ====
section
/-! DEFINITION. The copy engine (R195 to R199, R218 to R222): channels, transfer records, XCOPY, XCHAIN and XSTAT. -/

namespace Sys2Proof.Machine

open Sys2Proof

def State.chan (s : State) (cl ch : Nat) : Channel := (s.cluster cl).chans.get {} ch
def State.modChan (s : State) (cl ch : Nat) (f : Channel → Channel) : State :=
  s.modCluster cl fun c => { c with chans := c.chans.put ch (f (c.chans.get {} ch)) }

/-- The agent number of a channel's stores. -/
def chanAgent (cl ch : Nat) : Nat := 1 + 4 * (cl % 16) + ch % 4

/-! ### Acceptance (R221) -/

/-- A holder still holds at its instruction. -/
def State.holderLive (s : State) (h : Holder) : Bool :=
  match s.waves.find h.wave with
  | some w => w.uid == h.uid && (w.inPlace.map InPlace.addr) == some h.pc
  | none => false

/-- The issuing instruction holds on a channel: it is in RUN, or another holder attempted first. The state notes the first attempt. One that should have
been before an instruction that the channel took in this clk attempts first in the next clk. -/
def State.channelBusy (s : State) (ch : Nat) : Option State :=
  let cl := s.myCluster
  let c := s.chan cl ch
  if c.taken.any fun t => t.1 == s.clock && s.cur.wave % 128 < t.2 then some (s.waits false) else
  let live := c.holders.filter fun h => s.holderLive h || h.uid == s.me.uid
  let mine := live.any fun h => h.uid == s.me.uid
  let hs := if mine then live else live ++ [⟨s.clock, s.cur.wave, s.me.uid, s.cur.addr⟩]
  let first := argMin (fun h => 128 * h.clk + h.wave % 128) hs
  if c.st = .run ∨ first.map Holder.uid ≠ some s.me.uid then some (s.modChan cl ch fun c => { c with holders := hs }).waits else none

/-- A channel takes up work from the issuing instruction; its error and record count are cleared. -/
def State.startChannel (s : State) (ch : Nat) (st : ChanState) (w : ChanWork) : State :=
  s.modChan s.myCluster ch fun c => { c with
    st := st, work := w, code := 0, done := 0, space := s.me.space, priv := s.me.priv, team := s.me.team, launch := s.me.launch
    core := s.myCore, taken := some (s.clock, s.cur.wave % 128), holders := c.holders.filter fun h => h.uid != s.me.uid }

/-- The transfer of an XCOPY command (R218). -/
def commandRec (n : Nat) : XferRec :=
  { ctrl := 1 + 2 * ofBool (bit n 193) + 4 * ofBool (bit n 194)
    cmd := fld n 160 32, src := fld n 0 64, dst := fld n 64 64, len := fld n 128 32, bar := fld n 200 4
    tlval := fld n 224 32, tl := fld n 208 8
    bad := bit n 192 || fld n 195 5 != 0 || fld n 204 4 != 0 || fld n 216 8 != 0 }

/-- XCOPY (R219). -/
def execXcopy (c : BitVec 2) (a : Code) (s : State) : Host.Outcome State Fault Refusal :=
  .next (s.runWith (.xcopy c a) (fun _ => none) (fun _ => s.channelBusy c.toNat) 0 (reading (.xcopy c a) (once fun s p =>
    .ok (s.startChannel c.toNat .run (.command (commandRec (s.group p a 8)))))))

/-- XCHAIN (R220): the pointer is checked before the instruction holds. -/
def execXchain (c : BitVec 2) (a : Code) (s : State) : Host.Outcome State Fault Refusal :=
  let i := Instr.xchain c a
  .next (s.runWith i (fun _ => none)
    (fun ps =>
      match (s.readSplit i ps).1 with
      | p :: _ => if (s.src64 p a).toNat % 64 = 0 then s.channelBusy c.toNat else none
      | [] => none)
    0 (reading i (once fun s p =>
      let head := (s.src64 p a).toNat
      if head % 64 ≠ 0 then .error (s.trapAt .align (word head))
      else if head = 0 then .ok (s.startChannel c.toNat .idle .none)
      else .ok (s.startChannel c.toNat .run (.atRecord head)))))

/-- XSTAT's word (R222). -/
def Channel.status (c : Channel) : Word :=
  let st : Nat := match c.st with | .idle => 0 | .run => 1 | .halt => 2
  word (st + 16 * (if c.st = .halt then c.code else 0) + 2 ^ 8 * c.last + 2 ^ 16 * c.done.toNat)

/-- XSTAT (R222). -/
def execXstat (d : Code) (c : BitVec 2) (s : State) : Host.Outcome State Fault Refusal :=
  .next (s.runUnit (.xstat d c) 0 (allDone fun s ps => s.writeEach ps d fun _ => (s.chan s.myCluster c.toNat).status))

/-! ### Records (R196 to R198) -/

/-- A record from its 64 bytes. -/
def parseRec (b : List Byte) : XferRec :=
  let ctrl := field b 8 4
  { next := field b 0 8, ctrl := ctrl, cmd := field b 12 4, src := field b 16 8, dst := field b 24 8, len := field b 32 4
    bar := field b 36 4, tlval := field b 40 8, tl := field b 48 4
    bad := fld ctrl 3 5 != 0 || fld ctrl 16 16 != 0 || fld (field b 36 4) 4 28 != 0 || fld (field b 48 4) 8 24 != 0
      || field b 0x34 12 != 0 }

def XferRec.conv (r : XferRec) : Nat := fld r.cmd 0 3
def XferRec.rm (r : XferRec) : Nat := fld r.cmd 3 2
def XferRec.srcTarn (r : XferRec) : Bool := bit r.cmd 5
def XferRec.dstTarn (r : XferRec) : Bool := bit r.cmd 6
def XferRec.narrows (r : XferRec) : Bool := r.conv == 1 || r.conv == 2
def XferRec.widens (r : XferRec) : Bool := r.conv == 3 || r.conv == 4

/-- Destination bytes (R197). -/
def XferRec.dstLen (r : XferRec) : Nat := if r.narrows then r.len / 2 else if r.widens then 2 * r.len else r.len

/-- Error codes 1 and 2 (R198): units are 16 bytes, so both addresses are multiples of 16 (R199). -/
def XferRec.check (r : XferRec) : Option Nat :=
  if r.bad || fld r.cmd 8 24 != 0 || 5 ≤ r.conv || r.rm == 3 || (r.rm != 0 && !r.narrows) || r.next % 64 != 0 then some 1
  else if r.src % 16 != 0 || r.dst % 16 != 0 || r.len % (if r.narrows then 32 else 16) != 0 then some 2
  else none

/-- The 8-byte pieces of a translated or Tarn range from a byte offset on. -/
def copyPieces (place : Nat → CopyEnd) (off n : Nat) : List CopyEnd := (List.range n).map fun j => place (off + 8 * j)

/-- The LFSR after n steps. -/
def lfsrAfter (l : Word) : Nat → Word
  | 0 => l
  | n + 1 => lfsrAfter (lfsrStep l) n

/-- The units of a record whose ends are placed. -/
def XferRec.units (r : XferRec) (lfsr : Word) (src dst : Nat → CopyEnd) : List ChanUnit :=
  let bytes := if r.narrows then 32 else if r.widens then 8 else 16
  (List.range (r.dstLen / 16)).map fun j =>
    { src := copyPieces src (bytes * j) (bytes / 8), dst := dst (16 * j), lfsr := lfsrAfter lfsr (if r.rm = 2 then 16 * j else 0) }

/-- Error codes 3 and 4 of two ranges: every page of both is translated before any permission counts. -/
def rangeCode : Except Refused (List (Nat × Nat × Nat)) → Except Refused (List (Nat × Nat × Nat)) → Option Nat
  | .error (.xlate _ _ _ _), _ => some 3
  | _, .error (.xlate _ _ _ _) => some 3
  | .error (.prot _), _ => some 4
  | _, .error (.prot _) => some 4
  | .ok _, .ok _ => none

/-- One end of a record in memory, translated; a Tarn end has no pages. -/
def State.copyRange (s : State) (d : Nat) (c : Channel) (tarn write : Bool) (va len : Nat) :
    Except Refused (List (Nat × Nat × Nat)) × State :=
  if tarn then (.ok [], s)
  else s.translateRange d c.space (fun e => (if write then writable c.priv e else readable c.priv e) && notControl e) va len

/-- One end of a record as a place for each byte offset, or none where code 5 applies. -/
def State.copyPlace (s : State) (c : Channel) (tarn : Bool) (m : List (Nat × Nat × Nat)) (va len : Nat) : Option (Nat → CopyEnd) :=
  if tarn then
    let ta := va % 2 ^ 32
    if (s.teams.find c.team).isNone then none
    else (s.tarnPlace c.core (s.team c.team) ta (tarnOffset ta) len).map fun x => fun o => .tarn x.1 (x.2 + o)
  else some fun o => .mem (rangePa m (va + o))

/-- The bytes at a place, in a die's order, and whether they are marked or in error. -/
def State.endBytes (s : State) (d n : Nat) : CopyEnd → List Byte × Bool
  | .tarn c o => ((s.core c).tarnBytes o n, ((s.core c).tarnFault o n).isSome)
  | .mem pa => (s.viewBytes d pa n, s.poisonedAt d pa)

/-- Elements of `f`'s width in some bytes. -/
def elementsOf (f : Fmt) (bs : List Byte) : List FVal :=
  (List.range (8 * bs.length / f.width)).map fun i => f.dec (fld (leNat bs) (f.width * i) f.width)

/-- The destination bytes of a unit (R197). -/
def XferRec.convert (r : XferRec) (lfsr : Word) (bs : List Byte) : List Byte :=
  let rm : Rm := if r.rm = 1 then .rtz else .rne
  let narrowTo (f : Fmt) : List Byte := leBytes (packed f (narrow f rm (r.rm == 2) lfsr (elementsOf bf16 bs)).1) 16
  let widenFrom (f : Fmt) : List Byte := leBytes (packed bf16 ((elementsOf f bs).map (bf16.round .rne))) 16
  match r.conv with
  | 1 => narrowTo e4m3
  | 2 => narrowTo e5m2
  | 3 => widenFrom e4m3
  | 4 => widenFrom e5m2
  | _ => bs

/-- Bytes reach the place of a unit at a virtual address; a bad unit marks its Tarn words or its destination line (R151, R199). -/
def State.putUnit (s : State) (d agent : Nat) (dst : CopyEnd) (data : List Byte) (bad : Bool) (unit : Option Nat := none) : State :=
  match dst with
  | .tarn c o =>
    s.modCore c fun x =>
      let x := x.writeTarn o data
      if bad then { x with tarnPoison := (wordsOf o data.length).foldl sortedInsert x.tarnPoison } else x
  | .mem pa =>
    let s := s.store d { agent := agent, pa := pa, data := data, poisoned := bad, unit := unit }
    if bad then s.markL2 d pa else s

/-- What a copy unit reads or writes there meets an owned region, and single-bit errors (R141, R384). -/
def State.meetEnd (s : State) (d n : Nat) : CopyEnd → State
  | .tarn c o => s.meetTarn c o n
  | .mem pa => s.touchRgn d pa false

/-- One unit of a record moves. -/
def State.moveChanUnit (s : State) (cl ch : Nat) (r : XferRec) (u : ChanUnit) : State :=
  let d := dieOfCluster cl
  let s := foldState (fun e s => s.meetEnd d 8 e) u.src s
  let s := match u.dst with | .mem pa => s.touchRgn d pa false | .tarn _ _ => s
  let got := u.src.map (s.endBytes d 8)
  s.putUnit d (chanAgent cl ch) u.dst (r.convert u.lfsr (got.flatMap Prod.fst)) (got.any Prod.snd) (some (s.chan cl ch).epoch)

/-- The units that free bits choose move now (R199: in no fixed order); the others stay. -/
def State.moveChanSome (s : State) (cl ch : Nat) (r : XferRec) : List ChanUnit → State × List ChanUnit
  | [] => (s, [])
  | u :: t =>
    let (b, s) := s.freeBit
    if b then (s.moveChanUnit cl ch r u).moveChanSome cl ch r t
    else
      let (s, rest) := s.moveChanSome cl ch r t
      (s, u :: rest)

/-- A channel halts at its record, which keeps OWN and STATUS (R198). -/
def State.haltChannel (s : State) (cl ch code : Nat) : State := s.modChan cl ch fun c => { c with st := .halt, code := code }

/-- A checked record starts to move; `at_` is its address and that of its CTRL word (R198). The channel's LFSR takes the steps of all its elements then,
also when the record halts part way (DESIGN CHOICE, log 34). -/
def State.startRecord (s : State) (cl ch : Nat) (at_ : Option (Nat × Nat)) (r : XferRec) : State :=
  let c := s.chan cl ch
  let d := dieOfCluster cl
  match r.check with
  | some code => s.haltChannel cl ch code
  | none =>
    let (ms, s) := s.copyRange d c r.srcTarn false r.src r.len
    let (md, s) := s.copyRange d c r.dstTarn true r.dst r.dstLen
    match rangeCode ms md, s.copyPlace c r.srcTarn (ms.toOption.getD []) r.src r.len,
        s.copyPlace c r.dstTarn (md.toOption.getD []) r.dst r.dstLen with
    | some code, _, _ => s.haltChannel cl ch code
    | none, some src, some dst =>
      let s := s.modChan cl ch fun c => { c with since := s.ref, epoch := c.epoch + 1 }
      let (s, rest) := s.moveChanSome cl ch r (r.units c.lfsr src dst)
      s.modChan cl ch fun c => { c with
        work := .moving at_ r rest
        lfsr := if r.rm = 2 then lfsrAfter c.lfsr r.dstLen else c.lfsr }
    | none, _, _ => s.haltChannel cl ch 5

/-- A channel reaches the record at an address (R198). Marks of the record's own 64 bytes count for nothing (DESIGN CHOICE, log 34). -/
def State.reachRecord (s : State) (cl ch va : Nat) : State :=
  let c := s.chan cl ch
  let d := dieOfCluster cl
  match s.translate d c.space c.priv false va with
  | (.error (.xlate _ _ _ _), s) => s.haltChannel cl ch 3
  | (.error (.prot _), s) => s.haltChannel cl ch 4
  | (.ok (pa, e, _), s) =>
    if !notControl e then s.haltChannel cl ch 4
    else
      let s := s.touchRgn d pa false
      let r := parseRec (s.viewBytes d pa 64)
      if !bit r.ctrl 0 then s.modChan cl ch fun c => { c with st := .idle, work := .none }
      else s.startRecord cl ch (some (va, pa + 8)) r

/-- COPY_RECORD_START (R198): the next record of a running channel is read and checked, and its units begin to move. -/
def execCopyRecordStart (cl ch : Nat) (s : State) : Host.Outcome State Fault Refusal :=
  let c := s.chan cl ch
  if c.st ≠ .run then .next s
  else
    match c.work with
    | .atRecord va => .next (s.reachRecord cl ch va)
    | .command r => .next (s.startRecord cl ch none r)
    | .none | .moving _ _ _ => .next s

/-- A store of a channel outside the module has not been acknowledged (R199). -/
def State.unacknowledged (s : State) (cl ch : Nat) : Bool :=
  (s.die (dieOfCluster cl)).pend.any fun e => e.agent == chanAgent cl ch && 2 ^ 51 ≤ e.pa

/-- The copy arrival of a record: the state, and STATUS (R190). -/
def State.copyArrival (s : State) (team b : Nat) : State × Nat :=
  if ((s.team team).barrier b).exp = 0 then (s, 6)
  else (s.modTeam team fun t => t.setBarrier b (t.barrier b).arrive, 0)

/-- A record whose units have moved completes: the OWN clear, the timeline signal and the barrier arrival follow, in that order, and then
the next record (R198, R199). The store of STATUS and OWN needs no write permission (DESIGN CHOICE, log 34). -/
def State.finishRecord (s : State) (cl ch : Nat) (at_ : Option (Nat × Nat)) (r : XferRec) : State :=
  let c := s.chan cl ch
  let d := dieOfCluster cl
  let (after, status) := if bit r.ctrl 2 then s.copyArrival c.team r.bar else (s, 0)
  let s := { s with teams := after.teams }
  let s := match at_ with
    | some (_, pa) => (s.touchRgn d pa false).store d { agent := chanAgent cl ch, pa := pa, data := leBytes (fld r.ctrl 1 2 * 2 + 256 * status) 4 }
    | none => s
  let s := if bit r.ctrl 1 then s.signal d c.space.ctx r.tl r.tlval else s
  s.settleWaits.modChan cl ch fun c => { c with
    done := c.done + 1, last := status
    st := if r.next = 0 then .idle else .run
    work := if r.next = 0 then .none else .atRecord r.next }

/-- The moving record uses a Tarn share that its team has released (R199). -/
def State.shareGone (s : State) (c : Channel) (r : XferRec) : Bool := (r.srcTarn || r.dstTarn) && (s.teams.find c.team).isNone

/-- COPY_RECORD_COMPLETE (R199): the remaining units move; the record completes once every unit outside the module is acknowledged. A record
whose Tarn share has been released moves no more, and halts. -/
def execCopyRecordComplete (cl ch : Nat) (s : State) : Host.Outcome State Fault Refusal :=
  let c := s.chan cl ch
  match c.st, c.work with
  | .run, .moving at_ r units =>
    if s.shareGone c r then .next (s.haltChannel cl ch 5)
    else
      let s := foldState (fun u s => s.moveChanUnit cl ch r u) units s
      if s.unacknowledged cl ch then .next (s.modChan cl ch fun c => { c with work := .moving at_ r [] })
      else .next (s.finishRecord cl ch at_ r)
  | _, _ => .next s

end Sys2Proof.Machine
end

