-- ==== Sys2Proof/Machine/Typed.lean ====
section
/-! DEFINITION. Elements of typed pages (R67 to R70): where an element stands in its frame, and what its bytes hold; and the bytes of a range that an
instruction reads (R118, R430). -/

namespace Sys2Proof.Machine

open Sys2Proof

/-- The first index of an ordinary access at a virtual address through a leaf, with view size v (R68). -/
def firstIndex (u : Units) (e level va v : Nat) : Nat :=
  u.first (frameSize level) (pteGeom e) + va % frameSize level / v

/-- The physical address of the unit of element i of a leaf's frame, and the element's position in it (R67). -/
def unitAt (u : Units) (e i : Nat) : Nat × Nat := (frameBase e + i / u.count * u.bytes, i % u.count)

/-- The units of elements i to i + n − 1. -/
def unitsFor (u : Units) (e i n : Nat) : List Nat := ((upFrom i n).map fun j => (unitAt u e j).1).dedup

/-- The exact value of element i of a leaf's frame in die d's order. -/
def State.elementAt (s : State) (d : Nat) (u : Units) (e i : Nat) : FVal :=
  let (pa, pos) := unitAt u e i
  u.element (s.viewNat d pa u.bytes) pos

/-- The line address that POISON reports (R24, R247). -/
def lineTval (pa : Nat) : Word := word (pa / 128 * 128)

/-- The first poisoned unit that some units of a typed page meet. -/
def State.unitsPoison (s : State) (d : Nat) (u : Units) (pas : List Nat) : Option Nat :=
  pas.findSome? fun pa => s.poisonIn d pa u.bytes

/-! ### Bytes that an instruction reads -/

/-- The parts of a translated range that stand outside the module, one for each granule. -/
def outsideParts (m : List (Nat × Nat × Nat)) (va len : Nat) : List Need :=
  (m.filter fun x => 2 ^ 51 ≤ x.2.1).map fun x => ⟨x.1, x.2.1, min (x.1 / 65536 * 65536 + 65536) (va + len) - x.1⟩

/-- A byte of a translated range: from outside the module, one of those that the unit has obtained. -/
def State.rangeByte (s : State) (m : List (Nat × Nat × Nat)) (va len a : Nat) : Byte :=
  match (outsideParts m va len).find? fun x => x.va ≤ a && a < x.va + x.size with
  | some x => ((s.me.answers.get none x.addr).getD []).getD (a - x.va) 0
  | none => s.seenByte s.myDie (rangeLeaf m a) (rangePa m a)

/-- What POISON reports of a range: the line's address where the die sees a mark (R247), or the virtual address where an access outside the module has
obtained no bytes (R430). -/
def State.rangePoison (s : State) (m : List (Nat × Nat × Nat)) (va len : Nat) : Option Word :=
  match (upFrom va len).find? fun a => s.seenPoison s.myDie (rangeLeaf m a) (rangePa m a) with
  | some a => some (lineTval (rangePa m a))
  | none => ((outsideParts m va len).find? fun x => s.me.answers.find x.addr == some none).map fun x => word x.va

/-- Bytes of a translated range that the issuing unit reads as loads do: regions change owners and errors are corrected (R141, R349); POISON, as its
TVAL; or the bytes, none while the unit waits. -/
def State.rangeRead (s : State) (m : List (Nat × Nat × Nat)) (va len : Nat) : Except Word (Option (List Byte)) × State :=
  let s := foldState (fun x s => s.touchRgn s.myDie x.2.1 (pteRgn x.2.2)) m s
  if s.cur.blocked then (.ok none, s)
  else
    match s.rangePoison m va len, (outsideParts m va len).find? fun x => (s.me.answers.find x.addr).isNone with
    | some w, _ => (.error w, s)
    | none, some x => (.ok none, s.needs x)
    | none, none => (.ok (some ((upFrom va len).map (s.rangeByte m va len))), s)

end Sys2Proof.Machine
end

