-- ==== Sys2Proof/Machine/DieMemory.lean ====
section
/-! DEFINITION. Die memory at work (12_die_memory.md, R322 to R327): invalidations, the fault queue and its replies, timelines, prefetch, the
weight-stream window, stores that reach their homes, and the returns from traps. -/

namespace Sys2Proof.Machine

open Sys2Proof

/-! ### Reads of a structure by an instruction -/

/-- The first 16-byte unit of a translated range that an engine of a die sees marked, as its physical address. -/
def State.markedIn (s : State) (d : Nat) (m : List (Nat × Nat × Nat)) (va len : Nat) : Option Nat :=
  ((upFrom (va / 16) (ceilDiv (va % 16 + len) 16)).map fun u => rangePa m (max va (16 * u))).find? (s.poisonedAt d)

/-- Bytes that an instruction reads in the issuing wave's space as a load of the thread would: XLATE, PROT and POISON, and the transfer of region
ownership (R327, R349, R387). -/
def State.loadBytes (s : State) (va len : Nat) : Except Raised (Option (List Byte)) × State :=
  match s.translateRange s.myDie s.me.space (fun e => readable s.me.priv e && notControl e) va len (some s.myCore) with
  | (.error r, s) => (.error (s.refusal .read r), s)
  | (.ok m, s) =>
    match s.rangeRead m va len with
    | (.error w, s) => (.error (s.trapAt .poison w), s)
    | (.ok bs, s) => (.ok bs, s)

/-! ### Invalidation (R239, R240) -/

/-- A cached entry is named by an invalidation: a page's leaf of either size and the pointers on its walk. -/
def Inval.names (i : Inval) (t : TlbEnt) : Bool :=
  match i with
  | .all => true
  | .asid a => t.asid == a
  | .page a va => t.asid == a && t.vpn == va >>> levelShift t.level

/-- A virtual range meets what an invalidation names; the page of MODE 0 may be as large as 32 MiB. -/
def Inval.meets (i : Inval) (asid va len : Nat) : Bool :=
  match i with
  | .all => true
  | .asid a => asid == a
  | .page a v => asid == a && rangesMeet (v / 2 ^ 25 * 2 ^ 25) (2 ^ 25) va (max 1 len)

/-- An invalidation names a page that the stream window was translated through, whose size is that of its leaf (R240, R249). -/
def Inval.meetsWindow (i : Inval) (w : StreamWin) : Bool :=
  match i with
  | .all => true
  | .asid a => w.asid == a
  | .page a v => w.asid == a && w.pages.any fun x => v >>> levelShift x.2.2 == x.1 >>> levelShift x.2.2

/-- The cores of a die lose the translations that an invalidation names. -/
def State.dropCached (s : State) (d : Nat) (i : Inval) : State :=
  { s with cores := s.cores.map fun c => if dieOfCore c.1 = d then (c.1, { c.2 with tlb := c.2.tlb.filter fun t => !i.names t }) else c }

/-- A copy, an overlay load, an access in flight, a ray query or a builder job of a die still uses translations that an
invalidation names. -/
def State.usedBy (s : State) (d : Nat) (i : Inval) : Bool :=
  (s.outs.any fun o => o.2.die == d && i.meets o.2.asid o.2.va o.2.size) ||
  (s.queries.any fun q => q.2.cl / 16 == d && i.meets q.2.space.asid q.2.stateVa 64) ||
  (((s.die d).jobs ++ (s.die d).running.toList).any fun j => i.meets j.space.asid (if j.kind = .nft then j.descVa else j.desc.hdr) 512) ||
  (s.cores.any fun c => dieOfCore c.1 == d &&
    ((c.2.copies.any fun x => i.meets x.asid x.va x.len)
      || [c.2.slot0, c.2.slot1].any fun o => match o.pend with
        | some l => i.meets l.asid l.va l.len || i.meets l.asid l.tabVa (72 * l.ntab)
        | none => false))
  || s.clusters.any fun c => dieOfCluster c.1 == d && c.2.chans.any fun x => match x.2.work with
    | .moving at_ r _ => (at_.any fun a => i.meets x.2.space.asid a.1 64) || (!r.srcTarn && i.meets x.2.space.asid r.src r.len) || (!r.dstTarn && i.meets x.2.space.asid r.dst r.dstLen)
    | .none | .atRecord _ | .command _ => false

/-- A store to XINV queues an invalidation; with 16 queued, the store is held (R240). -/
def State.queueInval (s : State) (d : Nat) (i : Inval) : State :=
  if 16 ≤ (s.die d).invals.length then s else s.modDie d fun x => { x with invals := x.invals ++ [i] }

/-- XINV_PAGE (R240). -/
def execXinvPage (die asid : Nat) (s : State) : Host.Outcome State Fault Refusal :=
  .next (s.queueInval die (.page (asid % 65536) (s.die die).xinva.toNat))

/-- XINV_ASID (R240). -/
def execXinvAsid (die asid : Nat) (s : State) : Host.Outcome State Fault Refusal := .next (s.queueInval die (.asid (asid % 65536)))

/-- XINV_ALL (R240). -/
def execXinvAll (die : Nat) (s : State) : Host.Outcome State Fault Refusal := .next (s.queueInval die .all)

/-- XINV_COMPLETE (R240): the oldest invalidation completes when nothing still uses what it names. -/
def execXinvComplete (die : Nat) (s : State) : Host.Outcome State Fault Refusal :=
  match (s.die die).invals with
  | [] => .next s
  | i :: rest =>
    if s.usedBy die i then .next s
    else
      .next ((s.dropCached die i).modDie die fun x => { x with
        invals := rest
        tlb := x.tlb.filter fun t => !i.names t
        swin := x.swin.filter fun w => !i.meetsWindow w
        xinvDone := x.xinvDone + 1 })

/-! ### The fault queue (R242 to R244) -/

/-- FQCFG as a store leaves it (R242). -/
def fqcfgValue (v : Nat) : Nat :=
  let en := bit v 31 && isPow2 (fld v 0 16) 6 15
  fld v 0 24 + 2 ^ 31 * ofBool en

/-- A store to FQCFG. -/
def State.writeFqcfg (s : State) (d v : Nat) : State := s.modDie d fun x => { x with fqcfg := BitVec.ofNat 64 (fqcfgValue v) }

/-- FQCFG_WRITE (R242). -/
def execFqcfgWrite (die : Nat) (v : BitVec 64) (s : State) : Host.Outcome State Fault Refusal :=
  .next (s.writeFqcfg die v.toNat)

/-- Faults whose records have been written and that await their replies. -/
def Die.awaiting (x : Die) : Nat := (x.faults.filter fun f => f.seq.isSome).length

/-- FAULT_RECORD_WRITE (R242): the oldest waiting record is written and its timeline signalled, whatever the timeline's owner (R256). A report
that no reply answers, and the record of a task that has ended, are not outstanding afterwards. -/
def execFaultRecordWrite (die : Nat) (s : State) : Host.Outcome State Fault Refusal :=
  let x := s.die die
  let n := x.fqtail.toNat
  if !x.fqEn || x.fqtail - x.fqhead == BitVec.ofNat 64 x.fqLen || 1024 ≤ x.awaiting then .next s
  else
    match x.faults.find? fun f => f.seq.isNone with
    | none => .next s
    | some f =>
      let s := s.engineStore die (x.fqbase.toNat + 64 * (n % x.fqLen)) (faultRecord f n)
      let s := s.modDie die fun x => { x with
        fqtail := x.fqtail + 1
        faults := if f.joins then x.faults.map fun g => if g.id = f.id then { g with seq := some n } else g
                  else x.faults.filter fun g => g.id != f.id }
      .next (s.applySignal die x.fqTl (n + 1))

/-- The held threads of a fault are released; each that is still there, with its address word and unit address. -/
def State.releaseThreads (s : State) (f : PFault) : State :=
  foldState (fun t s => if (s.wave t.2.1).uid = t.1 then s.modThread t.2.1 t.2.2.1 fun x => { x with held := none } else s) f.threads s

/-- RAISE: every joined thread traps with XLATE at its unit (R244). -/
def State.raiseThreads (s : State) (f : PFault) : State :=
  foldState (fun t s =>
    if (s.wave t.2.1).uid = t.1 then s.takeTrap t.2.1 t.2.2.1 .xlate t.2.2.2.2 t.2.2.2.1 else s) f.threads (s.releaseThreads f)

/-- A task that was discarded by fault-and-replay ends faulted (R244). -/
def State.endAway (s : State) (l : Nat) (tpc tval : Word) : State :=
  s.modLaunch l fun x =>
    if x.phase = .away then { x with phase := .ended, status := 1, causeAcc := x.causeAcc ||| Cause.xlate.mask, endTpc := tpc, endTval := tval }
    else x

/-- A task that was discarded by fault-and-replay goes back to the head of its queue with its attempt count incremented (R244). -/
def State.requeueAway (s : State) (l : Nat) : State :=
  let x := s.launch l
  let s := { s with launches := s.launches.del l }
  ((s.raiseAttempt x.die x.recPa).gainWork x.die x.queue).modQueue x.die x.queue fun q => { q with requeued := (x.pos, x.recPa) :: q.requeued }

/-- The sequencer's answer (R380): the stopped region goes on, or the frame is in FAULT. -/
def State.answerRegion (s : State) (d region : Nat) (retry : Bool) : State :=
  s.modDie d fun x => { x with gfx :=
    { x.gfx with stopped := x.gfx.stopped.filter (· != region), st := if retry then x.gfx.st else .fault } }

/-- A reply takes effect (R244). -/
def State.reply (s : State) (d code : Nat) (f : PFault) : State :=
  let s := s.modDie d fun x => { x with faults := x.faults.filter fun g => g.id != f.id }
  match f.region with
  | some r => s.answerRegion d r (code == 0)
  | none =>
    if f.replay.isSome then (if code = 0 then s.requeueAway f.launch else s.endAway f.launch f.tpc (word f.va))
    else
      match code with
      | 0 => s.releaseThreads f
      | 1 => s.raiseThreads f
      | _ => s.faultLaunch f.launch Cause.xlate.mask f.tpc (word f.va)

/-- FREPLY's effect: SEQ is read as a load, and names the fault (R327). -/
def freplyOp (c : BitVec 2) (a : Code) (s : State) (p : Nat) : Except Raised State :=
  let va := (s.src64 p a).toNat
  if va % 64 ≠ 0 then .error (s.trapAt .align (word va))
  else
    match s.loadBytes (va + 0x20) 8 with
    | (.error r, _) => .error r
    | (.ok none, s) => .ok s
    | (.ok (some bs), s) =>
      match (s.die s.myDie).faults.find? fun f => f.seq == some (leNat bs) with
      | some f => .ok (s.reply s.myDie c.toNat f)
      | none => .ok s

/-- FREPLY (R327). -/
def execFreply (c : BitVec 2) (a : Code) (s : State) : Host.Outcome State Fault Refusal :=
  .next (s.runUnit (.freply c a) 0 (reading (.freply c a) (once (freplyOp c a))))

/-! ### Timelines (R252, R256, R322) -/

/-- TL.SIG (R322). -/
def execTlSig (k a : Code) (s : State) : Host.Outcome State Fault Refusal :=
  .next (s.runUnit (.tlSig k a) 0 (reading (.tlSig k a) (once fun s p =>
    if s.ownsTimeline s.myDie k.toNat s.me.space.ctx then .ok (s.applySignal s.myDie k.toNat (s.src64 p a).toNat)
    else .error (s.trapAt .prot (word k.toNat)))))

/-- TL.WAIT (R322). -/
def execTlWait (k a : Code) (s : State) : Host.Outcome State Fault Refusal :=
  .next (waitOp (.tlWait k a) true (fun s p => .timeline k.toNat (s.src64 p a)) s)

/-- TL.READ (R322). -/
def execTlRead (d k : Code) (s : State) : Host.Outcome State Fault Refusal :=
  .next (s.runUnit (.tlRead d k) 0 (allDone fun s ps =>
    s.writeEach64 ps d fun _ => BitVec.ofNat 64 (s.timeline s.myDie k.toNat)))

/-- TIMELINE_VALUE_STORE (R254, R256): a control-block or host store applies its signal whatever the owner. -/
def execTimelineValueStore (die k : Nat) (v : BitVec 64) (s : State) : Host.Outcome State Fault Refusal :=
  .next (if k < 256 then s.applySignal die k v.toNat else s)

/-! ### Prefetch and the stream window (R248, R249, R323, R324) -/

/-- Whether PREF brings in some line of a page: it has a valid leaf with CACHE 0, RGN 0 and DEV 0. -/
def prefetches (e : Nat) : Bool := pteCache e == 0 && !pteRgn e && !pteDev e

/-- Some page of a range is prefetched. -/
def State.anyPrefetched (s : State) (d : Nat) (sp : Space) (core : Option Nat) : List Nat → Bool × State
  | [] => (false, s)
  | va :: t =>
    match s.walk d sp va core with
    | (.leaf e _, s) => if prefetches e then (true, s) else s.anyPrefetched d sp core t
    | (.invalid _ _ _, s) => s.anyPrefetched d sp core t

/-- PREF (R323): it signals at once when it brings nothing in. -/
def execPref (k a : Code) (s : State) : Host.Outcome State Fault Refusal :=
  .next (s.runUnit (.pref k a) 0 (reading (.pref k a) (once fun s p =>
    let g := s.group p a 4
    let d := s.myDie
    let ctx := s.me.space.ctx
    let (busy, s) := s.anyPrefetched d s.me.space (some s.myCore) ((granulesOf (fld g 0 64) (fld g 64 32)).filter (· < 2 ^ 57))
    .ok (if busy then s.modDie d fun x => { x with prefs := x.prefs ++ [{ ctx := ctx, tl := k.toNat, tlval := fld g 96 32 }] }
      else s.signal d ctx k.toNat (fld g 96 32)))))

/-- PREF_COMPLETE (R248). -/
def execPrefComplete (die idx : Nat) (s : State) : Host.Outcome State Fault Refusal :=
  match (s.die die).prefs[idx]? with
  | none => .next s
  | some x => .next ((s.modDie die fun y => { y with prefs := listDel y.prefs idx }).signal die x.ctx x.tl x.tlval)

/-- A leaf that the window may hold (R324). -/
def windowAllows (priv : Bool) (e : Nat) : Bool := readable priv e && pteCache e == 0 && !pteRgn e && !pteDev e

/-- SWIN's effect (R324). -/
def swinOp (a : Code) (s : State) (p : Nat) : Except Raised State :=
  let g := s.group p a 4
  let base := fld g 0 64
  let len := fld g 64 32
  let d := s.myDie
  if fld g 96 32 ≠ 0 then .error (s.trapAt .ill s.cur.first)
  else if base % 65536 ≠ 0 then .error (s.trapAt .align (word base))
  else if len % 65536 ≠ 0 then .error (s.trapAt .align (word len))
  else if (if s.kindOf d = .geometry then 25165824 else 201326592) < len then .error (s.trapAt .prot (word len))
  else
    match s.leavesOf d s.me.space (some s.myCore) (granulesOf base len) with
    | (.error r, s) => .error (s.refusal .read r)
    | (.ok r, s) =>
      match r.find? fun x => !windowAllows s.me.priv x.2.1 with
      | some x => .error (s.refusal .read (.prot x.1))
      | none =>
        .ok (s.modDie d fun x => { x with swin := if len = 0 then none else some { asid := s.me.space.asid, base := base, len := len, pages := r } })

/-- SWIN (R324). -/
def execSwin (a : Code) (s : State) : Host.Outcome State Fault Refusal :=
  .next (s.runUnit (.swin a) 0 (reading (.swin a) (once (swinOp a))))

/-! ### Returns from traps and CAUSE (R325, R326) -/

/-- RFT (R325). -/
def execRft (s : State) : Host.Outcome State Fault Refusal :=
  .next (s.runWith .rft (fun p => if (s.me.thread p).inHandler then none else some (s.trapAt .ill s.cur.first)) (fun _ => none) 0
    fun s ps => { st := foldState (fun p s => s.returnFromTrap s.cur.wave p) ps s, ok := ps, raised := []
                  jumps := ps.map fun p => (p, (s.me.thread p).tpc) })

/-- CCLR (R326). -/
def execCclr (a : Code) (s : State) : Host.Outcome State Fault Refusal :=
  .next (s.runUnit (.cclr a) 0 (reading (.cclr a) (once fun s p =>
    let v := s.src p [] a &&& 0x7FFFFF
    .ok (s.modWave s.cur.wave fun w => { w with cause := w.cause &&& ~~~v }))))

/-! ### Stores reach their homes (R352, R428) -/

/-- STORE_REACH_HOME (R352): a store that nothing of its die must precede reaches its home, or leaves for it (R428). -/
def execStoreReachHome (die idx : Nat) (s : State) : Host.Outcome State Fault Refusal :=
  let l := (s.die die).pend
  match l[idx]? with
  | none => .next s
  | some e =>
    if !mayReachHome l idx then .next s
    else if s.lingers e then .next (s.sendPend die idx e)
    else .next (s.flushSome die ((List.range l.length).map (· == idx)))

/-- VIEW_UPDATE (R352). -/
def execViewUpdate (die pa : Nat) (s : State) : Host.Outcome State Fault Refusal := .next (s.viewRise die pa)

end Sys2Proof.Machine
end

