-- ==== Sys2Proof/Machine/Qp.lean ====
section
/-! DEFINITION. QP's queues (13_die_scheduling.md): taking up descriptors, task records and their checks, the tile scoreboard, slots and their mapping,
and requests to discard (R254 to R266, R272, R273, R278 to R280). -/

namespace Sys2Proof.Machine

open Sys2Proof

/-! ### Descriptors (R257) -/

/-- Queues of a die that hold a slot of their own. -/
def Die.pinned (x : Die) : Nat := (x.queues.filter fun q => q.2.en && q.2.pin).length

/-- A descriptor that QP takes up, from its 128 bytes. -/
def parseQueue (b : List Byte) (ref pinned : Nat) : Queue :=
  let cfg := field b 0x20 4
  let cpl := field b 0x24 4
  let pin := bit cfg 6 && pinned < 16
  let head := field b 0x08 8
  let hseg := field b 0x10 8
  { en := true, tail := field b 0 8, head := head, hseg := hseg, tseg := field b 0x18 8, headSeg := hseg
    hsegIdx := head / 31, headIdx := head / 31, tsegIdx := field b 0 8 / 31
    pmaskMax := fld cfg 16 16, ctx := fld cfg 8 8, pin := pin, hostq := bit cfg 5, priv := bit cfg 4, prio := fld cfg 0 3
    cplEn := bit cpl 31, cplTl := fld cpl 16 8, cplLen := fld cpl 0 16, cplBase := field b 0x28 8, cplTail := field b 0x30 8
    tsbmap := field b 0x40 8, agedAt := ref }

/-! ### Levels and slots (R262, R263) -/

/-- A queue's level (R262). -/
def Queue.level (x : Queue) : Nat := min 7 (x.prio + x.aged)

/-- The rank of a queue in L of R263, as a list compared in order: higher level, then the unmapped before the mapped, then the longest
unmapped or the shortest mapped, then the lower index. -/
def Queue.rank (x : Queue) (q now : Nat) : Nat :=
  let big := 2 ^ 64
  ((7 - x.level) * 2 * big + (match x.mapped with
    | none => min (big - 1) x.unmappedAt
    | some t => big + min (big - 1) (now - t))) * 4096 + q

/-- L of R263. -/
def State.remapOrder (s : State) (d : Nat) : List Nat :=
  let qs := ((s.die d).queues.filter fun q => q.2.en && !q.2.pin && s.hasWork d q.1).map Prod.fst
  sortBy (fun q => (s.queue d q).rank q s.ref) qs

/-- A queue gives up its slot. What it has started goes on (R263). -/
def State.unmapQueue (s : State) (d q : Nat) : State :=
  s.modQueue d q fun x => { x with mapped := none, unmappedAt := s.ref, agedAt := s.ref }

/-- The slots of a die that a queue holds. -/
def Die.slotsInUse (x : Die) : List Nat := (x.queues.filter fun q => q.2.mapped.isSome).map fun q => q.2.slot

/-- The slot that a queue is mapped to: the lowest free one. -/
def Die.freeSlot (x : Die) : Nat := ((List.range 64).find? fun k => !x.slotsInUse.contains k).getD 0

/-- A queue holds a slot from now on, and its level is PRIO again (R262, R263). -/
def State.mapQueue (s : State) (d q : Nat) : State :=
  let k := (s.die d).freeSlot
  s.modQueue d q fun x => { x with mapped := some s.ref, slot := k, aged := 0 }

/-- A pinned queue that takes its slot when all are held has one given up, as only the S others stay (R262): that of a mapped queue without work, else
of the one that stands last in L (DESIGN CHOICE, log 48). -/
def State.makeSlot (s : State) (d : Nat) : State :=
  if (s.die d).slotsInUse.length < 64 then s
  else
    let l := ((s.die d).queues.filter fun q => q.2.mapped.isSome && !q.2.pin).map Prod.fst
    let order := s.remapOrder d
    match (l.find? fun q => !order.contains q).or (order.filter l.contains).getLast? with
    | some q => s.unmapQueue d q
    | none => s

/-- The positions below HEAD of a queue whose records have not completed: taken ones, and re-queued ones. -/
def State.openPositions (s : State) (d q : Nat) : List Nat :=
  ((s.launches.filter fun l => l.2.die == d && l.2.queue == q).map fun l => l.2.pos) ++ (s.queue d q).requeued.map Prod.fst

/-- A queue's EN is cleared: QP takes no more of its records, and the queue gives up its slot (R257, R262). -/
def State.stopQueue (s : State) (d q : Nat) : State :=
  s.modQueue d q fun x =>
    { x with en := false, pin := false, mapped := none, unmappedAt := if x.mapped.isSome then s.ref else x.unmappedAt, cleared := false }

/-- The links that lead from a segment to another, up to `n`. -/
def State.linksTo (s : State) (d seg target : Nat) : Nat → Option Nat
  | 0 => if seg = target then some 0 else none
  | n + 1 => if seg = target then some 0 else (s.linksTo d (s.viewNat d (seg + 0xF80) 8) target n).map (· + 1)

/-- QP takes up an enabled descriptor. Of a queue that it has served before, the records that it took and has not completed go on, and HSEG is the
segment of the lowest of them; the re-queued ones are offered again (R257). HSEG and TSEG are the segments of positions HEAD and TAIL, or where they
name full segments that nothing is linked to yet, those: HSEG where it and HEAD stand as QP left them, TSEG by the links that lead to it (DEDUCED,
log 48). -/
def State.takeUpQueue (s : State) (d q : Nat) : State :=
  let old := s.queue d q
  let s := if old.en then s.stopQueue d q else s
  let b := s.viewBytes d (s.queueDesc d q) 128
  let x := parseQueue b s.ref (s.die d).pinned
  let open_ := (s.openPositions d q).filter (· < x.head)
  let first := if old.hseg = x.hseg ∧ old.head = x.head then old.hsegIdx else open_.foldl min x.head / 31
  let x := { x with
    hsegIdx := first, headIdx := first, requeued := old.requeued, unmappedAt := (s.queue d q).unmappedAt
    tsegIdx := ((s.linksTo d x.hseg x.tseg (x.tail / 31 - first)).map (first + ·)).getD (x.tail / 31)
    done := (upFrom (31 * first) (x.head - 31 * first)).filter fun n => !open_.contains n }
  let s := s.modDie d fun y => { y with queues := y.queues.put q x }
  if x.pin then (s.makeSlot d).mapQueue d q else s

/-- The memory copy of a descriptor holds EN = 1. -/
def State.descEnabled (s : State) (d q : Nat) : Bool := bit (s.viewNat d (s.queueDesc d q + 0x20) 4) 3

/-- QUEUE_ENABLE (R257). -/
def execQueueEnable (die q : Nat) (s : State) : Host.Outcome State Fault Refusal :=
  .next (if q < 4096 && s.descEnabled die q && (!(s.queue die q).en || (s.queue die q).cleared) then s.takeUpQueue die q else s)

/-- QUEUE_DISABLE (R257): QP takes no more of its records, and the queue gives up its slot (R262). -/
def execQueueDisable (die q : Nat) (s : State) : Host.Outcome State Fault Refusal :=
  .next (if !s.descEnabled die q && (s.queue die q).en then s.stopQueue die q else s)

/-- A store to QTBASE: every enabled descriptor of the new table is taken up. -/
def State.writeQtbase (s : State) (d v : Nat) : State :=
  let s := s.modDie d fun x => { x with qtbase := BitVec.ofNat 64 (fld v 19 33 * 2 ^ 19) }
  foldState (fun q s => if s.descEnabled d q then s.takeUpQueue d q else s) (List.range 4096) s

/-- QTBASE_WRITE (R254, R257). -/
def execQtbaseWrite (die : Nat) (v : BitVec 64) (s : State) : Host.Outcome State Fault Refusal := .next (s.writeQtbase die v.toNat)

/-- The segment up to `n` links after one, as far as links are written, with the links followed. -/
def State.followLinks (s : State) (d seg : Nat) : Nat → Nat × Nat
  | 0 => (seg, 0)
  | n + 1 =>
    let link := s.viewNat d (seg + 0xF80) 8
    if link = 0 then (seg, 0)
    else
      let (x, k) := s.followLinks d link n
      (x, k + 1)

/-- TSEG moves to the segment of position TAIL, as far as the producer has linked it (R257). -/
def State.moveTseg (s : State) (d q : Nat) : State :=
  let x := s.queue d q
  let (seg, k) := s.followLinks d x.tseg (x.tail / 31 - x.tsegIdx)
  if k = 0 then s
  else (s.modQueue d q fun x => { x with tseg := seg, tsegIdx := x.tsegIdx + k }).engineNat d (s.queueDesc d q + 0x18) seg 8

/-- QP observes TAIL of a host-fed queue in memory (R259): a TAIL that is not larger is ignored. A segment that waited only for its link is
released (R258). -/
def State.seeTail (s : State) (d q : Nat) : State :=
  let x := s.queue d q
  let t := s.viewNat d (s.queueDesc d q) 8
  if x.en && x.hostq && x.tail < t then
    ((((s.gainWork d q).modQueue d q fun x => { x with tail := t, stuck := false }).moveTseg d q).releaseDone d q)
  else s

/-- QUEUE_TAIL_STORE (R259): a host producer's store reaches the descriptor, and QP observes it. -/
def execQueueTailStore (die q : Nat) (v : BitVec 64) (s : State) : Host.Outcome State Fault Refusal :=
  .next (((s.land none 0 (cellsOf (s.queueDesc die q) (leBytes v.toNat 8))).acquireSys die).seeTail die q)

/-! ### Records and their checks (R260, R261, R266, R52, R432) -/

/-- A task record from its 128 bytes. -/
def parseTask (b : List Byte) : TaskRec :=
  { kdesc := field b 0 8, frame := field b 8 8, join := field b 0x10 8, teams := field b 0x18 4, lanes := field b 0x1C 2
    waves := field b 0x1E 1, width := field b 0x1F 1, prio := field b 0x20 1, flags := field b 0x21 1, attempt := field b 0x22 2
    tile := field b 0x24 4, stencil := field b 0x28 2, isores := field b 0x2C 4
    reservedOk := field b 0x2A 2 == 0 && field b 0x30 16 == 0
    unif := (List.range 16).map fun j => word (field b (0x40 + 4 * j) 4) }

def TaskRec.isIdem (r : TaskRec) : Bool := bit r.flags 0
def TaskRec.poison (r : TaskRec) : Bool := bit r.flags 1
def TaskRec.iso (r : TaskRec) : Bool := bit r.flags 2
def TaskRec.poisonOk (r : TaskRec) : Bool := bit r.flags 3
def TaskRec.gang (r : TaskRec) : Bool := bit r.flags 4
def TaskRec.tsb (r : TaskRec) : Bool := bit r.tile 31
def TaskRec.tileX (r : TaskRec) : Nat := fld r.tile 0 12
def TaskRec.tileY (r : TaskRec) : Nat := fld r.tile 12 12

/-- A kernel descriptor from its 64 bytes (R52). -/
def parseKernel (b : List Byte) : Kernel :=
  { entry := field b 0 4, tvec := field b 4 4, width := field b 8 1, regs := field b 9 1, flags := field b 10 1, prio := field b 11 1
    tarn := field b 12 4, cbase := field b 16 4, clen := field b 20 4, obj := field b 0x20 8
    reservedOk := field b 0x1C 4 == 0 && field b 0x28 24 == 0 }

def Kernel.pair (k : Kernel) : Bool := bit k.flags 0
def Kernel.isIdem (k : Kernel) : Bool := bit k.flags 1
def Kernel.role (k : Kernel) : Nat := fld k.flags 2 2

def widthOk (w : Nat) : Bool := w == 16 || w == 32 || w == 64
def regsOk (r : Nat) : Bool := 16 ≤ r && r ≤ 224 && r % 8 == 0

/-- A descriptor's fields lie in their ranges (R261). -/
def Kernel.ok (k : Kernel) : Bool :=
  k.entry < 2 ^ 20 && k.entry % 2 == 0 && k.tvec < 2 ^ 20 && k.tvec % 2 == 0 && widthOk k.width && regsOk k.regs
    && fld k.flags 4 4 == 0 && k.role != 3 && k.prio ≤ 7 && k.tarn % 256 == 0 && k.tarn ≤ 393216 && k.clen ≤ 65536
    && k.reservedOk && k.obj != 0 && k.obj % 512 == 0

/-- The fields of a record lie in their ranges; those of an ordinary record's shape, or zero for a gang launch block (R260, R265). -/
def TaskRec.fieldsOk (r : TaskRec) : Bool :=
  r.reservedOk && r.frame % 256 == 0 && r.prio < 8 && r.flags < 32 && fld r.tile 24 7 == 0 && r.stencil < 4096 && r.isores < 65536
    && (!r.iso || r.gang)
    && (if r.gang then r.teams == 0 && r.lanes == 0 && r.waves == 0 && r.width == 0
        else 1 ≤ r.teams && r.teams ≤ 2 ^ 24 && widthOk r.width && 1 ≤ r.waves && 1 ≤ r.lanes && r.lanes ≤ r.waves * r.width)

/-- The most waves that a team of a kernel has. -/
def Kernel.maxWaves (k : Kernel) : Nat := if k.pair then 32 else 16

/-- A readable load record with its magic number and a valid entry for the ENTRY overlay (R261, R432). -/
def loadRecordOk (k : Kernel) (b : List Byte) : Bool :=
  field b 0 4 == 0x52444C50 && bit (field b (0x20 + 8 * (k.entry / 65536)) 8) 63

/-- A kernel descriptor that passes every check of R261, read through a context. -/
def State.readKernel (s : State) (d : Nat) (sp : Space) (priv : Bool) (va : Nat) : Option Kernel × State :=
  match s.readVirtual d sp priv va 64 with
  | (none, s) => (none, s)
  | (some b, s) =>
    let k := parseKernel b
    if !k.ok || (k.pair && s.kindOf d == .geometry) then (none, s)
    else
      match s.readVirtual d sp priv k.obj 512 with
      | (none, s) => (none, s)
      | (some r, s) => (if loadRecordOk k r then some k else none, s)

/-- The roles of a gang's table, from entry e on; none where the table fails R266 (R261). -/
def State.readRoles (s : State) (d : Nat) (sp : Space) (priv : Bool) (tab : List Byte) : List Nat → Option (List Role) × State
  | [] => (some [], s)
  | e :: t =>
    let waves := field tab (16 * e + 8) 1
    let regs := field tab (16 * e + 9) 1
    if field tab (16 * e + 10) 6 ≠ 0 then (none, s)
    else if waves = 0 then s.readRoles d sp priv tab t
    else
      match s.readKernel d sp priv (field tab (16 * e) 8) with
      | (none, s) => (none, s)
      | (some k, s) =>
        if k.role ≠ [1, 0, 2].getD e 0 ∨ k.maxWaves < waves ∨ (regs ≠ 0 ∧ !regsOk regs) then (none, s)
        else
          match s.readRoles d sp priv tab t with
          | (none, s) => (none, s)
          | (some r, s) =>
            let k := { k with regs := if regs = 0 then k.regs else regs }
            (some ({ idx := e, kernel := k, waves := waves, lanes := waves * k.width } :: r), s)

/-- The team shapes of a record that passes the checks of R261, or none. -/
def State.checkRecord (s : State) (d : Nat) (q : Queue) (sp : Space) (r : TaskRec) : Option (List Role) × State :=
  if !r.fieldsOk || (r.tsb && q.tsbmap == 0) then (none, s)
  else if r.gang then
    if r.kdesc % 64 ≠ 0 then (none, s)
    else
      match s.readVirtual d sp q.priv r.kdesc 64 with
      | (none, s) => (none, s)
      | (some tab, s) =>
        if field tab 0x30 16 ≠ 0 then (none, s)
        else
          match s.readRoles d sp q.priv tab [0, 1, 2] with
          | (some (x :: t), s) => (some (x :: t), s)
          | (_, s) => (none, s)
  else
    match s.readKernel d sp q.priv r.kdesc with
    | (none, s) => (none, s)
    | (some k, s) =>
      if k.width ≠ r.width ∨ k.maxWaves < r.waves then (none, s)
      else (some [{ idx := 0, kernel := k, waves := r.waves, lanes := r.lanes }], s)

/-! ### The tile scoreboard (R272) -/

/-- The offsets that a stencil's bits name. -/
def stencilOffsets : List (Int × Int) :=
  [(-2, -2), (-1, -2), (0, -2), (1, -2), (2, -2), (-2, -1), (-1, -1), (0, -1), (1, -1), (2, -1), (-2, 0), (-1, 0)]

/-- The tiles of the map that a record's stencil names. -/
def TaskRec.waitsFor (r : TaskRec) : List (Nat × Nat) :=
  ((stencilOffsets.zip (List.range 12)).filter fun x => bit r.stencil x.2).filterMap fun x =>
    let tx := (r.tileX : Int) + x.1.1
    let ty := (r.tileY : Int) + x.1.2
    if 0 ≤ tx ∧ tx ≤ 4095 ∧ 0 ≤ ty ∧ ty ≤ 4095 then some (tx.toNat, ty.toNat) else none

/-- The two bits of a tile: retired, and above it poisoned. -/
def State.tileBits (s : State) (d map x y : Nat) : Nat :=
  let i := 4096 * y + x
  fld (s.viewNat d (map + i / 4) 1) (2 * (i % 4)) 2

/-- Sets a tile's retired bit, and its poisoned bit if told so. -/
def State.setTile (s : State) (d map x y : Nat) (poisoned : Bool) : State :=
  let i := 4096 * y + x
  let a := map + i / 4
  s.engineNat d a ((s.viewNat d a 1) ||| ((1 + 2 * ofBool poisoned) <<< (2 * (i % 4)))) 1

/-! ### Work and slots (R262 to R264) -/

/-- Teams of a launch: its roles for a gang, else its record's count. -/
def Launch.teamCount (l : Launch) : Nat := if l.rcd.gang then l.roles.length else l.rcd.teams

/-- The launch that a slot is admitting: taken in it, with teams left (R264). -/
def State.admitting (s : State) (d slot : Nat) : Option Nat :=
  (s.launches.find? fun l => l.2.die == d && l.2.slot == slot &&
    (l.2.phase == .taken || (l.2.phase == .running && l.2.teamsIn < l.2.teamCount))).map Prod.fst

/-- The slots of a die that unpinned queues share. -/
def State.freeSlots (s : State) (d : Nat) : Nat := 64 - (s.die d).pinned

/-- Remap of R263. -/
def State.remap (s : State) (d : Nat) : State :=
  let m := (s.remapOrder d).take (s.freeSlots d)
  let s := foldState (fun q s =>
    if q.2.mapped.isSome && !q.2.pin && !m.contains q.1 then s.unmapQueue d q.1 else s) (s.die d).queues s
  foldState (fun q s => if (s.queue d q).mapped.isNone then s.mapQueue d q else s) m s

/-- A held record of a die is enqueued where its queue takes it, and held on where it does not (R283, R382). -/
def State.retryHeld (s : State) (r : HeldRec) : State :=
  match s.enqueue r.die r.queue r.bytes with
  | (none, s) => s
  | (some slot, s) =>
    let s := { s with heldRecs := s.heldRecs.erase r }
    match r.spring with
    | some n => s.placeSpring n slot
    | none => s

/-- A tick of a die, every 20 µs: QP maps its queues anew, and the held records try again (R263, R283). -/
def State.tickQueues (s : State) (d : Nat) : State :=
  if (s.die d).lastTick + 2000 ≤ s.ref then
    let s := (s.modDie d fun x => { x with lastTick := s.ref }).remap d
    foldState (fun r s => s.retryHeld r) (s.heldRecs.filter fun r => r.die == d) s
  else s

/-- REMAP_TICK (R263). -/
def execRemapTick (die : Nat) (s : State) : Host.Outcome State Fault Refusal := .next (s.tickQueues die)

/-- SPRING_RETRY (R283): the tick at which a held record tries again. -/
def execSpringRetry (idx : Nat) (s : State) : Host.Outcome State Fault Refusal :=
  .next (match s.heldRecs[idx]? with
    | none => s
    | some r => s.tickQueues r.die)

/-- A slot whose queue has run out of work is given at once to the first unmapped queue of L (R263). -/
def State.releaseSlot (s : State) (d q : Nat) : State :=
  let x := s.queue d q
  if x.mapped.isSome && !x.pin && !s.hasWork d q then
    let s := s.unmapQueue d q
    match (s.remapOrder d).find? fun r => (s.queue d r).mapped.isNone with
    | some r => s.mapQueue d r
    | none => s
  else s

/-- A queue with work that has stayed unmapped for 10 ms rises one level (R262). -/
def State.ageQueue (s : State) (d q : Nat) : State :=
  let x := s.queue d q
  if x.en && x.mapped.isNone && s.hasWork d q && x.level < 7 && max x.agedAt x.unmappedAt + 1000000 ≤ s.ref then
    s.modQueue d q fun x => { x with aged := x.aged + 1, agedAt := s.ref }
  else s

/-- QUEUE_AGING (R262). -/
def execQueueAging (die q : Nat) (s : State) : Host.Outcome State Fault Refusal := .next (s.ageQueue die q)

/-- What time brings about in the queues of a die: levels rise, ticks come, and segments whose records have completed are released once they are
linked (R258, R262, R263). -/
def State.settleQueues (s : State) (d : Nat) : State :=
  let s := foldState (fun q s => s.ageQueue d q.1) (s.die d).queues s
  foldState (fun q s => if 31 ≤ q.2.done.length then s.releaseDone d q.1 else s) (s.die d).queues (s.tickQueues d)

/-! ### Taking records (R261, R264) -/

/-- The slot of position HEAD, when its segment is reached; QP stops at a link of 0 until a later TAIL store (R259). -/
def State.headSlot (s : State) (d q : Nat) : Option Nat × State :=
  let x := s.queue d q
  let at_ (seg : Nat) : Nat := seg + 128 * (x.head % 31)
  if x.stuck then (none, s)
  else
    let (seg, k) := s.followLinks d x.headSeg (x.head / 31 - x.headIdx)
    let s := if k = 0 then s else s.modQueue d q fun x => { x with headSeg := seg, headIdx := x.headIdx + k }
    if x.head / 31 ≤ x.headIdx + k then (some (at_ seg), s) else (none, s.modQueue d q fun x => { x with stuck := x.hostq })

/-- The record that a slot offers next: position and slot address, re-queued records first. -/
def State.offeredRecord (s : State) (d q : Nat) : Option (Nat × Nat) × State :=
  let x := s.queue d q
  match x.requeued with
  | r :: _ => (some r, s)
  | [] =>
    if x.head < x.tail then
      match s.headSlot d q with
      | (some a, s) => (some (x.head, a), s)
      | (none, s) => (none, s)
    else (none, s)

/-- The record at a position leaves the offer: HEAD passes it, or it leaves the re-queued ones. -/
def State.passRecord (s : State) (d q : Nat) : State :=
  let x := s.queue d q
  match x.requeued with
  | _ :: t => s.modQueue d q fun x => { x with requeued := t }
  | [] => (s.modQueue d q fun x => { x with head := x.head + 1 }).engineNat d (s.queueDesc d q + 8) (x.head + 1) 8

/-- QP takes a record: the checks of R261, then poison (R273). The record has left the offer. -/
def State.takeRecord (s : State) (d q : Nat) (sp : Space) (pos slot : Nat) (poisoned : Bool) : State :=
  let x := s.queue d q
  let r := parseTask (s.viewBytes d slot 128)
  let (roles, s) := s.checkRecord d x sp r
  let (l, s) := s.fresh
  let r := { r with flags := if poisoned && !r.poison then r.flags + 2 else r.flags }
  let base : Launch := { die := d, queue := q, pos := pos, recPa := slot, rcd := r, space := sp, priv := x.priv, offered := s.ref, slot := x.slot }
  let entry : Launch := match roles with
    | none => { base with phase := .ended, status := 1, causeAcc := Cause.ill.mask }
    | some rs =>
      if r.poison && !r.poisonOk then { base with phase := .ended, status := 2 }
      else { base with roles := rs, idem := r.isIdem || rs.any fun x => x.kernel.isIdem }
  { s with launches := s.launches.put l entry }

/-- RECORD_TAKE (R261, R264, R272): a mapped queue of an enabled context, whose slot admits no launch, gives the record
it offers; one whose tiles are not all retired is held. -/
def execRecordTake (die q : Nat) (s : State) : Host.Outcome State Fault Refusal :=
  let s := s.seeTail die q
  let x := s.queue die q
  let (sp, usable) := s.context die x.ctx
  if !x.en || x.mapped.isNone || !usable || (s.admitting die x.slot).isSome then .next s
  else
    match s.offeredRecord die q with
    | (none, s) => .next s
    | (some (pos, slot), s) =>
      let r := parseTask (s.viewBytes die slot 128)
      let tiles := if r.tsb && x.tsbmap != 0 && r.fieldsOk then r.waitsFor.map fun t => s.tileBits die x.tsbmap t.1 t.2 else []
      if tiles.any fun b => b % 2 == 0 then .next s
      else
        .next ((((s.passRecord die q).takeRecord die q sp pos slot (tiles.any fun b => 2 ≤ b)).releaseDone die q).releaseSlot die q)

/-! ### Requests to discard (R278, R280) -/

/-- A store to PREEMPT: every running launch of the queue that is IDEM and not ISO. -/
def State.writePreempt (s : State) (d v : Nat) : State :=
  if !bit v 31 then s
  else
    foldState (fun l s =>
      if l.2.die = d ∧ l.2.queue = fld v 0 12 ∧ l.2.phase = .running ∧ l.2.idem ∧ !l.2.rcd.iso then s.requestDiscard l.1 else s) s.launches s

/-- PREEMPT_WRITE (R278). -/
def execPreemptWrite (die : Nat) (v : BitVec 64) (s : State) : Host.Outcome State Fault Refusal := .next (s.writePreempt die v.toNat)

/-- A request pending for longer than PMASKMAX notes TIMEOUT, once, in each thread of each masked wave (R280). -/
def State.settleTimeout (s : State) (launch : Nat) : State :=
  let l := s.launch launch
  let limit := let m := (s.queue l.die l.queue).pmaskMax; 100 * (if m = 0 then 1000 else m)
  match l.request with
  | none => s
  | some t =>
    if l.timedOut || s.ref ≤ t + limit then s
    else
      let s := s.modLaunch launch fun l => { l with timedOut := true }
      let masked := ((s.waves.map Prod.snd) ++ s.parked.map fun p => p.2.wave).filter fun w => w.launch == launch && w.pmask != 0
      foldState (fun w s => foldState (fun p s => s.note w.uid p .timeout 0) w.positions s) masked s

/-- PMASK_TIMEOUT (R280): a clk in which it is due notes it. -/
def execPmaskTimeout (launch : Nat) (s : State) : Host.Outcome State Fault Refusal := .next (s.settleTimeout launch)

/-- PMASK (R320). -/
def execPmask (s : State) : Host.Outcome State Fault Refusal :=
  .next (s.runUnit .pmask 0 (allDone fun s _ => s.modWave s.cur.wave fun w => { w with pmask := min 255 (w.pmask + 1) }))

/-- PUNMASK (R320): a pending discard takes place when it completes and the launch is outside every region. -/
def execPunmask (s : State) : Host.Outcome State Fault Refusal :=
  let l := s.me.launch
  .next ((s.runUnit .punmask 0 (allDone fun s _ =>
    s.modWave s.cur.wave fun w => { w with pmask := w.pmask - 1 })).settleRequest l)

/-- A store to COREEN0 or COREEN1. -/
def State.writeCoreen (s : State) (d : Nat) (hi : Bool) (v : Word64) : State :=
  s.modDie d fun x => if hi then { x with coreen1 := v.extractLsb' 0 32 } else { x with coreen0 := v }

/-- COREEN_WRITE (R254, R284). -/
def execCoreenWrite (die : Nat) (hi : Bool) (v : BitVec 64) (s : State) : Host.Outcome State Fault Refusal := .next (s.writeCoreen die hi v)

end Sys2Proof.Machine
end

