-- ==== Sys2Proof/Machine/Admit.lean ====
section
/-! DEFINITION. Admission (R11, R129, R130, R134, R140, R188, R264 to R267, R284), parking and resumption (R154 to R156, R276, R277), and QP's
selection for discard (R278). -/

namespace Sys2Proof.Machine

open Sys2Proof

/-! ### Room on a core -/

/-- Register blocks in use on a lane (R130). -/
def State.laneBlocks (s : State) (core lane : Nat) : Nat :=
  ((s.waves.filter fun w => coreOfWave w.1 == core && w.2.base ≤ lane && lane < w.2.base + w.2.width).map fun w => w.2.budget / 8).sum

/-- A wave of a width and budget fits at a place (R127, R130). -/
def State.roomFor (s : State) (p : WavePlace) (width budget : Nat) : Bool :=
  p.slot < 16 && (s.waves.find (16 * p.core + p.slot)).isNone && p.base % width == 0 && p.base + width ≤ 64
    && (upFrom p.base width).all fun l => s.laneBlocks p.core l + budget / 8 ≤ 224

/-- Tarn ranges of a core that are in use: shares, and copies whose share is gone (R134). -/
def State.tarnRanges (s : State) (core : Nat) : List (Nat × Nat) :=
  (s.teams.filterMap fun t => (t.2.tarnBase core).map fun b => (b, t.2.tarnLen))
    ++ (s.cores.flatMap fun c => (c.2.copies.filter fun x => x.tarnCore == core).map fun x => (x.tarnOff, x.len))

/-- A Tarn share of a length fits at a base. -/
def State.tarnFree (s : State) (core base len : Nat) : Bool :=
  len == 0 || (base + len ≤ 393216 && (s.tarnRanges core).all fun r => !rangesMeet base len r.1 r.2)

/-- A core's COREEN bit is set (R254). -/
def State.coreEnabled (s : State) (core : Nat) : Bool :=
  let i := core % 128
  let x := s.die (dieOfCore core)
  if i < 64 then x.coreen0.getLsbD i else x.coreen1.getLsbD (i - 64)

/-- The core exists on its die, its COREEN bit is set, and an upper core is ON (R206, R254, R284). -/
def State.coreOpen (s : State) (core : Nat) : Bool :=
  let d := dieOfCore core
  let i := core % 128
  let there := match s.kindOf d with | .shading => i < 96 | .geometry => i < 32 | .basin | .absent => false
  there && s.coreEnabled core
    && (tierOfCore core == 0 || s.kindOf d == .geometry || (s.gate (clusterOfCore core) (pairOfCore core)).st == .on)

/-- Slot 0 holds a kernel's ENTRY overlay (R140). -/
def State.entryResident (s : State) (core : Nat) (k : Kernel) : Bool :=
  let o := (s.core core).slot0
  o.st == .resident && o.obj == k.obj && o.n == k.entry / 65536

/-- A core may take a team of a kernel as far as its overlays decide (R140). -/
def State.objectFits (s : State) (core : Nat) (k : Kernel) : Bool :=
  s.entryResident core k ||
    (!(s.waves.any fun w => coreOfWave w.1 == core && w.2.obj != k.obj)
      && !(s.parked.any fun p => p.2.homeCore == core && p.2.wave.obj != k.obj))

/-- Slot 0 of a core that does not hold a kernel's ENTRY overlay is to be loaded with it: what it held is gone, a load that is pending there
included (R140, R160). -/
def State.claimSlot0 (s : State) (core : Nat) (k : Kernel) : State :=
  if s.entryResident core k then s else s.modCore core fun c => { c with slot0 := { st := .loading, obj := k.obj, n := k.entry / 65536 } }

/-! ### Voltage islands (R187, R203) -/

/-- The island that supplies an octet of a core. -/
def islandOf (core octet : Nat) : Nat := 4 * pairOfCore core + octet / 2

/-- The islands of a core are NOMINAL, as a wave of an ISO gang is resident there (R203). -/
def State.holdNominal (s : State) (core : Nat) : State :=
  s.modCluster (clusterOfCore core) fun c => { c with islands := c.islands.filter fun i => i.1 / 4 != pairOfCore core }

/-! ### Creating waves and teams -/

/-- A thread at its creation (R11). -/
def newThread (entry base : Nat) (ended : Bool) (p : Nat) : Thread :=
  { ended := ended, pc := word entry, lfsr := 0xACE1 ^^^ (word (base + p) * 0x9E3779B9) }

/-- A wave at its creation (R11, R261, R273). TID counts TEAM × LANES of the wave's own role: in a gang whose roles differ in LANES the TIDs of two
roles may meet, which R21 leaves open (log 50). The wave stands outside the window until it enters (R131). -/
def newWave (l : Launch) (lid team : Nat) (r : Role) (teamIdx wid uid base : Nat) (consts : ObjCopy) (clock : Nat) : Wave :=
  let k := r.kernel
  { uid := uid, launch := lid, team := team, wid := wid, teamIdx := teamIdx, width := k.width, base := base
    tidBase := teamIdx * r.lanes + wid * k.width, budget := k.regs, obj := k.obj
    constBase := consts.const + k.cbase, clen := k.clen, space := l.space, priv := l.priv
    threads := (List.range k.width).map fun p => newThread k.entry base (decide (r.lanes ≤ wid * k.width + p)) p
    w := (List.range 16).foldl (fun w j => Tab.putD w 0 j (l.rcd.unif.getD j 0)) []
    cause := if l.rcd.poison then Cause.poison.mask else 0
    tvec := word k.tvec, admitted := clock, inWindow := false }

/-- Waves of a team are created at their places, in WID order; none when one does not fit. -/
def State.placeWaves (s : State) (l : Launch) (lid team : Nat) (r : Role) (teamIdx : Nat) : Nat → List WavePlace → Option State
  | _, [] => some s
  | wid, p :: t =>
    if !s.roomFor p r.kernel.width r.kernel.regs then none
    else
      let (uid, s) := s.fresh
      let w := newWave l lid team r teamIdx wid uid p.base ((s.die l.die).objs.get {} r.kernel.obj) s.clock
      let s := if l.rcd.iso then s.holdNominal p.core else s
      (s.setWave (16 * p.core + p.slot) w).placeWaves l lid team r teamIdx (wid + 1) t

/-- Waves that a team has (R261). -/
def Role.waveCount (r : Role) : Nat := ceilDiv r.lanes r.kernel.width

/-- The cores of a team's places: one core, or a pair's two with the lower half of the WIDs on the lower core (R129). -/
def placeCores (r : Role) (p : TeamPlace) : Option (List Nat) :=
  let n := r.waveCount
  if p.waves.length ≠ n then none
  else
    match p.waves with
    | [] => none
    | w :: _ =>
      if r.kernel.pair then
        let low := ceilDiv n 2
        if w.core % 2 = 0 ∧ (p.waves.take low).all (·.core == w.core) ∧ (p.waves.drop low).all (·.core == w.core + 1)
        then some [w.core, w.core + 1] else none
      else if p.waves.all (·.core == w.core) then some [w.core] else none

/-- A Tarn share reads 0 at admission (R134). -/
def State.clearTarn (s : State) (core base len : Nat) : State :=
  s.modCore core fun c => { c with
    tarn := c.tarn.filter fun b => !(base ≤ b.1 && b.1 < base + len)
    tarnPoison := c.tarnPoison.filter fun w => !(base ≤ 4 * w && 4 * w < base + len)
    tarnBad := c.tarnBad.filter fun w => !(base ≤ 4 * w && 4 * w < base + len) }

/-- One team of a role is placed whole, or none (R129): slots, lanes, blocks and Tarn on cores that are open and free for its object. -/
def State.placeTeam (s : State) (lid : Nat) (r : Role) (teamIdx : Nat) (p : TeamPlace) : Option State :=
  let l := s.launch lid
  match placeCores r p with
  | none => none
  | some cores =>
    let len := r.kernel.tarn
    let bases := if len = 0 then cores.map fun _ => 0 else p.tarn
    if bases.length ≠ cores.length ∨ !(cores.all fun c => dieOfCore c == l.die && s.coreOpen c && s.objectFits c r.kernel)
        ∨ !((cores.zip bases).all fun x => s.tarnFree x.1 x.2 len) then none
    else
      let (id, s) := s.fresh
      let team : Team := { launch := lid, idx := teamIdx, pair := r.kernel.pair, cores := cores, tarn := bases, tarnLen := len
                           waves := List.range r.waveCount }
      let s := { s with teams := s.teams.put id team }
      let s := foldState (fun x s => (s.clearTarn x.1 x.2 len).claimSlot0 x.1 r.kernel) (cores.zip bases) s
      let cl := clusterOfCore (cores.headD 0)
      let pair := pairOfCore (cores.headD 0)
      let s := if r.kernel.pair && ((s.cluster cl).fifoOwner.find pair).isNone then
          s.modCluster cl fun c => { c with fifoOwner := c.fifoOwner.put pair id } else s
      s.placeWaves l lid id r teamIdx 0 p.waves

/-- The roles that the next admission of a launch places: a gang's whole, else one team (R264, R265). -/
def Launch.nextRoles (l : Launch) : List (Role × Nat) :=
  if l.rcd.gang then l.roles.map fun r => (r, r.idx)
  else (l.roles.take 1).map fun r => (r, l.teamsIn)

/-- An ISO gang fits beside the reservations of its die and cluster (R267). -/
def State.isoFits (s : State) (l : Launch) (cl : Nat) : Bool :=
  let gangs := s.launches.filter fun x => x.2.phase == .running && x.2.rcd.iso && x.2.die == l.die
  let here := gangs.filter fun x => x.2.cluster == cl
  let sum (f : TaskRec → Nat) : Nat := (here.map fun x => f x.2.rcd).sum + f l.rcd
  !l.rcd.iso || (gangs.length < 4 && sum (fun r => fld r.isores 0 8) ≤ 128 && sum (fun r => fld r.isores 8 8) ≤ 128)

/-- The die's copy of an object, read at the first team of a launch whose object has no other launch there (R432). A load record that can no longer be
read then leaves the die without a copy: what R432 does with it is open (log 51). -/
def State.takeObject (s : State) (l : Launch) (obj : Nat) : State :=
  if ((s.die l.die).objs.find obj).isSome then s
  else
    match s.readVirtual l.die l.space l.priv obj 512 with
    | (none, s) => s
    | (some b, s) =>
      let tab (at_ n : Nat) : Tab Word64 := (List.range 16).map fun j => (j, BitVec.ofNat 64 (field b (at_ + n * j) n))
      let c : ObjCopy := { obj := obj, const := field b 8 8, constLen := field b 16 4, ovltab := tab 0x20 8, tabaddr := tab 0xA0 8
                           ntab := (List.range 16).map fun j => (j, field b (0x120 + j) 1) }
      s.modDie l.die fun x => { x with objs := x.objs.put obj c }

/-- Roles are placed in order, all in one cluster; none when one does not fit. -/
def State.placeRoles (s : State) (lid : Nat) : List (Role × Nat) → List TeamPlace → Option State
  | [], [] => some s
  | (r, t) :: rs, p :: ps =>
    match s.placeTeam lid r t p with
    | none => none
    | some s => s.placeRoles lid rs ps
  | _, _ => none

/-- The cluster of some places, if they share one. -/
def placesCluster (ps : List TeamPlace) : Option Nat :=
  match ps.flatMap fun p => p.waves.map fun w => clusterOfCore w.core with
  | [] => none
  | c :: t => if t.all (· == c) then some c else none

/-- The wave of a spring is about to be created: words 4, 6 and 7 of its record take the entry's values, the die acquires at SYS, and the spring
stops being pending (R366 to R368). -/
def State.createSpring (s : State) (lid : Nat) : State :=
  let l := s.launch lid
  match s.springs.find? fun x => x.2.recPa == some l.recPa with
  | none => s
  | some (_, x) =>
    let va := x.base + x.granule
    let words := [(4, x.count), (6, fld va 0 32), (7, fld va 32 32)]
    let s := foldState (fun (w : Nat × Nat) s => s.engineNat l.die (l.recPa + 0x40 + 4 * w.1) w.2 4) words s
    let s := s.modLaunch lid fun y =>
      { y with rcd := { y.rcd with unif := words.foldl (fun u w => listSet u w.1 (word w.2)) y.rcd.unif } }
    (s.acquireSys l.die).endSpring l.recPa

/-- The next admission of a launch at some places, before its ENTRY loads, or none where it does not fit. -/
def State.admitAt (s : State) (lid : Nat) (ps : List TeamPlace) : Option State :=
  let l := s.launch lid
  match placesCluster ps with
  | none => none
  | some cl =>
    if !s.isoFits l cl then none
    else
      let s := (foldState (fun o s => s.takeObject l o) l.objects s).createSpring lid
      (s.placeRoles lid l.nextRoles ps).map fun s => s.modLaunch lid fun x => { x with
        phase := .running, teamsIn := x.teamsIn + x.nextRoles.length, cluster := cl
        began := if x.phase = .running then x.began else s.clock }

/-! ### Whether offered work fits -/

/-- The bases at which a Tarn share might go: 0, and after each range in use. -/
def State.tarnBases (s : State) (core : Nat) : List Nat := 0 :: (s.tarnRanges core).map fun r => ceilDiv (r.1 + r.2) 256 * 256

/-- The lowest free slot of a core. -/
def State.lowestSlot (s : State) (core : Nat) : Nat := ((List.range 16).find? fun j => (s.waves.find (16 * core + j)).isNone).getD 16

/-- All the ways to place n waves of a role on the lanes of a core, one after another. -/
def State.wavePlaces (s : State) (r : Role) (core : Nat) : Nat → List (List WavePlace)
  | 0 => [[]]
  | n + 1 =>
    let width := r.kernel.width
    (List.range (64 / width)).flatMap fun j =>
      let p : WavePlace := ⟨core, s.lowestSlot core, width * j⟩
      if s.roomFor p width r.kernel.regs then
        ((s.setWave (16 * core + p.slot) { width := width, base := p.base, budget := r.kernel.regs }).wavePlaces r core n).map (p :: ·)
      else []

/-- The bases at which a role's Tarn share fits on a core. -/
def State.sharePlaces (s : State) (r : Role) (core : Nat) : List Nat := (s.tarnBases core).filter fun b => s.tarnFree core b r.kernel.tarn

/-- The places for a team of a role on a core, or on the pair that begins there: every way to lay out its waves, and every base at which its shares
lie against another's end. -/
def State.teamPlaces (s : State) (r : Role) (core : Nat) : List TeamPlace :=
  let n := r.waveCount
  if r.kernel.pair then
    (s.wavePlaces r core (ceilDiv n 2)).flatMap fun a => (s.wavePlaces r (core + 1) (n - ceilDiv n 2)).flatMap fun b =>
      (s.sharePlaces r core).flatMap fun x => (s.sharePlaces r (core + 1)).map fun y => ⟨a ++ b, [x, y]⟩
  else (s.wavePlaces r core n).flatMap fun a => (s.sharePlaces r core).map fun x => ⟨a, [x]⟩

/-- Some choice of places in a cluster takes all of some roles together. -/
def State.fitsRoles (s : State) (lid cl : Nat) : List (Role × Nat) → Bool
  | [] => true
  | (r, t) :: rs =>
    (upFrom (8 * cl) 8).any fun core => (s.teamPlaces r core).any fun p =>
      match s.placeTeam lid r t p with
      | some s => s.fitsRoles lid cl rs
      | none => false

/-- The clusters of a die. -/
def clustersOf (d : Nat) : List Nat := upFrom (16 * d) 12

/-- The next admission of a launch fits somewhere. -/
def State.launchFits (s : State) (lid : Nat) : Bool :=
  let l := s.launch lid
  (clustersOf l.die).any fun cl => s.isoFits l cl && s.fitsRoles lid cl l.nextRoles

/-- The cores on which a continuation may resume (R156): its home core after a wait on tags; where its team holds Tarn, the team's core or pair; such a one
on none while the COREEN bit of its home
core, or of another core of its pair team, is clear (R284). -/
def State.contCores (s : State) (p : Parked) : List Nat :=
  let team := s.team p.team
  let onTags := match p.wait with | .tags _ _ => true | .barrier _ _ | .timeline _ _ | .semaphore _ _ => false
  let bound := onTags || team.tarnLen != 0
  (if onTags then [p.homeCore] else if bound then team.cores else upFrom (128 * p.die) 96).filter fun c =>
    s.coreOpen c && (!bound || (s.coreEnabled p.homeCore && (!team.pair || team.cores.all s.coreEnabled)))

/-- A ready continuation fits somewhere. -/
def State.contFits (s : State) (p : Parked) : Bool :=
  (s.contCores p).any fun core =>
    !(s.wavePlaces { kernel := { width := p.wave.width, regs := p.wave.budget } } core 1).isEmpty

/-- The rank of a launch's offered work in a slot (R264): the higher record PRIO first, then the slot that admitted least recently, then the lower
slot. -/
def State.offerRank (s : State) (lid slot : Nat) : Nat :=
  let l := s.launch lid
  ((7 - l.rcd.prio) * 2 ^ 64 + min (2 ^ 64 - 1) ((s.die l.die).slotAdmit.get 0 slot)) * 64 + slot

/-- The slot that offers a launch's continuations: its queue's, while it is mapped. -/
def State.contSlot (s : State) (lid : Nat) : Option Nat :=
  let q := s.queue (s.launch lid).die (s.launch lid).queue
  if q.mapped.isSome then some q.slot else none

/-- Some offered work of the die that ranks ahead of a rank fits: a ready continuation of a mapped queue, or a launch with teams left. -/
def State.betterFits (s : State) (d rank : Nat) : Bool :=
  (s.parked.any fun p => p.2.die == d && p.2.ready && (s.contSlot p.2.launch).any (fun k => s.offerRank p.2.launch k < rank) && s.contFits p.2)
    || s.launches.any fun l =>
      l.2.die == d && s.offerRank l.1 l.2.slot < rank && s.admitting d l.2.slot == some l.1 && s.launchFits l.1

/-- A slot has just admitted work of a queue. -/
def State.slotAdmitted (s : State) (d q slot : Nat) : State :=
  (s.modDie d fun x => { x with slotAdmit := x.slotAdmit.put slot (s.clock + 1) }).releaseSlot d q

/-! ### The ENTRY load (R52, R140) -/

/-- The ENTRY overlay of a role is loaded into slot 0 of a core that does not hold it; none where a read fails, and, by the model's choice, where the
die's copy of the overlay table holds no valid entry any more (log 51). -/
def State.loadEntry (s : State) (l : Launch) (k : Kernel) (core : Nat) : Option State :=
  if s.entryResident core k then some s
  else
    let n := k.entry / 65536
    match ovlEntry ((s.objCopy l.die k.obj).ovltab.get 0 n) with
    | none => none
    | some (va, len) =>
      match s.planLoad l.die l.space l.priv k.obj n va len with
      | (.error _, _) => none
      | (.ok x, s) => some (s.modCore core fun c => { c with slot0 := s.loadedSlot l.die x })

/-- The ENTRY overlays of the roles at their places. -/
def State.loadEntries (s : State) (l : Launch) : List (Kernel × Nat) → Option State
  | [] => some s
  | (k, core) :: t =>
    match s.loadEntry l k core with
    | none => none
    | some s => s.loadEntries l t

/-- The slot of a launch's queue has a ready continuation to offer, which goes first (R264). -/
def State.ownFirst (s : State) (l : Launch) : Bool :=
  s.parked.any fun p => (s.launch p.2.launch).queue == l.queue && p.2.die == l.die && p.2.ready && (s.contSlot p.2.launch).isSome && s.contFits p.2

/-- TEAM_ADMIT (R129, R140, R264): the next team of a launch, or a whole gang, is admitted where it fits, in the order of R264. A failed ENTRY load ends
the launch. What a slot has taken is admitted though its queue is unmapped meanwhile (R263). -/
def execTeamAdmit (launch : Nat) (places : List TeamPlace) (s : State) : Host.Outcome State Fault Refusal :=
  let l := s.launch launch
  if s.admitting l.die l.slot != some launch || s.ownFirst l || s.betterFits l.die (s.offerRank launch l.slot) then .next s
  else
    match s.admitAt launch places with
    | none => .next s
    | some t =>
      let entries := (l.nextRoles.zip places).flatMap fun x => ((placeCores x.1.1 x.2).getD []).map fun c => (x.1.1.kernel, c)
      match t.loadEntries (t.launch launch) entries with
      | some t => .next ((t.modLaunch launch fun x => { x with offered := s.ref }).slotAdmitted l.die l.queue l.slot)
      | none => .next ((s.modLaunch launch fun x => { x with phase := .running }).faultLaunch launch Cause.ill.mask 0 0)

/-! ### Parking (R155, R276, R277) -/

/-- The continuation area of a wave (R276): WAVES × TEAM + WID, or 32 × role + WID for a gang. -/
def Launch.areaOf (l : Launch) (w : Wave) : Nat :=
  l.rcd.frame + 5376 * ((if l.rcd.gang then 32 else l.rcd.waves) * w.teamIdx + w.wid)

/-- Words of a thread's part of the area. -/
def threadArea (t : Thread) : List Byte :=
  leBytes t.pc.toNat 4 ++ leBytes (t.m.toNat - t.m.toNat % 2) 1 ++ zeros 3
    ++ ((List.range 16).flatMap fun n => leBytes (t.v.get 0 n).toNat 4) ++ zeros 8

/-- The mask of the threads that have not ended. -/
def Wave.liveMask (w : Wave) : Nat :=
  (w.positions.filter fun p => !(w.thread p).ended).foldl (fun n p => n + 2 ^ p) 0

/-- The bytes of a continuation; the form of the wait's 32 bytes is not given, so they are free. -/
def continuation (w : Wave) (wait : List Byte) : List Byte :=
  leBytes w.liveMask 8 ++ wait ++ leBytes w.mtype.toNat 4 ++ leBytes w.tvec.toNat 4 ++ leBytes w.cause.toNat 4 ++ zeros 12
    ++ ((List.range 16).flatMap fun j => leBytes (w.w.get 0 j).toNat 4) ++ zeros 128
    ++ w.threads.flatMap threadArea

/-- Stores bytes through a translated range; through an RGN page at the tile's home (R384). -/
def State.storeRange (s : State) (d : Nat) (m : List (Nat × Nat × Nat)) (va : Nat) : List Byte → State
  | [] => s
  | b :: t =>
    let pa := rangePa m va
    let rgn := pteRgn (rangeLeaf m va)
    let s := s.touchRgn d pa rgn
    (s.store d { agent := qpAgent, pa := pa, data := [b], tile := rgn }).storeRange d m (va + 1) t

/-- An armed wave may park (R155): its wait has outlasted the threshold, nothing of it is held or outstanding, no query of it lives (R328), it has a
frame, and QP has room. -/
def State.mayPark (s : State) (k : Nat) : Bool :=
  match s.waves.find k with
  | none => false
  | some w =>
    match w.wait, w.park with
    | some _, some n =>
      w.waitSince + n.toNat < s.clock && !s.waitDone k && w.threads.all (fun t => t.held.isNone) && !s.outstanding w.uid
        && !(s.queries.any fun q => q.2.uid == w.uid)
        && (s.launch w.launch).rcd.frame != 0 && (s.launch w.launch).doneAt.isNone
        && (s.parked.filter fun p => p.2.die == dieOfWave k).length < 8192
    | _, _ => false

/-- PARK_WRITE_OUT (R155, R276). -/
def execParkWriteOut (wave : Nat) (s : State) : Host.Outcome State Fault Refusal :=
  let w := s.wave wave
  let d := dieOfWave wave
  let va := (s.launch w.launch).areaOf w
  if !s.mayPark wave then .next s
  else
    match s.translateRange d w.space (fun e => writable w.priv e && notControl e && pteFmt e == 0) va 5376 with
    | (.error _, s) => .next s
    | (.ok m, s) =>
      let (wait, s) := s.freeBytes 32
      let s := s.storeRange d m va (continuation w wait)
      let s := s.releaseDrains wave
      let s := s.modCore (coreOfWave wave) fun c => { c with reservation := c.reservation.filter fun r => r.1 != wave }
      let kept := { s.wave wave with wait := none, park := none, collector := [], denied := none, override := none }
      let (id, s) := s.fresh
      let entry : Parked := { launch := w.launch, team := w.team, wid := w.wid, die := d, homeCore := coreOfWave wave, frameVa := va
                              wait := w.wait.getD (.tags true 0), wave := kept, ready := false }
      .next { s with waves := s.waves.del wave, parked := s.parked.put id entry }

/-! ### Resumption (R156) -/

/-- A 4-byte word of a continuation on its return, from its physical address and leaf: the value written out or what the area holds now (R276). -/
def State.contWord (s : State) (d : Nat) (at_ : Option (Nat × Nat)) (kept : Word) : Word × State :=
  match at_ with
  | none => (kept, s)
  | some (pa, e) =>
    let now := word (leNat ((upFrom pa 4).map (s.seenByte d e)))
    if now = kept then (kept, s)
    else
      let (b, s) := s.freeBit
      (if b then now else kept, s)

/-- Consecutive words of the area from an address on, beside the values written out. -/
def State.contWords (s : State) (d : Nat) (pa : Nat → Option (Nat × Nat)) (va : Nat) : List Word → List Word × State
  | [] => ([], s)
  | x :: t =>
    let (y, s) := s.contWord d (pa va) x
    let (r, s) := s.contWords d pa (va + 4) t
    (y :: r, s)

/-- A table of the non-zero words of a list. -/
def wordTab (at_ : Nat) : List Word → Tab Word
  | [] => []
  | x :: t => if x = 0 then wordTab (at_ + 1) t else (at_, x) :: wordTab (at_ + 1) t

/-- Free words (log 13). -/
def State.freeWords (s : State) : Nat → List Word × State
  | 0 => ([], s)
  | n + 1 =>
    let (t, s) := s.freeWords n
    (Config.freeWord s.freeCtr :: t, { s with freeCtr := s.freeCtr + 1 })

/-- One thread's registers on resumption: V0 to V15, the PC and the predicates from the area; V16 and above and O0 to O7 are free; the others are as
at creation (R11, R21). A thread that parked in its trap handler is still in it: nothing that R156 names takes it out (R23). -/
def State.resumeThread (s : State) (d : Nat) (pa : Nat → Option (Nat × Nat)) (va budget base p : Nat) (t : Thread) : Thread × State :=
  let a := va + 0x100 + 80 * p
  let (pm, s) := s.contWords d pa a [t.pc, t.m.zeroExtend 32 &&& 0xFE]
  let (vs, s) := s.contWords d pa (a + 8) ((List.range 16).map (t.v.get 0))
  let (vu, s) := s.freeWords (budget - 16)
  let (os, s) := s.freeWords 8
  let fresh := newThread 0 base t.ended p
  ({ fresh with
     pc := pm.getD 0 0
     m := (pm.getD 1 0).extractLsb' 0 8 ||| 1
     v := wordTab 0 (vs ++ vu)
     o := wordTab 0 os
     inHandler := t.inHandler
     noted := t.noted }, s)

/-- The threads of a wave on resumption; one that has ended stays ended. -/
def State.resumeThreads (s : State) (d : Nat) (pa : Nat → Option (Nat × Nat)) (va budget base : Nat) : Nat → List Thread → List Thread × State
  | _, [] => ([], s)
  | p, t :: rest =>
    let (x, s) := if t.ended then (t, s) else s.resumeThread d pa va budget base p t
    let (xs, s) := s.resumeThreads d pa va budget base (p + 1) rest
    (x :: xs, s)

/-- CONTINUATION_RESUME (R156, R264): a ready continuation of a mapped queue is admitted at a place and resumes after its wait. -/
def execContinuationResume (parked : Nat) (place : WavePlace) (s : State) : Host.Outcome State Fault Refusal :=
  match s.parked.find parked with
  | none => .next s
  | some p =>
    let w := p.wave
    let q := (s.launch p.launch).queue
    let slot := (s.queue p.die q).slot
    if !p.ready || (s.queue p.die q).mapped.isNone || !(s.contCores p).contains place.core
        || !s.roomFor place w.width w.budget || s.betterFits p.die (s.offerRank p.launch slot) then .next s
    else
      let (m, s) := s.translateRange p.die w.space (fun e => readable w.priv e && notControl e) p.frameVa 5376
      let pa (va : Nat) : Option (Nat × Nat) := match m with | .ok r => some (rangePa r va, rangeLeaf r va) | .error _ => none
      let (hd, s) := s.contWords p.die pa (p.frameVa + 0x28) [w.mtype, w.tvec, w.cause]
      let (ws, s) := s.contWords p.die pa (p.frameVa + 0x40) ((List.range 16).map (w.w.get 0))
      let (ts, s) := s.resumeThreads p.die pa p.frameVa w.budget place.base 0 w.threads
      let w := { w with
        base := place.base, mtype := hd.getD 0 0, tvec := hd.getD 1 0, cause := hd.getD 2 0, w := wordTab 0 ws, threads := ts
        admitted := s.clock, inWindow := false, coldWait := false, yieldTo := [], holdSince := none, inPlace := none, cand := none }
      let sys := match p.wait with | .semaphore _ _ => true | .tags _ _ | .barrier _ _ | .timeline _ _ => false
      let s := { s with parked := s.parked.del parked }
      let s := if (s.launch p.launch).rcd.iso then s.holdNominal place.core else s
      let s := (s.setWave (16 * place.core + place.slot) w).slotAdmitted p.die q slot
      .next (if sys then s.acquireSys p.die else s)

/-! ### QP's selection (R278) -/

/-- The die once the discards that are requested there have taken place. -/
def State.withoutRequested (s : State) (d : Nat) : State :=
  foldState (fun l s => if l.2.die = d ∧ l.2.request.isSome then s.killWaves l.1 else s) s.launches s

/-- Offered work of a level that has waited 50 µs without fitting, and would not fit once the requested discards have taken place: the next team of a
launch, or a ready continuation. -/
def State.starving (s : State) (d level : Nat) : Bool :=
  let t := s.withoutRequested d
  (s.launches.any fun l => l.2.die == d && s.admitting d l.2.slot == some l.1 && l.2.request.isNone && l.2.offered + 5000 ≤ s.ref
    && (s.queue d l.2.queue).level == level && !t.launchFits l.1)
  || s.parked.any fun p => p.2.die == d && p.2.ready && (s.contSlot p.2.launch).isSome && (s.launch p.2.launch).request.isNone && p.2.readyAt + 5000 ≤ s.ref
    && (s.queue d (s.launch p.2.launch).queue).level == level && !t.contFits p.2

/-- The launches below a level that QP may select, and their order: the lowest level first, the latest admitted first. -/
def State.selectable (s : State) (d level : Nat) : List Nat :=
  (s.launches.filter fun l => l.2.die == d && l.2.phase == .running && l.2.idem && !l.2.rcd.iso && l.2.request.isNone
    && (s.queue d l.2.queue).level < level).map Prod.fst

/-- PREEMPT_SELECT (R278). -/
def execPreemptSelect (die launch : Nat) (s : State) : Host.Outcome State Fault Refusal :=
  let chosen (level : Nat) : Option Nat := argMin (fun l =>
    (s.queue die (s.launch l).queue).level * 2 ^ 64 + (s.clock - (s.launch l).began)) (s.selectable die level)
  if (List.range 8).any fun level => s.starving die level && chosen level == some launch then .next (s.requestDiscard launch)
  else .next s

end Sys2Proof.Machine
end

