-- ==== Sys2Proof/Machine/Frame.lean ====
section
/-! DEFINITION. When a die's part of a frame is done (R374), and atlas requests (R381, R382). -/

namespace Sys2Proof.Machine

open Sys2Proof

/-- A frame's name among packets: its descriptor's address and its FRAMEID. -/
def Gfx.key (g : Gfx) : Nat × Nat := (g.descPa, g.desc.id)

/-- The geometry dies by rank. -/
def State.geometryDies (s : State) : List Nat := diesOfKind .geometry 0 s.weir.dmt

/-- The least watermark that a shading die has received (R378). -/
def State.leastMark (s : State) (d : Nat) : Nat :=
  let g := (s.die d).gfx
  (s.geometryDies.map fun x => g.wmark.get 0 x).foldl Nat.min g.desc.nseq

/-- A region of a shading die has consumed NSEQ packets. -/
def State.regionDone (s : State) (d r : Nat) : Bool :=
  let g := (s.die d).gfx
  s.leastMark d == g.desc.nseq && !s.packets.any fun p => p.frame == g.key && p.left.contains r

/-- No atlas record that a die's sequencer has requested for some regions waits to be enqueued. -/
def State.atlasQuiet (s : State) (d : Nat) (of : Nat → Bool) : Bool := !s.heldRecs.any fun r => r.die == d && r.region.any of

/-- A region's blocks have been requested, and their records enqueued (R390). -/
def State.regionShaded (s : State) (d r : Nat) : Bool := (s.die d).gfx.requested.contains r && s.atlasQuiet d (· == r)

/-- A die's part of its frame is done (R374). -/
def State.frameDone (s : State) (d : Nat) : Bool :=
  let g := (s.die d).gfx
  if s.kindOf d = .geometry then g.cursor == g.desc.nseq && g.reorder.isEmpty
  else g.walked && s.atlasQuiet d (fun _ => true) && !s.packets.any fun p => p.frame == g.key && p.regions.any g.owned.contains

/-- The dies whose part of a frame is done release, signal and become DONE, once the release can take effect (R355, R374). -/
def State.settleFrames (s : State) : State :=
  foldState (fun d s =>
    let g := (s.die d).gfx
    if g.st = .run && s.frameDone d && s.canFlush d then
      ((s.releaseSys d).signal d g.space.ctx g.desc.tl g.desc.tlval).modDie d fun x => { x with gfx := { x.gfx with st := .done } }
    else s) s.computeDies s

/-! ### The block-state table (R381, R382) -/

/-- The word of a block's state: its physical address and leaf. -/
def State.blockAt (s : State) (d n : Nat) (core : Option Nat := none) : Except Refused (Nat × Nat) × State :=
  let g := (s.die d).gfx
  let va := g.desc.astate + 4 * (n / 16)
  match s.walk d g.space va core with
  | (.invalid c l e, s) => (.error (.xlate va c l e), s)
  | (.leaf e l, s) => (.ok (physicalAddress e l va, e), s)

/-- A 32-bit atomic at SYS scope, ordered AR, of an agent that gives a block a state when `f` of its state says so; the answer is the state it found. -/
def State.changeBlock (s : State) (d agent pa e n : Nat) (f : Nat → Option Nat) : Nat × State :=
  let (bs, s) := (((s.touchRgn d pa (pteRgn e)).releaseSys d).acquireSys d).takeHome d agent pa (pteRgn e) 4
  let old := leNat bs
  let k := 2 * (n % 16)
  let found := fld old k 2
  match f found with
  | none => (found, s)
  | some x => (found, s.putAtHome d agent pa (pteRgn e) (leBytes (old - found * 2 ^ k + x * 2 ^ k) 4))

/-- The state of a block as a load of die d sees it. -/
def State.seenBlock (s : State) (d pa e n : Nat) : Nat := fld (leNat ((upFrom pa 4).map (s.seenByte d e))) (2 * (n % 16)) 2

/-- The record that shades a block (R382). -/
def atlasRecord (f : FrameDesc) (n : Nat) : List Byte :=
  leBytes f.akdesc 8 ++ zeros 16 ++ leBytes 1 4 ++ leBytes 64 2 ++ leBytes 1 1 ++ leBytes 64 1 ++ zeros 1 ++ leBytes 1 1 ++ zeros 2
    ++ zeros 12 ++ zeros 16 ++ leBytes f.id 4 ++ leBytes n 4 ++ leBytes (n % f.abw) 4 ++ leBytes (n / f.abw) 4 ++ zeros 48

/-- A request for a block (R382) by an agent, in the walk of a region or in an instruction: the answer is the state it found. -/
def State.requestBlock (s : State) (d agent pa e n : Nat) (region : Option Nat := none) : Nat × State :=
  let g := (s.die d).gfx
  match s.changeBlock d agent pa e n fun x => if x = 0 then some 1 else none with
  | (0, s) =>
    match s.enqueue d g.desc.atlq (atlasRecord g.desc n) with
    | (some _, s) => (0, s)
    | (none, s) =>
      (0, { s with heldRecs := s.heldRecs ++
        [{ die := d, queue := g.desc.atlq, bytes := atlasRecord g.desc n, spring := none, region := region }] })
  | (x, s) => (x, s)

end Sys2Proof.Machine
end

