-- ==== Sys2Proof/Machine/Complete.lean ====
section
/-! DEFINITION. The end of launches and the work they start (R269 to R273, R283, R315 to R319): completion entries, join counters, tiles, SPAWN, GANG,
JOIN, TSB.SET, TSB.RET and DONE. -/

namespace Sys2Proof.Machine

open Sys2Proof

/-! ### Join counters (R271) -/

/-- Why a join counter cannot be decremented. -/
inductive JoinRefused where
  | misaligned
  | untranslated (r : Refused)
  | typed
  deriving DecidableEq, Repr

/-- Where a join counter stands, with its leaf, translated for reading and writing. A decrement is none of the atomics that control space and the host
window take (R239, R429). -/
def State.joinTarget (s : State) (d : Nat) (sp : Space) (priv : Bool) (va : Nat) (core : Option Nat := none) :
    Except JoinRefused (Nat × Nat) × State :=
  if va % 32 ≠ 0 then (.error .misaligned, s)
  else
    match s.translate d sp priv true va core with
    | (.error r, s) => (.error (.untranslated r), s)
    | (.ok (pa, e, _), s) =>
      if !notControl e || (2 ^ 51 ≤ pa && pa < 2 ^ 60) then (.error (.untranslated (.prot va)), s)
      else if pteFmt e ≠ 0 then (.error .typed, s)
      else (.ok (pa, e), s)

/-- The record at CONT is enqueued; an enqueue that fails is reported (R243, R271). -/
def State.enqueueCont (s : State) (x : Decrement) (cont queue : Nat) (poison : Bool) : State :=
  let f : PFault := { reportFault cont .write 4 with asid := x.space.asid, queue := x.queue, task := x.task, tpc := x.tpc, core := x.core }
  match s.readVirtual x.die x.space x.priv cont 128 with
  | (none, s) => s.addFault x.die f
  | (some img, s) =>
    match s.enqueue x.die queue (setPoisonFlag img poison) with
    | (some _, s) => s
    | (none, s) => s.addFault x.die f

/-- What a decrement of a counter's 32 bytes stores: COUNT and FLAGS. -/
def decremented (old : List Byte) (poisoned : Bool) : List Byte :=
  leBytes (field old 0 4 - 1) 4 ++ leBytes (field old 4 4 ||| ofBool poisoned) 4

/-- What follows a decrement that found some bytes: the record at CONT when COUNT reaches 0. -/
def State.finishJoin (s : State) (x : Decrement) (old : List Byte) : State :=
  if field old 0 4 = 1 then s.enqueueCont x (field old 8 8) (field old 0x10 2) (bit (field old 4 4 ||| ofBool x.poisoned) 0) else s

/-- The access that a decrement is: an atomic of the whole counter at SYS scope, ordered AR; on another device it has the number 12 for its operation
(R112, R427, log 18). -/
def OutAccess.ofJoin (o : OutAccess) (x : Decrement) (e : Nat) : OutAccess :=
  { o with op := .atomic 12 (BitVec.ofNat 64 (ofBool x.poisoned)) 0, to_ := .join x e, acquire := true }

/-- A decrement, behind its release: it is performed here, or sent to its device. -/
def State.performJoin (s : State) (o : OutAccess) (x : Decrement) (e : Nat) : State :=
  let d := o.die
  let s := (s.touchRgn d o.addr (pteRgn e)).releaseSys d
  if 2 ^ 60 ≤ o.addr then s.sendOutFor o
  else
    let (old, s) := (s.acquireSys d).takeHome d qpAgent o.addr (pteRgn e) 32
    (s.putAtHome d qpAgent o.addr (pteRgn e) (decremented old x.poisoned)).finishJoin x old

/-- A decrement by an instruction is performed now, or follows when what its die has ordered before has taken effect (R355). -/
def State.startJoin (s : State) (o : OutAccess) (x : Decrement) (e : Nat) : State :=
  let t := s.performJoin o x e
  if s.canFlush o.die && !t.cur.blocked then t else s.accessBehind o

/-- Whether a load through a leaf meets a mark in the units of a range, and the first such address. -/
def State.seenPoisonIn (s : State) (d e pa len : Nat) : Option Nat :=
  ((upFrom (pa / 16) (ceilDiv (pa % 16 + len) 16)).find? fun u => s.seenPoison d e (16 * u)).map fun u => 16 * u

/-- JOIN's effect (R318). -/
def joinOp (a : Code) (s : State) (p : Nat) : Except Raised State :=
  let va := (s.src64 p a).toNat
  let d := s.myDie
  match s.joinTarget d s.me.space s.me.priv va s.myCore with
  | (.error .misaligned, _) => .error (s.trapAt .align (word va))
  | (.error (.untranslated r), s) => .error (s.refusal .rmw r)
  | (.error .typed, _) => .error (s.trapAt .fmtmix (word va))
  | (.ok (pa, e), s) =>
    let t := s.touchRgn d pa (pteRgn e)
    let s := if t.cur.blocked then s else t
    if (s.seenPoisonIn d e pa 32).isSome then .error (s.trapAt .poison (word va))
    else
      let x : Decrement :=
        { die := d, space := s.me.space, priv := s.me.priv, queue := s.myLaunch.queue, task := s.myLaunch.recPa, tpc := s.cur.addr
          core := coreRegister s.myCore }
      let o := { s.myAccess va pa 32 with dests := s.cur.group.map fun q => (q, 0xFC, 0) }
      .ok (s.startJoin (o.ofJoin x e) x e)

/-- JOIN (R318). -/
def execJoin (a : Code) (s : State) : Host.Outcome State Fault Refusal :=
  .next (s.runUnit (.join a) 0 (reading (.join a) (once (joinOp a))))

/-! ### Tiles (R272, R316, R317) -/

/-- CAUSE bits that make a launch retire poisoned (R273). -/
def poisonedCause (c : Word) : Bool := c.getLsbD 10 || c.getLsbD 11

/-- Some wave of a launch holds CAUSE bit 10 or 11, or ended with it. -/
def State.holdsPoison (s : State) (l : Nat) : Bool :=
  poisonedCause (s.launch l).causeAcc
    || (s.waves.any fun w => w.2.launch == l && poisonedCause w.2.cause)
    || s.parked.any fun p => p.2.launch == l && poisonedCause p.2.wave.cause

/-- A launch retires its tile, once (R272, R317). -/
def State.retireTile (s : State) (l : Nat) (poisoned : Bool) : State :=
  let x := s.launch l
  let map := (s.queue x.die x.queue).tsbmap
  if !x.rcd.tsb || x.tileRetired || map == 0 then s
  else (s.modLaunch l fun y => { y with tileRetired := true }).setTile x.die map x.rcd.tileX x.rcd.tileY poisoned

/-- TSB.SET (R316). -/
def execTsbSet (a : Code) (s : State) : Host.Outcome State Fault Refusal :=
  .next (s.runUnit (.tsbSet a) 0 (reading (.tsbSet a) (once fun s p =>
    let v := s.src p [] a
    if fld v.toNat 12 19 ≠ 0 ∨ (!v.getLsbD 31 ∧ fld v.toNat 0 12 ≠ 0) then .error (s.trapAt .ill s.cur.first)
    else .ok (s.modWave s.cur.wave fun w => { w with override := if v.getLsbD 31 then some (v.extractLsb' 0 12) else none }))))

/-- TSB.RET retires the tile of the issuing launch. -/
def State.tsbRetires (s : State) : Bool := s.myLaunch.rcd.tsb && !s.myLaunch.tileRetired

/-- TSB.RET (R317): in place until every earlier access can be performed, then a release at SYS scope, and then the tile's bits. -/
def execTsbRet (s : State) : Host.Outcome State Fault Refusal :=
  .next (s.runWith .tsbRet (fun _ => none) (fun _ => if s.tsbRetires && s.heldBack s.myDie s.myAgents [] then some s.waits else none) 0
    (allDone fun s _ =>
      if s.tsbRetires then (s.releaseSys s.myDie).retireTile s.me.launch (s.holdsPoison s.me.launch) else s))

/-! ### Completion (R269, R270) -/

/-- A copy of a launch is still in flight. -/
def State.copiesOf (s : State) (l : Nat) : Bool :=
  (s.cores.any fun c => c.2.copies.any fun x => x.launch == l)
    || s.clusters.any fun c => c.2.chans.any fun x => x.2.launch == l && x.2.st == .run

/-- The completion of a producer is its EOS on every stream that it registered with (R275). -/
def State.endStreams (s : State) (d : Nat) (key : Nat × Nat) : State :=
  let send (t : Nat × Stream) : Nat × Stream :=
    if t.2.producers.contains key && !t.2.eos.contains key then (t.1, { t.2 with eos := t.2.eos ++ [key] }) else t
  s.modDie d fun x => { x with streams := x.streams.map send }

/-- An access of a launch outside the module has not been performed. -/
def State.outsOf (s : State) (l : Nat) : Bool := s.outs.any fun o => o.2.launch == l

/-- LAUNCH_COMPLETE (R269): every access of the launch has been performed, and a release at SYS scope covers them. -/
def execLaunchComplete (launch : Nat) (s : State) : Host.Outcome State Fault Refusal :=
  let l := s.launch launch
  if l.phase ≠ .ended ∨ s.copiesOf launch ∨ s.outsOf launch ∨ !s.canFlush l.die then .next s
  else
    let s := (s.releaseSys l.die).endStreams l.die (l.queue, l.pos)
    .next (s.modLaunch launch fun l => { l with phase := .completing })

/-- The 32 bytes of completion entry n (R270). -/
def completionEntry (l : Launch) (status n : Nat) : List Byte :=
  leBytes l.recPa 8 ++ leBytes l.causeAcc.toNat 4 ++ leBytes l.endTpc.toNat 4
    ++ leBytes (if l.endTpc = 0 then 0 else l.endTval.toNat) 4 ++ leBytes status 1 ++ zeros 1 ++ leBytes l.rcd.attempt 2 ++ leBytes n 8

/-- The completion ring of a queue takes another entry (R269). -/
def State.ringHasRoom (s : State) (d q : Nat) : Bool :=
  let x := s.queue d q
  x.cplEn && x.cplTail - s.viewNat d (s.queueDesc d q + 0x38) 8 != x.cplLen

/-- A launch retires poisoned (R273). -/
def Launch.retiresPoisoned (l : Launch) : Bool := l.status == 1 || l.status == 2 || poisonedCause l.causeAcc

/-- The end of a completion whose entry is number n (R269): the tile and the signal, in that order; then the record has completed, and the die drops its
copies of objects that no other launch uses (R432). -/
def State.endCompletion (s : State) (launch n : Nat) : State :=
  let l := s.launch launch
  let s := (s.retireTile launch l.retiresPoisoned).signal l.die l.space.ctx (s.queue l.die l.queue).cplTl (n + 1)
  foldState (fun o s => s.dropObject l.die o) l.objects
    ((({ s with launches := s.launches.del launch }).recordDone l.die l.queue l.pos).endSpring l.recPa)

/-- COMPLETION_WRITE (R269): the entry, the join, the tile and the signal, in that order. A decrement that another device performs is waited for. -/
def execCompletionWrite (launch : Nat) (s : State) : Host.Outcome State Fault Refusal :=
  let l := s.launch launch
  let d := l.die
  let q := s.queue d l.queue
  if l.phase ≠ .completing ∨ !s.ringHasRoom d l.queue ∨ (l.rcd.join ≠ 0 ∧ !s.canFlush d) then .next s
  else
    let (target, s) := if l.rcd.join = 0 then (none, s) else
      let (r, s) := s.joinTarget d l.space l.priv l.rcd.join
      (some r, s)
    let failed := match target with
      | some (.error _) => true
      | some (.ok _) => false
      | none => false
    let status := if failed && l.status == 0 then 3 else l.status
    let s := s.engineStore d (q.cplBase + 32 * (q.cplTail % q.cplLen)) (completionEntry l status q.cplTail)
    let s := (s.modQueue d l.queue fun x => { x with cplTail := x.cplTail + 1 }).engineNat d (s.queueDesc d l.queue + 0x30) (q.cplTail + 1) 8
    match target with
    | some (.ok (pa, e)) =>
      let away := decide (2 ^ 60 ≤ pa)
      let x : Decrement :=
        { die := d, space := l.space, priv := l.priv, poisoned := l.retiresPoisoned, queue := l.queue, task := l.recPa
          launch := if away then some (launch, q.cplTail) else none }
      let s := s.performJoin ({ die := d, addr := pa, va := l.rcd.join, asid := l.space.asid, size := 32 : OutAccess }.ofJoin x e) x e
      .next (if away then s.modLaunch launch fun l => { l with phase := .joining } else s.endCompletion launch q.cplTail)
    | some (.error _) | none => .next (s.endCompletion launch q.cplTail)

/-- The decrement of a completion has been performed on another device, or has been abandoned: the completion goes on. -/
def State.joinReturned (s : State) (x : Decrement) : State :=
  match x.launch with
  | some (l, n) => if (s.launch l).phase = .joining then s.endCompletion l n else s
  | none => s

/-! ### DONE (R319) -/

/-- DONE (R319): the launch ends at one instant, no later than 64 clk from now. -/
def execDone (s : State) : Host.Outcome State Fault Refusal :=
  .next (s.runUnit .done 0 (allDone fun s _ => s.modLaunch s.me.launch fun l => { l with doneAt := some (l.doneAt.getD s.clock) }))

/-- DONE_TAKE_EFFECT (R319). -/
def execDoneTakeEffect (launch : Nat) (s : State) : Host.Outcome State Fault Refusal :=
  let l := s.launch launch
  if l.phase = .running ∧ l.doneAt.isSome then
    .next ((s.killWaves launch).modLaunch launch fun l => { l with phase := .ended, request := none })
  else .next s

/-! ### SPAWN and GANG (R315) -/

/-- The copy that is enqueued: ATTEMPT 0, the GANG flag, and the wave's tile override. -/
def spawnRecord (img : List Byte) (gang : Bool) (override : Option (BitVec 12)) : List Byte :=
  let flags := (field img 0x21 1 &&& 0xEF) + 16 * ofBool gang
  let img := patch (patch img 0x21 (leBytes flags 1)) 0x22 (zeros 2)
  match override with
  | none => img
  | some st => patch (patch img 0x24 (leBytes (field img 0x24 4 ||| 2 ^ 31) 4)) 0x28 (leBytes st.toNat 2)

/-- W14 of the issuing wave. -/
def State.w14 (s : State) : Nat := (s.me.w.get 0 14).toNat

/-- W14 names a queue (R315). -/
def State.spawnIll (s : State) (_p : Nat) : Option Raised := if 4096 ≤ s.w14 then some (s.trapAt .ill s.cur.first) else none

/-- Enqueue of R315: W14 names the queue. -/
def spawnOp (gang : Bool) (a : Code) (s : State) (p : Nat) : Except Raised State :=
  let va := (s.src64 p a).toNat
  let d := s.myDie
  let q := s.w14 % 4096
  if va % 128 ≠ 0 then .error (s.trapAt .align (word va))
  else
    match s.translate d s.me.space s.me.priv false va s.myCore with
    | (.error r, s) => .error (s.refusal .read r)
    | (.ok (pa, e, _), s) =>
      let x := s.queue d q
      if !notControl e then .error (s.trapAt .prot (word va))
      else if !x.en || x.hostq || (x.ctx != s.me.space.ctx && !s.me.priv) then .error (s.trapAt .prot (word q))
      else if pteFmt e ≠ 0 then .error (s.trapAt .fmtmix (word va))
      else
        match s.rangeRead [(va, pa, e)] va 128 with
        | (.error _, s) => .error (s.trapAt .poison (word va))
        | (.ok none, s) => .ok s
        | (.ok (some img), s) =>
          match s.enqueue d q (spawnRecord img gang s.me.override) with
          | (some _, s) => .ok s
          | (none, s) => .error (s.trapAt .qovf (word q))

/-- SPAWN (R315). -/
def execSpawn (a : Code) (s : State) : Host.Outcome State Fault Refusal :=
  .next (s.runWith (.spawn a) s.spawnIll (fun _ => none) 0 (reading (.spawn a) (once (spawnOp false a))))

/-- GANG (R315). -/
def execGang (a : Code) (s : State) : Host.Outcome State Fault Refusal :=
  .next (s.runWith (.gang a) s.spawnIll (fun _ => none) 0 (reading (.gang a) (once (spawnOp true a))))

end Sys2Proof.Machine
end

