-- ==== Sys2Proof/Machine/SpecialFn.lean ====
section
/-! DEFINITION. The special functions (R99 to R101). RCP and SQRT are correctly rounded. For the others R99 gives a bound and leaves the bits open:
the model's value is a free value of Config when that lies within the bound of the exact function, computed here to far more
bits than FP32 has, and else the rounded function (log 12). -/

namespace Sys2Proof

/-- π × 2^300, ln 2 × 2^128 and log2 e × 2^128, rounded down. -/
def pi300 : Nat := 0x3243f6a8885a308d313198a2e03707344a4093822299f31d0082efa98ec4e6c89452821e638d
def ln2Fixed : Nat := 0xb17217f7d1cf79abc9e3b39803f2f6af
def log2eFixed : Nat := 0x171547652b82fe1777d0ffda0d23a7d11

/-- Steps of Newton's iteration for the integer square root. -/
def sqrtIter (n : Nat) : Nat → Nat → Nat
  | 0, x => x
  | fuel + 1, x =>
    let y := (x + n / x) / 2
    if y < x then sqrtIter n fuel y else x

/-- The integer square root. -/
def isqrt (n : Nat) : Nat := if n = 0 then 0 else sqrtIter n (2 * Nat.log2 n + 4) (2 ^ (Nat.log2 n / 2 + 1))

/-- A quotient num / den × 2^e with 80 bits and a sticky bit below them. -/
def quotient (neg : Bool) (num den : Nat) (e : Int) : FVal :=
  let sh := 80 + Nat.log2 den
  let q := (num <<< sh) / den
  .fin neg (2 * q + ofBool ((num <<< sh) % den != 0)) (e - sh - 1)

/-- √(m × 2^e) with more than 80 bits and a sticky bit. -/
def rootOf (m : Nat) (e : Int) : FVal :=
  let odd := e % 2
  let m := (m <<< odd.toNat) <<< 160
  let r := isqrt m
  .fin false (2 * r + ofBool (r * r != m)) ((e - odd) / 2 - 81)

/-- Horner's rule for the exponential series: 1 + y/k (1 + y/(k+1) (…)), y in units of 2^-128. -/
def expSeries (y : Nat) : Nat → Nat → Nat
  | 0, _ => 2 ^ 128
  | fuel + 1, k => 2 ^ 128 + y * expSeries y fuel (k + 1) / 2 ^ 128 / k

/-- 2^f for f in [0, 1), in units of 2^-128. -/
def exp2Frac (f : Nat) : Nat := expSeries (f * ln2Fixed / 2 ^ 128) 40 1

/-- 2^x for x in units of 2^-128. -/
def exp2Fixed (x : Int) : FVal :=
  let n := x.fdiv (2 ^ 128 : Nat)
  .fin false (exp2Frac (x - n * (2 ^ 128 : Nat)).toNat) (n - 128)

/-- The fraction bits of log2 of y in [1, 2), y in units of 2^-128, one bit a step. -/
def log2Bits (y : Nat) : Nat → Nat
  | 0 => 0
  | fuel + 1 =>
    let z := y * y / 2 ^ 128
    if 2 ^ 129 ≤ z then 2 ^ fuel + log2Bits (z / 2) fuel else log2Bits z fuel

/-- log2(m × 2^e). -/
def log2Value (m : Nat) (e : Int) : FVal :=
  let l := Nat.log2 m
  let frac := log2Bits (m <<< (128 - l)) 80
  .ofInt (((l : Int) + e) * (2 ^ 80 : Nat) + frac) (-80) false

/-- Alternating series 1 − z/(k(k+1)) (1 − z/((k+2)(k+3)) (…)), z in units of 2^-128; the result is a non-negative number for z ≤ 3. -/
def altSeries (z : Nat) : Nat → Nat → Int
  | 0, _ => (2 ^ 128 : Nat)
  | fuel + 1, k => (2 ^ 128 : Nat) - (z : Int) * altSeries z fuel (k + 2) / (2 ^ 128 : Nat) / (k * (k + 1) : Nat)

/-- The quarter turn and the angle in it, in units of 2^-128, of |x| = m × 2^e (π is taken to 300 bits). -/
def quarters (m : Nat) (e : Int) : Nat × Nat :=
  let x := if -300 ≤ e then m <<< (e + 300).toNat else m >>> (-300 - e).toNat
  let q := pi300 / 2
  (x / q % 4, x % q / 2 ^ 172)

/-- sin of an angle in [0, π/2] in units of 2^-128, and cos, which is below 1 at every angle but 0. -/
def sinFixed (a : Nat) : Int := (a : Int) * altSeries (a * a / 2 ^ 128) 20 2 / (2 ^ 128 : Nat)
def cosFixed (a : Nat) : Int := min (altSeries (a * a / 2 ^ 128) 20 1) (2 ^ 128 - 1 : Nat)

/-- sin and cos of ± m × 2^e, not 0. Below 2^-64, sin x is x to more bits than any bound of R99 can tell. -/
def sinValue (neg : Bool) (m : Nat) (e : Int) : FVal :=
  if (Nat.log2 m : Int) + e < -64 then .fin neg m e
  else
    let (k, a) := quarters m e
    let y := match k with | 0 => sinFixed a | 1 => cosFixed a | 2 => -sinFixed a | _ => -cosFixed a
    .ofInt (if neg then -y else y) (-128) neg
def cosValue (m : Nat) (e : Int) : FVal :=
  let (k, a) := quarters m e
  .ofInt (match k with | 0 => cosFixed a | 1 => -sinFixed a | 2 => -cosFixed a | _ => sinFixed a) (-128) false

/-- e^(−t) in units of 2^-128 for t = m × 2^e above 0, where it is below 1; 0 for t above 128. -/
def expNeg (m : Nat) (e : Int) : Nat :=
  if 7 < (Nat.log2 m : Int) + e then 0
  else
    let t := if -128 ≤ e then m <<< (e + 128).toNat else m >>> (-128 - e).toNat
    match exp2Fixed (-(t * log2eFixed / 2 ^ 128 : Nat)) with
    | .fin _ m e => min (m >>> (-e - 128).toNat) (2 ^ 128 - 1)
    | .nan | .inf _ => 0

/-- tanh and the logistic function of ± m × 2^e. -/
def tanhValue (neg : Bool) (m : Nat) (e : Int) : FVal :=
  let t := expNeg m (e + 1)
  quotient neg (2 ^ 128 - t) (2 ^ 128 + t) 0
def sigmValue (neg : Bool) (m : Nat) (e : Int) : FVal :=
  let t := expNeg m e
  if neg then quotient false t (2 ^ 128 + t) 0 else quotient false (2 ^ 128) (2 ^ 128 + t) 0

/-- Whether |a − b| ≤ k × 2^g for finite a and b. -/
def within (a b : FVal) (k : Nat) (g : Int) : Bool :=
  match a, b with
  | .fin s m e, .fin t n h =>
    let low := min g (min e h)
    decide ((scaled s m e low - scaled t n h low).natAbs ≤ k <<< (g - low).toNat)
  | .nan, _ | .inf _, _ | .fin _ _ _, .nan | .fin _ _ _, .inf _ => false

/-- The exponent of an FP32 ulp at a value. -/
def ulpExp : FVal → Int
  | .fin _ m e => max ((Nat.log2 m : Int) + e) (-126) - 23
  | .nan | .inf _ => 0

/-- The free value for a function number and input if it lies within k × 2^g of the exact value and in [lo, hi], else that value rounded
(R99, log 12). -/
def bounded (fn a : Nat) (exact : FVal) (k : Nat) (g : Int) (ok : FVal → Bool) : Nat :=
  let c := (Config.special fn (word a)).toNat
  if within (fp32.dec c) exact k g && ok (fp32.dec c) then c else fp32.round .rne exact

/-- Whether a magnitude is a power of two times 2^e with an integral value, and that value's integer. -/
def exactInt (neg : Bool) (m : Nat) (e : Int) : Option Int :=
  let r : Int := roundInt .rtz neg m e
  let r := if neg then -r else r
  if within (.fin neg m e) (.ofInt r 0 neg) 0 0 then some r else none

/-- RCP. -/
def rcp (a : Nat) : Nat :=
  match fp32.dec a with
  | .nan => fp32.nan
  | .inf n => fp32.signed n 0
  | .fin n 0 _ => fp32.round .rne (.inf n)
  | .fin n m e => fp32.round .rne (quotient n 1 m (-e))

/-- RSQ. -/
def rsq (a : Nat) : Nat :=
  match fp32.dec a with
  | .nan => fp32.nan
  | .inf n => if n then fp32.nan else 0
  | .fin n 0 _ => fp32.round .rne (.inf n)
  | .fin true _ _ => fp32.nan
  | .fin false m e =>
    match rootOf m e with
    | .fin _ r g => let v := quotient false 1 r (-g); bounded 0x21 a v 1 (ulpExp v) fun _ => true
    | v => fp32.round .rne v

/-- SQRT. -/
def sqrt32 (a : Nat) : Nat :=
  match fp32.dec a with
  | .nan => fp32.nan
  | .inf n => if n then fp32.nan else a
  | .fin _ 0 _ => a
  | .fin true _ _ => fp32.nan
  | .fin false m e => fp32.round .rne (rootOf m e)

/-- EXP2: exact for integral inputs from −149 to 127. Inputs past ±1024 act as ±1024, past every FP32 result; an input next to 0 gives a value just
below or just above 1, where an ulp below is half of that at 1. -/
def exp2 (a : Nat) : Nat :=
  match fp32.dec a with
  | .nan => fp32.nan
  | .inf n => if n then 0 else a
  | .fin n m e =>
    if 10 ≤ (Nat.log2 m : Int) + e ∧ m ≠ 0 then
      if n then bounded 0x23 a (.fin false 1 (-1024)) 2 (-149) fun _ => true else 0x7F800000
    else
      match exactInt n m e with
      | some i =>
        let v : FVal := .fin false 1 i
        if i < -149 then bounded 0x23 a v 2 (ulpExp v) fun _ => true else fp32.round .rne v
      | none =>
        let x := if -128 ≤ e then m <<< (e + 128).toNat else m >>> (-128 - e).toNat
        let v :=
          if n && x == 0 then .fin false (2 ^ 129 - 1) (-129) else if !n && x ≤ 1 then .fin false (2 ^ 128 + 1) (-128)
          else exp2Fixed (if n then -(x : Int) else x)
        bounded 0x23 a v 2 (ulpExp v) fun _ => true

/-- LOG2. -/
def log2 (a : Nat) : Nat :=
  match fp32.dec a with
  | .nan => fp32.nan
  | .inf n => if n then fp32.nan else a
  | .fin _ 0 _ => 0xFF800000
  | .fin true _ _ => fp32.nan
  | .fin false m e =>
    let l := (Nat.log2 m : Int) + e
    let v := log2Value m e
    if 2 ^ Nat.log2 m = m then ofIntF32 .rne l
    else if l = 0 ∨ l = -1 then bounded 0x24 a v 1 (-22) fun _ => true
    else bounded 0x24 a v 2 (ulpExp v) fun _ => true

/-- SIN and COS. -/
def sin (a : Nat) : Nat :=
  match fp32.dec a with
  | .nan | .inf _ => fp32.nan
  | .fin _ 0 _ => a
  | .fin n m e => bounded 0x25 a (sinValue n m e) 1 (-21) fun _ => true
def cos (a : Nat) : Nat :=
  match fp32.dec a with
  | .nan | .inf _ => fp32.nan
  | .fin _ 0 _ => 0x3F800000
  | .fin _ m e => bounded 0x26 a (cosValue m e) 1 (-21) fun _ => true

/-- TANH, within [−1, 1] and exactly x for |x| ≤ 2^−12. -/
def tanh (a : Nat) : Nat :=
  match fp32.dec a with
  | .nan => fp32.nan
  | .inf n => fp32.signed n 0x3F800000
  | .fin _ 0 _ => a
  | .fin n m e =>
    if a % 2 ^ 31 ≤ 0x39800000 then a
    else bounded 0x27 a (tanhValue n m e) 1 (-22) fun v => within v (.zero false) 1 0

/-- SIGM, within [+0, 1]. -/
def sigm (a : Nat) : Nat :=
  match fp32.dec a with
  | .nan => fp32.nan
  | .inf n => if n then 0 else 0x3F800000
  | .fin _ 0 _ => 0x3F000000
  | .fin n m e => bounded 0x28 a (sigmValue n m e) 1 (-22) fun v => !v.neg? && within v (.zero false) 1 0

end Sys2Proof
end

