-- ==== Sys2Proof/Machine/Rays.lean ====
section
/-! DEFINITION. Ray queries (R304 to R312, R328, R329) and pins (R300, R330). The box and primitive tests are exact: every FP32 coordinate is a
rational number, and only the reported values are rounded (R307, R308). -/

namespace Sys2Proof.Machine

open Sys2Proof

/-! ### Exact values -/

/-- m × 2^e. -/
def dyadic (m : Int) (e : Int) : Rat := if 0 ≤ e then (m * 2 ^ e.toNat : Int) else mkRat m (2 ^ (-e).toNat)

/-- The exact value of a finite FP32 number; other values give none. -/
def exactOf (w : Nat) : Option Rat :=
  match fp32.dec w with
  | .fin neg m e => some (dyadic (if neg then -(m : Int) else m) e)
  | .nan | .inf _ => none

/-- A rational rounded once to a format under RNE (R308). -/
def roundRat (f : Fmt) (q : Rat) : Nat := if q = 0 then 0 else f.round .rne (quotient (decide (q < 0)) q.num.natAbs q.den 0)

/-- Three coordinates. -/
structure V3 where
  x : Rat
  y : Rat
  z : Rat
  deriving DecidableEq, Repr

def V3.sub (a b : V3) : V3 := ⟨a.x - b.x, a.y - b.y, a.z - b.z⟩
def V3.dot (a b : V3) : Rat := a.x * b.x + a.y * b.y + a.z * b.z
def V3.cross (a b : V3) : V3 := ⟨a.y * b.z - a.z * b.y, a.z * b.x - a.x * b.z, a.x * b.y - a.y * b.x⟩
def V3.axis (a : V3) (k : Nat) : Rat := match k with | 0 => a.x | 1 => a.y | _ => a.z

/-- The three FP32 numbers at an offset of some bytes, when all are finite. -/
def vec (b : List Byte) (at_ : Nat) : Option V3 :=
  match exactOf (field b at_ 4), exactOf (field b (at_ + 4) 4), exactOf (field b (at_ + 8) 4) with
  | some x, some y, some z => some ⟨x, y, z⟩
  | _, _, _ => none

/-- The three words as coordinates. -/
def vecWords (l : List Word) : Option V3 := vec (l.flatMap fun w => leBytes w.toNat 4) 0

/-! ### The walk (R306 to R310) -/

/-- A ray during its walk: origin and direction exactly, the signs of the direction (R306), TMIN and the current TMAX as FP32 bits. -/
structure Ray where
  org : V3
  dir : V3
  neg : List Bool
  tmin : Nat
  tmax : Nat
  mask : Nat
  first : Bool
  nocull : Bool
  deriving DecidableEq, Repr

/-- A lower or upper bound of t: an FP32 number that is not NaN, where infinities bound nothing or everything. -/
def aboveMin (tmin : Nat) (q : Rat) : Bool :=
  match fp32.dec tmin with
  | .inf neg => neg
  | .nan => false
  | .fin _ _ _ => match exactOf tmin with | some m => decide (m ≤ q) | none => false
def belowMax (tmax : Nat) (q : Rat) : Bool :=
  match fp32.dec tmax with
  | .inf neg => !neg
  | .nan => false
  | .fin _ _ _ => match exactOf tmax with | some m => decide (q ≤ m) | none => false

/-- The interval of t that one axis of a box admits: none when it admits no t; its lower and upper ends where it bounds t. -/
def axisSpan (o d lo hi : Rat) : Option (Option (Rat × Rat)) :=
  if d = 0 then (if lo ≤ o ∧ o ≤ hi then some none else none)
  else
    let a := (lo - o) / d
    let b := (hi - o) / d
    let (l, h) := if 0 < d then (a, b) else (b, a)
    if l ≤ h then some (some (l, h)) else none

/-- The ends of the intersection of spans, where they bound t. -/
def meetSpans : List (Option (Rat × Rat)) → Option (Rat × Rat)
  | [] => none
  | none :: t => meetSpans t
  | some (l, h) :: t =>
    match meetSpans t with
    | none => some (l, h)
    | some (l', h') => some (max l l', min h h')

/-- The entry of a hit box (R307): the least t from TMIN to TMAX at which the ray lies in the closed box. -/
def boxEntry (r : Ray) (lo hi : V3) : Option Rat :=
  let span (k : Nat) := axisSpan (r.org.axis k) (r.dir.axis k) (lo.axis k) (hi.axis k)
  match span 0, span 1, span 2 with
  | some a, some b, some c =>
    match meetSpans [a, b, c] with
    | none => none
    | some (l, h) =>
      let e := match exactOf r.tmin with | some m => max m l | none => l
      if e ≤ h && aboveMin r.tmin e && belowMax r.tmax e then some e else none
  | _, _, _ => none

/-- The exact hit of a triangle (R308): t, u, v. -/
def triangleHit (r : Ray) (test : Nat) (v0 v1 v2 : V3) : Option (Rat × Rat × Rat) :=
  let e1 := v1.sub v0
  let e2 := v2.sub v0
  let n := e1.cross e2
  let dn := r.dir.dot n
  let culled := !r.nocull && ((test == 1 && decide (0 < dn)) || (test == 2 && decide (dn < 0)))
  if dn = 0 || culled then none
  else
    let s := r.org.sub v0
    let h := r.dir.cross e2
    let a := e1.dot h
    let q := s.cross e1
    let u := s.dot h / a
    let v := r.dir.dot q / a
    let t := e2.dot q / a
    if 0 ≤ u ∧ 0 ≤ v ∧ u + v ≤ 1 then some (t, u, v) else none

/-- A hit record (R310): T, PRIM, INST and the packed u and v. -/
structure HitRec where
  t : Nat := 0x7F800000
  prim : Nat := 0xFFFFFFFF
  inst : Nat := 0xFFFFFFFF
  uv : Nat := 0
  deriving DecidableEq, Repr

/-- The test of a primitive record at an offset of a leaf, with its reported values (R308). -/
def primHit (r : Ray) (test : Nat) (leaf : List Byte) (at_ : Nat) : Option HitRec :=
  match vec leaf at_, vec leaf (at_ + 12) with
  | some v0, some v1 =>
    let found : Option (Rat × Rat × Rat) :=
      if test = 3 then (boxEntry r v0 v1).map fun e => (e, 0, 0)
      else match vec leaf (at_ + 24) with
        | some v2 => triangleHit r test v0 v1 v2
        | none => none
    found.map fun x =>
      { t := roundRat fp32 x.1, prim := field leaf (at_ + 0x24) 4, inst := field leaf (at_ + 0x28) 4
        uv := roundRat bf16 x.2.1 + 2 ^ 16 * roundRat bf16 x.2.2 }
  | _, _ => none

/-- Accept of R309: the state's TMAX and the best record. -/
def accept (r : Ray) (best : Option HitRec) (h : HitRec) : Ray × Option HitRec :=
  let t := fp32.dec h.t
  let better := match best with
    | none => true
    | some b => t.lt (fp32.dec b.t) || (t.eq (fp32.dec b.t) && h.prim < b.prim)
  if (fp32.dec r.tmin).le t && t.le (fp32.dec r.tmax) && better then ({ r with tmax := h.t }, some h) else (r, best)

/-- The records of a leaf in stored order (R309); the third answer says that the walk ends. -/
def walkLeaf (test : Nat) (leaf : List Byte) : Ray → Option HitRec → List Nat → Ray × Option HitRec × Bool
  | r, best, [] => (r, best, false)
  | r, best, i :: rest =>
    let at_ := 0x10 + 48 * i
    let (r, best) :=
      if (field leaf (at_ + 0x2C) 1 &&& r.mask) = 0 then (r, best)
      else match primHit r test leaf at_ with
        | some h => accept r best h
        | none => (r, best)
    if r.first && best.isSome then (r, best, true) else walkLeaf test leaf r best rest

/-- The slot of ordinal k at a node (R306). -/
def slotOf (order : Nat) (axes : Nat) (neg : List Bool) (k : Nat) : Nat :=
  let n (a : Nat) : Bool := neg.getD a false
  let pairA := if n (fld axes 2 2) then [1, 0] else [0, 1]
  let pairB := if n (fld axes 4 2) then [3, 2] else [2, 3]
  let l := if n (fld axes 0 2) then pairB ++ pairA else pairA ++ pairB
  if order = 1 then k else l.getD k 0

/-- A signed block offset of a node (R288). -/
def blockOffset (node : Nat) (img : List Byte) (at_ : Nat) : Nat := ((node : Int) + 128 * toSigned (field img at_ 4) 32).toNat

/-- Why a walk ends without a hit record (R312). -/
inductive WalkEnd where
  | hit (best : Option HitRec)
  | failed (c : Cause) (tval : Word)
  deriving DecidableEq, Repr

/-- A page that a structure may stand on, for reading (R286). -/
def structurePage (priv : Bool) (e : Nat) : Bool := readable priv e && pteFmt e == 0 && !pteRgn e && !pteDev e

/-- Bytes of a structure that a walk reads, with the cause of R312 where it cannot. -/
def State.walkRead (s : State) (d : Nat) (q : Query) (va len : Nat) : Except WalkEnd (List Byte) × State :=
  match s.translateRange d q.space (fun e => structurePage q.priv e && notControl e) va len with
  | (.error (.xlate a _ _ _), s) => (.error (.failed .prot (word a)), s)
  | (.error (.prot a), s) => (.error (.failed .prot (word a)), s)
  | (.ok m, s) =>
    match m.find? fun x => s.regionOf x.2.1 != .device with
    | some x => (.error (.failed .prot (word x.1)), s)
    | none =>
      match s.markedIn d m va len with
      | some pa => (.error (.failed .poison (lineTval pa)), s)
      | none => (.ok ((upFrom va len).map fun a => s.viewByte d (rangePa m a)), s)

/-- The first ordinal from k on whose slot is not empty and whose box is hit. -/
def nextOrdinal (r : Ray) (order : Nat) (img : List Byte) : List Nat → Option (Nat × Nat)
  | [] => none
  | k :: t =>
    let i := slotOf order (field img 0x75 1) r.neg k
    let hit := field img (0x60 + 4 * i) 4 != 0 && (match vec img (24 * i), vec img (24 * i + 12) with
      | some lo, some hi => (boxEntry r lo hi).isSome
      | _, _ => false)
    if hit then some (k, i) else nextOrdinal r order img t

/-- WalkQuery of R309 from a node on: its depth, the ordinals taken above it (the last first), and the next ordinal to try. `fuel` bounds the
steps; no structure that the builder wrote reaches it. -/
def State.walkQuery (s : State) (d : Nat) (q : Query) : Nat → Nat → List Nat → Nat → Ray → Option HitRec → WalkEnd × State
  | 0, _, _, _, _, best => (.hit best, s)
  | fuel + 1, node, trail, next, r, best =>
    match s.walkRead d q node 128 with
    | (.error e, s) => (e, s)
    | (.ok img, s) =>
      match nextOrdinal r q.fmt.order img ((List.range 4).drop next) with
      | some (k, i) =>
        let child := blockOffset node img (0x60 + 4 * i)
        if bit (field img 0x74 1) i then
          match s.walkRead d q child 256 with
          | (.error e, s) => (e, s)
          | (.ok leaf, s) =>
            let (r, best, stop) := walkLeaf q.fmt.test leaf r best (List.range (min 4 (field leaf 0 1)))
            if stop then (.hit best, s) else s.walkQuery d q fuel node trail (k + 1) r best
        else s.walkQuery d q fuel child (k :: trail) 0 r best
      | none =>
        match trail with
        | [] => (.hit best, s)
        | k :: up => s.walkQuery d q fuel (blockOffset node img 0x70) up (k + 1) r best

/-- The ray of a state that R305 lets walk. -/
def RayState.ray (rs : RayState) : Option Ray :=
  match vecWords rs.org, vecWords rs.dir with
  | some o, some d =>
    some { org := o, dir := d, neg := rs.dir.map fun w => w.getLsbD 31 && w != 0x80000000, tmin := rs.tmin.toNat, tmax := rs.tmax.toNat
           mask := fld rs.ctrl.toNat 0 8, first := rs.ctrl.getLsbD 8, nocull := rs.ctrl.getLsbD 9 }
  | _, _ => none

/-- The end of a query's walk. -/
def State.walkOf (s : State) (q : Query) : WalkEnd × State :=
  match (if q.miss then none else q.rs.ray) with
  | none => (.hit none, s)
  | some r => s.walkQuery (q.cl / 16) q (2 ^ 40) q.root [] 0 r none

/-! ### Completion (R311, R312) -/

def State.modQuery (s : State) (n : Nat) (f : Query → Query) : State :=
  match s.queries.find n with
  | some q => { s with queries := s.queries.put n (f q) }
  | none => s

/-- The write-back of a ray state and the hit (R311). -/
def State.queryDone (s : State) (n : Nat) (q : Query) (best : Option HitRec) : State :=
  let d := q.cl / 16
  let h := best.getD {}
  let put (s : State) (at_ n len : Nat) : State := s.engineNat d (q.statePa + at_) n len (rayAgent q.cl)
  let s := match best with
    | some b => put s 0x1C b.t 4
    | none => s
  let s := put s 0x20 (fld q.rs.node.toNat 0 57 + 2 ^ 63) 8
  let s := put s 0x28 0 8
  let s := put s 0x30 (fld q.rs.ctrl.toNat 0 16 + fld q.rs.ctrl.toNat 22 10 * 2 ^ 22) 4
  let s := put s 0x34 q.gen.toNat 4
  s.modQuery n fun q => { q with st := .ready (word h.t) (word h.prim) (word h.inst) (word h.uv) }

/-- A walking query ends as its walk says. -/
def State.settleQuery (s : State) (n : Nat) (fault : Bool) : State :=
  match s.queries.find n with
  | none => s
  | some q =>
    if q.st ≠ .walking then s
    else
      match s.walkOf q with
      | (.hit best, s') => if fault then s else s'.queryDone n q best
      | (.failed c t, s') => if fault then s'.modQuery n fun q => { q with st := .failed c t } else s

/-- RAY_QUERY_COMPLETE (R311). -/
def execRayQueryComplete (query : Nat) (s : State) : Host.Outcome State Fault Refusal := .next (s.settleQuery query false)

/-- RAY_QUERY_FAULT (R312). -/
def execRayQueryFault (query : Nat) (s : State) : Host.Outcome State Fault Refusal := .next (s.settleQuery query true)

/-! ### RAY.GO (R304, R305, R328) -/

/-- A ray state from its 64 bytes. -/
def parseRay (b : List Byte) : RayState :=
  let ws (at_ n : Nat) : List Word := (List.range n).map fun j => word (field b (at_ + 4 * j) 4)
  { org := ws 0 3, dir := ws 12 3, tmin := word (field b 0x18 4), tmax := word (field b 0x1C 4)
    node := BitVec.ofNat 64 (field b 0x20 8), trail := BitVec.ofNat 64 (field b 0x28 8)
    ctrl := word (field b 0x30 4), gen := word (field b 0x34 4) }

/-- A state that completes at once as a miss (R305 point 2). -/
def RayState.bad (rs : RayState) : Bool :=
  let n := rs.node.toNat
  let c := rs.ctrl.toNat
  let tmin := fp32.dec rs.tmin.toNat
  let tmax := fp32.dec rs.tmax.toNat
  fld n 57 6 != 0 || fld c 10 6 != 0 || fld c 22 10 != 0 || n % 512 != 0
    || (rs.org ++ rs.dir).any (fun w => (exactOf w.toNat).isNone)
    || tmin.isNan || tmax.isNan || rs.dir.all (fun w => w &&& 0x7FFFFFFF == 0) || tmax.lt tmin

/-- A handle for a new query of a thread: free bits that none of its live queries has (R328). -/
def State.newHandle (s : State) (uid p n : Nat) : Word :=
  let h (k : Nat) : Word := 0x80000000 ||| ((Config.handleBits n + BitVec.ofNat 30 k).zeroExtend 32)
  let used (w : Word) : Bool := s.queries.any fun q => q.2.uid == uid && q.2.pos == p && q.2.handle == w
  h (((List.range 1025).find? fun k => !used (h k)).getD 0)

/-- The LIVE entry of a generation: root and format (R287). -/
def State.liveOf (s : State) (d hdr gen : Nat) : Option (Nat × NodeFmt) :=
  (List.range 16).findSome? fun e =>
    let (lo, hi) := s.liveEntry d hdr e
    if bit lo 32 && fld lo 0 32 == gen then some (hi, { test := fld lo 40 2, order := fld lo 44 1, leafMax := fld lo 48 3 }) else none

/-- The pin entry of a launch for a header's physical address and a generation (R300). -/
def State.pinOf (s : State) (d l hdr : Nat) (gen : Word) : Option Pin :=
  (s.die d).pins.find? fun p => p.launch == l && p.hdr == hdr && p.gen == gen && p.count != 0

/-- How a query begins: its state's copy is poisoned, or the LIVE entries of its header cannot be read (R312), or it walks. -/
def State.queryStart (s : State) (d : Nat) (q : Query) : QueryState × State :=
  match s.poisonIn d q.statePa 64 with
  | some u => (.failed .poison (lineTval u), s)
  | none =>
    if q.rs.bad then (.walking, s)
    else
      match s.walkRead d q (q.hdrVa + 0x100) 256 with
      | (.error (.failed c t), s) => (.failed c t, s)
      | (.error (.hit _), s) | (.ok _, s) => (.walking, s)

/-- RAY.GO in one member. -/
def rayGoOne (d a : Code) (lead : Bool) (s : State) (p : Nat) : Except Raised State :=
  let va := (s.src64 p a).toNat
  let die := s.myDie
  let w := s.me
  let gens := (w.thread p).gens
  if va % 64 ≠ 0 then .error (s.trapAt .align (word va))
  else
    match s.translate die w.space w.priv true va s.myCore with
    | (.error r, s) => .error (s.refusal .rmw r)
    | (.ok (pa, e, _), s) =>
      if pteRgn e || s.regionOf pa != .device then .error (s.trapAt .prot (word va))
      else if pteFmt e ≠ 0 then .error (s.trapAt .fmtmix (word va))
      else
        let s := s.touchRgn die pa false
        if s.cur.blocked then .ok s else
        let rs := parseRay (s.viewBytes die pa 64)
        let hdrVa := fld rs.node.toNat 0 57
        let (t, s) := s.translate die w.space w.priv false hdrVa s.myCore
        match t.toOption.bind fun x => (s.pinOf die w.launch x.1 gens).map fun pin => (x.1, pin) with
        | none => .error (s.trapAt .genstale gens)
        | some (hdr, pin) =>
          let live := s.liveOf die hdr gens.toNat
          let (n, s) := s.fresh
          let h := s.newHandle w.uid p n
          let root := live.getD (0, {})
          let q : Query :=
            { handle := h, cl := s.myCluster, uid := w.uid, pos := p, launch := w.launch, pin := pin.id, stateVa := va, statePa := pa, rs := rs
              miss := rs.bad || live.isNone, hdrVa := hdrVa, root := root.1, fmt := root.2, gen := gens, space := w.space, priv := w.priv }
          let (st, s) := s.queryStart die q
          let q := { q with st := st }
          let s := { s with queries := s.queries.put n q }
          let s := if q.miss && q.st == .walking then s.queryDone n q none else s
          .ok (s.writeLead lead p d h)

/-- The ray unit of a cluster has room for some queries (R328). -/
def State.rayRoom (s : State) (cl n : Nat) : Bool := (s.queries.filter fun q => q.2.cl == cl).length + n ≤ 1024

/-- RAY.GO (R328): for 2 shots. -/
noncomputable def execRayGo (d a : Code) (s : State) : Host.Outcome State Fault Refusal :=
  let i := Instr.rayGo d a
  .next (s.runWith i (fun _ => none) (fun ps => if s.rayRoom s.myCluster ps.length then none else some s.waits) 2
    (reading i (together (inTurn (rayGoOne d a)))))

/-! ### RAY.GET and RAY.POLL (R329) -/

/-- The live query that a handle names for a thread. -/
def State.queryOf (s : State) (uid p : Nat) (h : Word) : Option (Nat × Query) :=
  s.queries.find? fun q => q.2.uid == uid && q.2.pos == p && q.2.handle == h

/-- RAY.GET in one member whose query has ended. -/
def rayGetOne (d a : Code) (lead : Bool) (s : State) (p : Nat) : Except Raised State :=
  let h := s.src p [] a
  match s.queryOf s.me.uid p h with
  | none => .error (s.trapAt .prot h)
  | some (n, q) =>
    match q.st with
    | .failed c t => .error (s.trapAt c t)
    | .ready t prim inst uv =>
      .ok (({ s with queries := s.queries.del n }.sweepPins).writeLeads lead p d [t, prim, inst, uv])
    | .walking => .ok s

/-- The queries whose causes the members have raised end (R301). -/
def State.endFailed (s : State) (a : Code) (ps : List Nat) : State :=
  foldState (fun p s =>
    match s.queryOf s.me.uid p (s.src p [] a) with
    | some (n, q) => (match q.st with
      | .failed _ _ => { s with queries := s.queries.del n }.sweepPins
      | .walking | .ready _ _ _ _ => s)
    | none => s) ps s

/-- RAY.GET (R329): it waits in place while a member's query walks. -/
noncomputable def execRayGet (d a : Code) (s : State) : Host.Outcome State Fault Refusal :=
  let i := Instr.rayGet d a
  let walks (p : Nat) : Bool := match s.queryOf s.me.uid p (s.src p [] a) with | some (_, q) => q.st == .walking | none => false
  .next (s.runWith i (fun _ => none) (fun ps => if (s.readSplit i ps).1.any walks then some s.waits else none) 0 (reading i fun s ps =>
    let r := eachMember (rayGetOne d a) true s ps
    { r with st := r.st.endFailed a (r.raised.map Prod.fst) }))

/-- RAY.POLL (R329). -/
def rayPollOne (m : PredNo) (a : Code) (_lead : Bool) (s : State) (p : Nat) : Except Raised State :=
  let h := s.src p [] a
  match s.queryOf s.me.uid p h with
  | none => .error (s.trapAt .prot h)
  | some (_, q) => .ok (s.modThread s.cur.wave p fun t => t.setPred m (q.st != .walking))

/-- RAY.POLL (R329). -/
noncomputable def execRayPoll (m : PredNo) (a : Code) (s : State) : Host.Outcome State Fault Refusal :=
  .next (s.runUnit (.rayPoll m a) 0 (reading (.rayPoll m a) (eachMember (rayPollOne m a) true)))

/-! ### GEN.PIN and GEN.UNPIN (R300, R330) -/

/-- A header named by GEN.*: its physical address, or what is raised. -/
def State.headerAt (s : State) (va : Nat) : Except Raised Nat × State :=
  if va % 512 ≠ 0 then (.error (s.trapAt .align (word va)), s)
  else
    match s.translate s.myDie s.me.space s.me.priv false va s.myCore with
    | (.error r, s) => (.error (s.refusal .read r), s)
    | (.ok (pa, e, _), s) =>
      if !notControl e then (.error (s.trapAt .prot (word va)), s)
      else if pteFmt e ≠ 0 then (.error (s.trapAt .fmtmix (word va)), s)
      else (.ok pa, s)

/-- Adds a pin of a launch to one entry of it that has room, or to a new one: the pins of the die, or none when the table is full. -/
def addPin (pins : List Pin) (id l hdr : Nat) (gen : Word) : Option (List Pin) :=
  match pins.find? fun p => p.launch == l && p.hdr == hdr && p.gen == gen && p.count != 0 && p.count < 65535 with
  | some x => some (pins.map fun p => if p.id = x.id then { p with count := p.count + 1 } else p)
  | none =>
    if 4096 ≤ pins.length then none
    else some (pins ++ [{ id := id, launch := l, hdr := hdr, gen := gen, count := 1 }])

/-- GEN.PIN (R300, R330). -/
noncomputable def execGenPin (d a : Code) (s : State) : Host.Outcome State Fault Refusal :=
  .next (s.runUnit (.genPin d a) 0 (reading (.genPin d a) fun s ps =>
    match ps with
    | [] => { st := s, ok := [], raised := [] }
    | p :: _ =>
      match s.headerAt (s.src64 p a).toNat with
      | (.error r, s) => { st := s, ok := [], raised := raiseAll ps r }
      | (.ok hdr, s) =>
        match s.poisonIn s.myDie hdr 4 with
        | some u => { st := s, ok := [], raised := raiseAll ps (s.trapAt .poison (lineTval u)) }
        | none =>
          let s := s.acquireSys s.myDie
          let cur := word (s.viewNat s.myDie hdr 4)
          let (id, s) := s.fresh
          let (g, s) : Word × State := if cur = 0 then (0, s) else
            match addPin (s.die s.myDie).pins id s.me.launch hdr cur with
            | none => (0, s)
            | some pins => (cur, s.modDie s.myDie fun x => { x with pins := pins })
          let s := foldState (fun p s => s.modThread s.cur.wave p fun t => { t with gens := g }) ps s
          { st := s.writeEach ps d fun _ => g, ok := ps, raised := [] }))

/-- GEN.UNPIN (R300, R330). -/
noncomputable def execGenUnpin (d a : Code) (s : State) : Host.Outcome State Fault Refusal :=
  .next (s.runUnit (.genUnpin d a) 0 (reading (.genUnpin d a) (once fun s p =>
    let gen := s.src p [] d
    match s.headerAt (s.src64 p a).toNat with
    | (.error r, _) => .error r
    | (.ok hdr, s) =>
      match s.pinOf s.myDie s.me.launch hdr gen with
      | none => .ok s
      | some x => .ok (s.modDie s.myDie fun y => { y with pins := y.pins.map fun p =>
          if p.id = x.id then { p with count := p.count - 1 } else p }).sweepPins)))

end Sys2Proof.Machine
end

