-- ==== Sys2Proof/Machine/Builder.lean ====
section
/-! DEFINITION. The builder: BLD.*, its jobs, and what a publish writes (R286 to R299, R302, R303, R331 to R333). How the builder chooses
splits and places its blocks is not architected: both are free functions of the input, the format and the pool's state (R293, log 14). -/

namespace Sys2Proof

open Sys2Proof.Machine

/-- Children of a plan block that are not empty slots, as block indices. -/
def PlanBlock.children (b : PlanBlock) : List Nat := if b.leaf then [] else (b.kids.filter (· ≠ 0)).map (· - 1)

/-- A block's size (R288, R289). -/
def PlanBlock.size (b : PlanBlock) : Nat := if b.leaf then 256 else 128

/-- The form of one block. -/
def PlanBlock.ok (leafMax : Nat) (b : PlanBlock) : Bool :=
  if b.leaf then 1 ≤ b.kids.length && b.kids.length ≤ leafMax && b.axes == 0 && b.kids.Pairwise (· < ·)
  else b.kids.length == 4 && !b.children.isEmpty && b.axes < 64 && fld b.axes 0 2 != 3 && fld b.axes 2 2 != 3 && fld b.axes 4 2 != 3

end Sys2Proof

namespace Sys2Proof.Machine

open Sys2Proof

/-! ### Boxes of a plan (R288) -/

/-- A bounding box: three minima and three maxima, as FP32 bits. -/
structure Box where
  lo : List Nat
  hi : List Nat
  deriving DecidableEq, Repr

/-- The union of boxes; the minimum orders −0 below +0 (R89). -/
def Box.union (a b : Box) : Box := ⟨List.zipWith fp32.min a.lo b.lo, List.zipWith fp32.max a.hi b.hi⟩
def unionBoxes : List Box → Box
  | [] => ⟨[], []⟩
  | [a] => a
  | a :: t => a.union (unionBoxes t)

/-- The vertices that a primitive record uses under a TEST (R289, R297). -/
def usedVertices (test : Nat) (r : List Byte) : List (List Nat) :=
  (List.range (if test = 3 then 2 else 3)).map fun v => (List.range 3).map fun k => field r (12 * v + 4 * k) 4

/-- A record's bounding box (R297). -/
def recordBox (test : Nat) (r : List Byte) : Box := unionBoxes ((usedVertices test r).map fun v => ⟨v, v⟩)

/-- A box with −0 read as +0, as R297 compares it. -/
def Box.plain (b : Box) : Box :=
  let z (n : Nat) : Nat := if n = 0x80000000 then 0 else n
  ⟨b.lo.map z, b.hi.map z⟩

/-- The box of every block of a plan from an index on; children stand after their parent. -/
def planBoxes (test : Nat) (recs : Tab (List Byte)) : Nat → List PlanBlock → Tab Box
  | _, [] => []
  | i, b :: t =>
    let rest := planBoxes test recs (i + 1) t
    let box := if b.leaf then unionBoxes (b.kids.map fun r => recordBox test (recs.get [] r))
      else unionBoxes (b.children.map fun c => rest.get ⟨[], []⟩ c)
    (i, box) :: rest

/-- The parent of a block of a plan. -/
def parentOf (plan : List PlanBlock) (i : Nat) : Option Nat := (List.range plan.length).find? fun j => (plan.getD j ⟨0, true, [], 0⟩).children.contains i

/-- The depths of a plan's blocks (R288): the root has depth 0. -/
def planDepths (plan : List PlanBlock) : Tab Nat :=
  (List.range plan.length).foldl (fun t i => t.put i (match parentOf plan i with | some j => t.get 0 j + 1 | none => 0)) []

/-! ### Which plans the rules allow (R288, R289, R293, R298) -/

/-- The children of the blocks in order are 1, 2, 3 …: each block but the root has one parent, which stands before it. -/
def planTree (plan : List PlanBlock) : Bool := plan.flatMap PlanBlock.children == upFrom 1 (plan.length - 1)

/-- A topology over the given records: a root node, leaves that partition the records, and depth at most 32. -/
def planTopology (leafMax : Nat) (recs : List Nat) (plan : List PlanBlock) : Bool :=
  let leaves := (plan.filter (·.leaf)).flatMap (·.kids)
  (match plan with | b :: _ => !b.leaf | [] => false)
    && plan.all (PlanBlock.ok leafMax) && planTree plan
    && leaves.length == recs.length && recs.all leaves.contains
    && (planDepths plan).all fun x => !(plan.getD x.1 ⟨0, true, [], 0⟩).leaf || x.2 ≤ 32

/-- Two plans with one topology: they differ in their places alone. -/
def sameTopology (a b : List PlanBlock) : Bool := a.map (fun x => (x.leaf, x.kids, x.axes)) == b.map fun x => (x.leaf, x.kids, x.axes)

/-- A list of blocks in the order of their offsets. -/
def insertBlock (b : PoolBlock) : List PoolBlock → List PoolBlock
  | [] => [b]
  | c :: t => if b.off ≤ c.off then b :: c :: t else c :: insertBlock b t

/-- The free ranges of a pool from an offset on, as lengths; `blocks` are in order. -/
def freeRanges (poolLen : Nat) : Nat → List PoolBlock → List Nat
  | at_, [] => [poolLen - at_]
  | at_, b :: t => (b.off - at_) :: freeRanges poolLen (b.off + b.len) t

/-- The bytes of a pool that are free (R298). -/
def Struct.free (x : Struct) : Nat := x.poolLen - (x.blocks.map (·.len)).foldl (· + ·) 0

/-- A plan's places are aligned, inside the pool, and clear of each other and of every block that is not free. -/
def Struct.placeable (x : Struct) (plan : List PlanBlock) : Bool :=
  plan.all (fun b => b.off % 128 == 0 && b.off + b.size ≤ x.poolLen && x.blocks.all fun c => !rangesMeet b.off b.size c.off c.len)
    && plan.Pairwise fun a b => !rangesMeet a.off a.size b.off b.size

/-- A pool in which some hierarchy over n records may find no place. -/
def Struct.tight (x : Struct) (n : Nat) : Bool := ((freeRanges x.poolLen 0 x.blocks).map (· / 384)).foldl (· + ·) 0 < n + 1

/-! ### Reclamation (R302) -/

/-- A pin entry of any die names a generation of a structure at or below L (R294, R302). -/
def State.heldBelow (s : State) (hdr : Nat) (l : Word) : Bool :=
  s.dies.any fun x => x.2.pins.any fun p => p.hdr == hdr && (l - p.gen).toNat < 2 ^ 31

/-- A pin entry or query reference of any die names a structure (R293). -/
def State.heldAtAll (s : State) (hdr : Nat) : Bool := s.dies.any fun x => x.2.pins.any fun p => p.hdr == hdr

/-- What a structure is once everything reclaimable is returned. -/
def State.reclaimed (s : State) (hdr : Nat) (x : Struct) : Struct :=
  { x with blocks := x.blocks.filter fun b => match b.freed with | some l => s.heldBelow hdr l | none => true }

/-- The builder of the die that built last returns what is reclaimable, and POOLFREE follows at its home: at a moment of its own, at a job's start, and
when an allocation fails (R298, R302, log 14). -/
def State.reclaim (s : State) (hdr : Nat) : State :=
  match s.structs.find hdr with
  | none => s
  | some x =>
    let y := s.reclaimed hdr x
    if y.blocks.length = x.blocks.length then s
    else { s with structs := s.structs.put hdr y }.storeAtHome y.die builderAgent (hdr + 0x18) (leBytes y.free 8)

/-- At any moment the builder may return what has become reclaimable (R302, R344): when it does is free. -/
def State.reclaimFreely (s : State) : State :=
  foldState (fun (x : Nat × Struct) s =>
    if (s.reclaimed x.1 x.2).blocks.length = x.2.blocks.length then s
    else
      let (now, s) := s.freeBit
      if now then s.reclaim x.1 else s) s.structs s

/-! ### Jobs (R291 to R293, R297) -/

/-- A descriptor (R291). -/
def parseDesc (b : List Byte) : BuildDesc :=
  { hdr := field b 0 8, prim := field b 8 8, nprim := field b 0x10 4, nft := field b 0x14 1, flags := field b 0x15 1, tl := field b 0x16 1
    pool := field b 0x18 8, poolLen := field b 0x20 8, tlval := field b 0x28 8
    reservedOk := field b 0x17 1 == 0 && field b 0x30 16 == 0 }

/-- A descriptor that fails R291 for its job: INIT is for BUILD only, and each kind judges the fields it reads. -/
def BuildDesc.bad (x : BuildDesc) (k : JobKind) : Bool :=
  !x.reservedOk || fld x.flags 2 6 != 0 || (bit x.flags 0 && k != .build)
    || x.pool % 65536 != 0 || x.poolLen % 65536 != 0 || x.poolLen < 65536 || 2 ^ 38 < x.poolLen
    || (k != .refit && 3 < x.nft)
    || (k != .rebal && (x.prim % 16 != 0 || x.nprim < 1 || 2 ^ 24 < x.nprim))

/-- Another die is running a job on the structure (R292). -/
def State.ownedElsewhere (s : State) (d hdr : Nat) : Bool :=
  let o := (s.structs.get {} hdr).die
  o != d && match (s.die o).running with | some j => j.kind != .nft && j.hdrPa == hdr | none => false

/-- A context's node-format table (R290). -/
def State.nftOf (s : State) (d ctx : Nat) : List NodeFmt := (s.die d).nft.get (List.replicate 4 {}) ctx

/-- The format of the current generation, as its LIVE entry holds it. -/
def State.currentFmt (s : State) (d hdr : Nat) : NodeFmt := ((s.liveOf d hdr (s.viewNat d hdr 4)).map (·.2)).getD {}

/-- The format that a job builds with (R297). -/
def State.jobFmt (s : State) (d : Nat) (j : Job) : NodeFmt :=
  if j.kind = .refit then s.currentFmt d j.hdrPa else (s.nftOf d j.space.ctx).getD j.desc.nft {}

/-- What code 3 of a job that is not a node-format job rests on, but for its descriptor: the structure (R291 to R293). -/
def State.structBad (s : State) (d : Nat) (j : Job) : Bool :=
  match s.structs.find j.hdrPa with
  | none => true
  | some x => x.pool != j.desc.pool || x.poolLen != j.desc.poolLen
      || (j.kind != .build && s.viewNat d j.hdrPa 4 == 0) || (j.kind == .refit && s.viewNat d (j.hdrPa + 0x20) 4 != j.desc.nprim)

/-- A BUILD with INIT starts its structure afresh (R293). -/
def State.initStruct (s : State) (d : Nat) (j : Job) : State :=
  let header := zeros 8 ++ leBytes j.desc.pool 8 ++ leBytes j.desc.poolLen 8 ++ leBytes j.desc.poolLen 8 ++ zeros 480
  let s := s.engineStore d j.hdrPa header builderAgent
  { s with structs := s.structs.put j.hdrPa { die := d, pool := j.desc.pool, poolLen := j.desc.poolLen } }

/-- What the running job reads of its header meets a poisoned unit (R295). -/
def State.headerMarked (s : State) (d : Nat) (j : Job) : Bool := (s.poisonIn d j.hdrPa 512).isSome

/-- A job on a structure starts, everything reclaimable returned (R302): the answer is the code that it has found. -/
def State.startJob (s : State) (d : Nat) (j : Job) : Option Nat × State :=
  let init := bit j.desc.flags 0
  let s := s.reclaim j.hdrPa
  if j.code.isSome then (j.code, s)
  else if j.desc.bad j.kind || s.ownedElsewhere d j.hdrPa || (init && s.heldAtAll j.hdrPa) then (some 3, s)
  else
    let s := if init then s.initStruct d j else s
    if s.headerMarked d j then (some 5, s)
    else if s.structBad d j then (some 3, s)
    else
      let s := { s with structs := s.structs.put j.hdrPa { s.structs.get {} j.hdrPa with die := d } }
      (none, s.engineNat d (j.hdrPa + 0x24) d 4 builderAgent)

/-- BUILDER_JOB_START (R292, R293, R302). -/
def execBuilderJobStart (die : Nat) (s : State) : Host.Outcome State Fault Refusal :=
  let x := s.die die
  match x.running, x.jobs with
  | none, j :: rest =>
    let (code, s) := if j.kind = .nft then (j.code, s) else s.startJob die j
    .next (s.modDie die fun x => { x with jobs := rest, running := some { j with code := code } })
  | _, _ => .next s

/-! ### What a job reads -/

/-- A range of a job on the pages that R286 lets it use, translated; code 4 otherwise. -/
def State.jobRange (s : State) (d : Nat) (j : Job) (write : Bool) (va len : Nat) : Option (List (Nat × Nat × Nat)) × State :=
  match s.translateRange d j.space (fun e => structurePage j.priv e && notControl e && (!write || pteW e)) va len with
  | (.ok m, s) => (if m.all fun x => s.regionOf x.2.1 == .device then some m else none, s)
  | (.error _, s) => (none, s)

/-- Bytes that a job reads, or its code 4 or 5. -/
def State.jobRead (s : State) (d : Nat) (j : Job) (va len : Nat) : Except Nat (List Byte) × State :=
  match s.jobRange d j false va len with
  | (none, s) => (.error 4, s)
  | (some m, s) =>
    if (s.markedIn d m va len).isSome then (.error 5, s)
    else (.ok ((upFrom va len).map fun a => s.viewByte d (rangePa m a)), s)

/-- The pages of a plan's blocks in the pool, for writing, from the first byte of their granules on. -/
def State.blockRanges (s : State) (d : Nat) (j : Job) : List PlanBlock → Option (List (Nat × Nat × Nat)) × State
  | [] => (some [], s)
  | b :: t =>
    let lo := (j.desc.pool + b.off) / 65536 * 65536
    match s.jobRange d j true lo (j.desc.pool + b.off + b.size - lo) with
    | (none, s) => (none, s)
    | (some m, s) =>
      match s.blockRanges d j t with
      | (none, s) => (none, s)
      | (some r, s) => (some (m ++ r), s)

/-- The leaf records of the current generation by INDEX, or a code. -/
def State.leafRecords (s : State) (d : Nat) (j : Job) : List PlanBlock → Except Nat (Tab (List Byte)) × State
  | [] => (.ok [], s)
  | b :: t =>
    if !b.leaf then s.leafRecords d j t
    else
      match s.jobRead d j (j.desc.pool + b.off) 256 with
      | (.error c, s) => (.error c, s)
      | (.ok img, s) =>
        match s.leafRecords d j t with
        | (.error c, s) => (.error c, s)
        | (.ok r, s) =>
          (.ok ((List.range b.kids.length).foldl (fun r i => r.put (b.kids.getD i 0) (slice img (0x10 + 48 * i) 48)) r), s)

/-- The primitive records of a job, as they stand in a leaf (R289), by INDEX. -/
def State.jobRecords (s : State) (d : Nat) (j : Job) : Except Nat (Tab (List Byte)) × State :=
  if j.kind = .rebal then s.leafRecords d j (s.structs.get {} j.hdrPa).plan
  else
    match s.jobRead d j j.desc.prim (48 * j.desc.nprim) with
    | (.error c, s) => (.error c, s)
    | (.ok img, s) =>
      (.ok ((List.range j.desc.nprim).map fun i =>
        let r := slice img (48 * i) 48
        (i, slice r 0 0x24 ++ leBytes i 4 ++ slice r 0x28 5 ++ zeros 3)), s)

/-- DEGEN of R297. -/
def degenerate (test : Nat) (recs : Tab (List Byte)) : Bool :=
  let boxes := recs.map fun r => (recordBox test r.2).plain
  (recs.any fun r => (usedVertices test r.2).any fun v => v.any fun w => (exactOf w).isNone)
    || boxes.any fun b => 2 ^ 20 < boxes.count b

/-- A node-format image that R290 allows. -/
def parseNft (b : List Byte) : Option (List NodeFmt) :=
  let e (k at_ : Nat) : Nat := field b (8 * k + at_) 1
  if (List.range 4).all fun k => e k 0 ≤ 3 && e k 1 ≤ 1 && 1 ≤ e k 2 && e k 2 ≤ 4 && field b (8 * k + 3) 5 == 0 then
    some ((List.range 4).map fun k => { test := e k 0, order := e k 1, leafMax := e k 2 })
  else none

/-- Every LIVE entry of a header is valid (R299). -/
def State.liveFull (s : State) (d hdr : Nat) : Bool := s.liveCount d hdr == 16

/-- The four records of R336 with the z of the last one, as they stand in a leaf. -/
def knownRecords (z : Nat) : Tab (List Byte) :=
  let one (i : Nat) (vs : List Nat) : Nat × List Byte :=
    (i, vs.flatMap (fun w => leBytes w 4) ++ leBytes i 4 ++ leBytes (0xA0 + i) 4 ++ [0xFF] ++ zeros 3)
  let (four, five, eight, twelve) := (0x40800000, 0x40A00000, 0x41000000, 0x41400000)
  [one 0 [0, 0, five, four, 0, five, 0, four, five], one 1 [four, four, five, 0, four, five, four, 0, five],
   one 2 [eight, 0, five, twelve, 0, five, eight, four, five], one 3 [twelve, four, z, eight, four, z, twelve, 0, z]]

/-- The H7's blocks for those records (R338), from a pool offset on. -/
def knownPlan (at_ : Nat) : List PlanBlock := [⟨at_, false, [2, 3, 0, 0], 0⟩, ⟨at_ + 0x80, true, [0, 1], 0⟩, ⟨at_ + 0x180, true, [2, 3], 0⟩]

/-- The placement of the one build and the one refit that is known of the H7 (R338): the build of R336's records into a new pool of 65,536 bytes, and the
refit of what it has built. -/
def h7Plan (j : Job) (x : Struct) (f : NodeFmt) (recs : Tab (List Byte)) : Option (List PlanBlock) :=
  if f ≠ {} ∨ x.poolLen ≠ 65536 then none
  else if j.kind = .build ∧ x.blocks = [] ∧ recs = knownRecords 0x40A00000 then some (knownPlan 0)
  else if j.kind = .refit ∧ x.plan = knownPlan 0 ∧ x.blocks.length = 3 ∧ recs = knownRecords 0x40400000 then some (knownPlan 0x280)
  else none

/-- The topology of a job (R293): a REFIT keeps the current one, BUILD and REBAL use the builder's one method, which R338 shows for R336's records. -/
def jobTree (j : Job) (x : Struct) (f : NodeFmt) (recs : Tab (List Byte)) : List PlanBlock :=
  if j.kind = .refit then x.plan
  else if f = {} ∧ recs = knownRecords 0x40A00000 then knownPlan 0
  else Config.builderTree f.test f.order f.leafMax recs

/-- The blocks of a job in their places in a pool as it stands; none when the builder finds no place for them. -/
def jobPlan (j : Job) (x : Struct) (f : NodeFmt) (recs : Tab (List Byte)) : Option (List PlanBlock) :=
  match h7Plan j x f recs with
  | some p => some p
  | none =>
    let tree := jobTree j x f recs
    (Config.builderPlaces x.poolLen (x.blocks.map fun b => (b.off, b.len)) tree).map fun l =>
      tree.zipWith (fun b o => { b with off := o }) l

/-- What a job finds in its pool: the blocks in their places, at once or, as the flag says, once everything reclaimable is returned (R298). -/
def State.placement (s : State) (d : Nat) (j : Job) (recs : Tab (List Byte)) : Option (Bool × List PlanBlock) :=
  let x := s.structs.get {} j.hdrPa
  let f := s.jobFmt d j
  match jobPlan j x f recs with
  | some p => some (false, p)
  | none => (jobPlan j (s.reclaimed j.hdrPa x) f recs).map fun p => (true, p)

/-- The pool's accounting as a placement finds it. -/
def State.poolFor (s : State) (hdr : Nat) (reclaim : Bool) : Struct :=
  let x := s.structs.get {} hdr
  if reclaim then s.reclaimed hdr x else x

/-- The topologies that R293 lets a job publish; the builder's method gives one of them. -/
def treeAllowed (j : Job) (x : Struct) (f : NodeFmt) (recs : Tab (List Byte)) (plan : List PlanBlock) : Bool :=
  if j.kind = .refit then sameTopology plan x.plan else planTopology f.leafMax (recs.map Prod.fst) plan

/-- A job changes no block: a REBAL keeps the topology and the boxes, which its TEST may change, or a REFIT's leaf records are what the leaves hold
(R293). -/
def State.keepsAll (s : State) (d : Nat) (j : Job) (x : Struct) (recs : Tab (List Byte)) : Bool :=
  match j.kind with
  | .rebal => sameTopology (jobTree j x (s.jobFmt d j) recs) x.plan &&
      planBoxes (s.currentFmt d j.hdrPa).test recs 0 x.plan == planBoxes (s.jobFmt d j).test recs 0 x.plan
  | .refit => (match (s.leafRecords d j x.plan).1 with | .ok old => recs.all fun r => old.find r.1 == some r.2 | .error _ => false)
  | .build | .nft => false

/-- The codes with which the running job of a die may end, other than 0 (R295). -/
def State.jobCodes (s : State) (d : Nat) (j : Job) : List Nat :=
  match j.code with
  | some c => [c]
  | none =>
    if j.kind = .nft then
      if (s.poisonIn d j.hdrPa 32).isSome then [5]
      else if (parseNft (s.viewBytes d j.hdrPa 32)).isNone then [3] else []
    else if s.headerMarked d j then [5]
    else
      match (s.jobRecords d j).1 with
      | .error c => [c]
      | .ok recs =>
        let x := s.structs.get {} j.hdrPa
        (if degenerate (s.jobFmt d j).test recs then [2] else []) ++ (if s.liveFull d j.hdrPa then [1] else [])
          ++ if s.keepsAll d j x recs then [] else
            match s.placement d j recs with
            | none => if (s.reclaimed j.hdrPa x).tight recs.length then [1] else []
            | some (_, plan) => if (s.blockRanges d j plan).1.isNone then [4] else []

/-! ### The end of a job -/

/-- The cause of a code (R295, R332). -/
def jobCause (k : JobKind) (code : Nat) : Option Cause :=
  match code with
  | 1 => some .bexh
  | 2 => some .degen
  | 3 | 4 => if k = .nft then some .prot else none
  | 5 => some .poison
  | _ => none

/-- Steps 4 and 5 of R294 with a code: STATE, JOBSEQ and the signal; then the cause of R295, and the builder is free. -/
def State.endJob (s : State) (d : Nat) (j : Job) (code : Nat) : State :=
  let s := s.modDie d fun x => { x with running := none }
  let s :=
    if j.kind = .nft then s
    else
      let s := (s.engineStore d (j.hdrPa + 4) (s.stateWord d j.hdrPa code) builderAgent).engineNat d (j.hdrPa + 0x28) (s.viewNat d (j.hdrPa + 0x28) 8 + 1) 8 builderAgent
      if bit j.desc.flags 1 then s.signal d j.space.ctx j.desc.tl j.desc.tlval else s
  match jobCause j.kind code with
  | some c => s.note j.uid j.pos c (word j.descVa)
  | none => s

/-- BUILDER_JOB_FAIL (R295); at an allocation failure everything reclaimable has been returned (R302). -/
def execBuilderJobFail (die code : Nat) (s : State) : Host.Outcome State Fault Refusal :=
  match (s.die die).running with
  | some j => .next (if (s.jobCodes die j).contains code then (if code = 1 then s.reclaim j.hdrPa else s).endJob die j code else s)
  | none => .next s

/-! ### What a publish writes (R288, R289, R303) -/

/-- The signed offset of R288 between two pool offsets. -/
def offsetBytes (at_ other : Nat) : List Byte := leBytes ((((other : Int) - at_) / 128) % (2 ^ 32 : Nat)).toNat 4

/-- A leaf block. -/
def leafImage (plan : List PlanBlock) (recs : Tab (List Byte)) (i : Nat) (b : PlanBlock) : List Byte :=
  let up := match parentOf plan i with | some p => (plan.getD p b).off | none => b.off
  let body := b.kids.flatMap fun r => recs.get [] r
  leBytes b.kids.length 1 ++ zeros 3 ++ offsetBytes b.off up ++ zeros 8 ++ body ++ zeros (240 - body.length)

/-- An internal node born in a generation; the box of an empty slot is not stated, and its bytes are a free function of the input and the plan. -/
def nodeImage (plan : List PlanBlock) (recs : Tab (List Byte)) (boxes : Tab Box) (gen i : Nat) (b : PlanBlock) : List Byte :=
  let up := match parentOf plan i with | some p => (plan.getD p b).off | none => b.off
  let child (k : Nat) : PlanBlock := plan.getD (k - 1) b
  let slotBox (k c : Nat) : List Byte :=
    if c = 0 then (List.range 24).map fun x => Config.emptyBox recs plan (96 * i + 24 * k + x)
    else
      let x := boxes.get ⟨[], []⟩ (c - 1)
      (x.lo ++ x.hi).flatMap fun w => leBytes w 4
  let kind := ((List.range 4).map fun k => 2 ^ k * ofBool (b.kids.getD k 0 != 0 && (child (b.kids.getD k 0)).leaf)).foldl (· + ·) 0
  ((List.range 4).flatMap fun k => slotBox k (b.kids.getD k 0))
    ++ (b.kids.flatMap fun c => if c = 0 then zeros 4 else offsetBytes b.off (child c).off)
    ++ offsetBytes b.off up ++ leBytes kind 1 ++ leBytes b.axes 1 ++ zeros 2 ++ leBytes gen 4 ++ zeros 4

/-- The extents of a box, exactly. -/
def Box.extents (b : Box) : List Rat :=
  List.zipWith (fun l h => match exactOf l, exactOf h with | some x, some y => y - x | _, _ => 0) b.lo b.hi

/-- The surface area of three extents. -/
def areaOf : List Rat → Rat
  | [x, y, z] => 2 * (x * y + y * z + z * x)
  | _ => 0

/-- The intersection area of two boxes. -/
def Box.meetArea (a b : Box) : Rat :=
  let e := Box.extents ⟨List.zipWith fp32.max a.lo b.lo, List.zipWith fp32.min a.hi b.hi⟩
  if e.all fun x => decide (0 ≤ x) then areaOf e else 0

/-- The pairs of a list. -/
def pairsOf {α : Type} : List α → List (α × α)
  | [] => []
  | a :: t => t.map (fun b => (a, b)) ++ pairsOf t

/-- The sum of rationals. -/
def sumRat (l : List Rat) : Rat := l.foldl (· + ·) 0

/-- The exact quality figures of R303: words 0, 1 and 3. -/
def qualityOf (plan : List PlanBlock) (boxes : Tab Box) : Rat × Rat × Rat :=
  let at_ (i : Nat) : Box := boxes.get ⟨[], []⟩ i
  let area (i : Nat) : Rat := areaOf (at_ i).extents
  let idx := List.range plan.length
  let blk (i : Nat) : PlanBlock := plan.getD i ⟨0, true, [], 0⟩
  let leaves := idx.filter fun i => (blk i).leaf
  let nodes := idx.filter fun i => !(blk i).leaf
  let count (i : Nat) : Rat := ((blk i).kids.length : Int)
  let whole := area 0
  let sah := if whole = 0 then 0 else sumRat ((nodes.map fun i => area i / whole) ++ leaves.map fun i => count i * area i / whole)
  let meets := sumRat (nodes.flatMap fun i => (pairsOf (blk i).children).map fun p => (at_ p.1).meetArea (at_ p.2))
  let below := sumRat (nodes.flatMap fun i => (blk i).children.map area)
  (sah, if below = 0 then 0 else meets / below, sumRat (leaves.map count) / ((leaves.length : Nat) : Int))

/-- The FP32 word that the builder returns for an exact figure: free bits within 2^-16 of it, relatively (R303, log 12). A mean COUNT that is an FP32
number is given exactly, as in R346. -/
def qualWord (k : Nat) (q : Rat) : Nat :=
  let w := (Config.qualBits k q.num.toNat q.den).toNat
  if q = 0 then 0
  else if k = 3 ∧ exactOf (roundRat fp32 q) = some q then roundRat fp32 q
  else
    match exactOf w with
    | some x => if (x - q) * 65536 ≤ q ∧ (q - x) * 65536 ≤ q then w else roundRat fp32 q
    | none => roundRat fp32 q

/-- The depths of a plan's leaf blocks. -/
def leafDepths (plan : List PlanBlock) : List Nat :=
  ((planDepths plan).filter fun x => (plan.getD x.1 ⟨0, true, [], 0⟩).leaf).map Prod.snd

/-- QUAL and HIST. -/
def qualityBytes (plan : List PlanBlock) (boxes : Tab Box) : List Byte × List Byte :=
  let (sah, overlap, mean) := qualityOf plan boxes
  let deep := leafDepths plan
  (leBytes (qualWord 0 sah) 4 ++ leBytes (qualWord 1 overlap) 4 ++ leBytes (deep.foldl Nat.max 0) 4 ++ leBytes (qualWord 3 mean) 4,
   (List.range 32).flatMap fun k => leBytes (deep.count k) 4)

/-- Stores the blocks of a plan. -/
def State.writeBlocks (s : State) (d : Nat) (pool : List (Nat × Nat × Nat)) (poolVa : Nat) (images : List (Nat × List Byte)) : State :=
  foldState (fun x s =>
    let va := poolVa + x.1
    let s := s.engineStore d (rangePa pool va) (slice x.2 0 128) builderAgent
    if 128 < x.2.length then s.engineStore d (rangePa pool (va + 128)) (slice x.2 128 128) builderAgent else s) images s

/-- The images of a plan's blocks with their pool offsets. -/
def planImages (plan : List PlanBlock) (recs : Tab (List Byte)) (boxes : Tab Box) (gen : Nat) : List (Nat × List Byte) :=
  (List.range plan.length).map fun i =>
    let b := plan.getD i ⟨0, true, [], 0⟩
    (b.off, if b.leaf then leafImage plan recs i b else nodeImage plan recs boxes gen i b)

/-- The generation after one (R294). -/
def nextGen (g : Nat) : Nat := if g = 0 ∨ g = 0xFFFFFFFF then 1 else g + 1

/-- The publication of a hierarchy that stands in the pool: LIVE, the release, CUR, NPRIM, QUAL and HIST (R294). The store of CUR reaches its home at
once, so that the old generation, which stops being live with it, can be pinned no longer (R299). -/
def State.publish (s : State) (d : Nat) (j : Job) (f : NodeFmt) (x : Struct) (n : Nat) (q : List Byte × List Byte) : State :=
  let h := j.hdrPa
  let g := nextGen (s.viewNat d h 4)
  let e := ((List.range 16).find? fun e => !bit (s.liveEntry d h e).1 32).getD 0
  let root := x.pool + (match x.plan with | b :: _ => b.off | [] => 0)
  let live := leBytes (g + 2 ^ 32 + f.test * 2 ^ 40 + f.order * 2 ^ 44 + f.leafMax * 2 ^ 48) 8 ++ leBytes root 8
  let s := (s.engineStore d (h + 0x100 + 16 * e) live builderAgent).releaseSys d
  let s := s.storeAtHome d builderAgent h (leBytes g 4)
  let s := (s.engineNat d (h + 0x18) x.free 8 builderAgent).engineNat d (h + 0x20) n 4 builderAgent
  let s := (s.engineStore d (h + 0x30) q.1 builderAgent).engineStore d (h + 0x80) q.2 builderAgent
  ({ s with structs := s.structs.put h x }).settleLive h d

/-- The blocks of a structure after a plan has replaced its current blocks (R293, R294). -/
def Struct.replace (x : Struct) (plan : List PlanBlock) (cur gen : Word) : Struct :=
  let old := x.blocks.map fun b => if b.freed.isNone then { b with freed := some cur } else b
  { x with plan := plan, blocks := plan.foldl (fun l b => insertBlock ⟨b.off, b.size, gen, none⟩ l) old }

/-- A job on a structure ends with code 0, with the plan that the builder's method gives; nothing happens for another, when the rules do not let the job
end so, or while its release cannot take effect. -/
def State.publishJob (s : State) (d : Nat) (j : Job) (plan : List PlanBlock) : State :=
  match s.jobRecords d j with
  | (.error _, _) => s
  | (.ok recs, s1) =>
    let f := s.jobFmt d j
    let x := s.structs.get {} j.hdrPa
    let cur := word (s.viewNat d j.hdrPa 4)
    let gen := nextGen cur.toNat
    if s.headerMarked d j || degenerate f.test recs || s.liveFull d j.hdrPa || !s.canFlush d then s
    else if s.keepsAll d j x recs then
      if plan ≠ x.plan then s
      else (s1.publish d j f x recs.length (qualityBytes x.plan (planBoxes f.test recs 0 x.plan))).endJob d j 0
    else
      match s.placement d j recs, s1.blockRanges d j plan with
      | some (returned, p), (some m, s2) =>
        let x := s.poolFor j.hdrPa returned
        if p ≠ plan || !treeAllowed j x f recs plan || !x.placeable plan then s
        else
          let s2 := if returned then s2.reclaim j.hdrPa else s2
          let boxes := planBoxes f.test recs 0 plan
          let s3 := s2.writeBlocks d m j.desc.pool (planImages plan recs boxes gen)
          (s3.publish d j f (x.replace plan cur (word gen)) recs.length (qualityBytes plan boxes)).endJob d j 0
      | _, _ => s

/-- BUILDER_PUBLISH (R294, and R290 for a node-format table). -/
def execBuilderPublish (die : Nat) (plan : List PlanBlock) (s : State) : Host.Outcome State Fault Refusal :=
  match (s.die die).running with
  | none => .next s
  | some j =>
    if j.code.isSome then .next s
    else if j.kind = .nft then
      match (s.poisonIn die j.hdrPa 32).isSome, parseNft (s.viewBytes die j.hdrPa 32) with
      | false, some t => .next ((s.modDie die fun x => { x with nft := x.nft.put j.space.ctx t }).endJob die j 0)
      | _, _ => .next s
    else .next (s.publishJob die j plan)

/-! ### BLD.* (R330 to R333) -/

/-- Bytes of a descriptor or header that an instruction reads: R331's rows XLATE, PROT and POISON; the answer is where they stand. -/
def State.structBytes (s : State) (write : Bool) (va len : Nat) : Except Raised Nat × State :=
  match s.translate s.myDie s.me.space s.me.priv write va s.myCore with
  | (.error r, s) => (.error (s.refusal (if write then .rmw else .read) r), s)
  | (.ok (pa, e, _), s) =>
    if !structurePage s.me.priv e || controlFrame e || s.regionOf pa != .device then (.error (s.trapAt .prot (word va)), s)
    else
      match s.poisonIn s.myDie pa len with
      | some u => (.error (s.trapAt .poison (lineTval u)), s)
      | none => (.ok pa, s)

/-- The effect of BLD.BUILD, BLD.REFIT and BLD.REBAL (R331). -/
def bldOp (k : JobKind) (a : Code) (s : State) (p : Nat) : Except Raised State :=
  let va := (s.src64 p a).toNat
  if va % 64 ≠ 0 then .error (s.trapAt .align (word va))
  else
    match s.structBytes false va 64 with
    | (.error r, _) => .error r
    | (.ok pa, s) =>
      let x := parseDesc (s.viewBytes s.myDie pa 64)
      if x.hdr % 512 ≠ 0 then .error (s.trapAt .align (word x.hdr))
      else
        match s.structBytes true x.hdr 512 with
        | (.error r, _) => .error r
        | (.ok hdr, s) =>
          let j : Job :=
            { kind := k, desc := x, descVa := va, hdrPa := hdr, space := s.me.space, priv := s.me.priv, uid := s.me.uid, pos := p }
          .ok (s.modDie s.myDie fun y => { y with jobs := y.jobs ++ [j] })

/-- The effect of BLD.BUILD.NFT (R332). -/
def nftOp (a : Code) (s : State) (p : Nat) : Except Raised State :=
  let va := (s.src64 p a).toNat
  if va % 32 ≠ 0 then .error (s.trapAt .align (word va))
  else
    match s.translate s.myDie s.me.space s.me.priv false va s.myCore with
    | (.error r, s) => .error (s.refusal .read r)
    | (.ok (pa, e, _), s) =>
      if !notControl e then .error (s.trapAt .prot (word va)) else
      let usable := structurePage s.me.priv e && s.regionOf pa == .device
      let j : Job :=
        { kind := .nft, descVa := va, hdrPa := pa, space := s.me.space, priv := s.me.priv, uid := s.me.uid, pos := p
          code := if usable then none else some 4 }
      .ok (s.modDie s.myDie fun y => { y with jobs := y.jobs ++ [j] })

/-- The check of a geometry die (R292). -/
def State.onGeometry (s : State) (_p : Nat) : Option Raised :=
  if s.kindOf s.myDie = .geometry then some (s.trapAt .ill s.cur.first) else none

/-- A BLD.* that queues a job waits in place while 64 are queued (R314). -/
def State.queueFull (s : State) (_ps : List Nat) : Option State := if 64 ≤ (s.die s.myDie).jobs.length then some s.waits else none

/-- The frame of the BLD.* that queue a job. -/
def bld (i : Instr) (f : State → Nat → Except Raised State) (s : State) : State :=
  s.runWith i s.onGeometry s.queueFull 2 (reading i (once f))

/-- BLD.BUILD with NFT = 0 (R331). -/
noncomputable def execBldBuild (a : Code) (s : State) : Host.Outcome State Fault Refusal := .next (bld (.bldBuild a) (bldOp .build a) s)

/-- BLD.BUILD with NFT = 1 (R332). -/
noncomputable def execBldBuildNft (a : Code) (s : State) : Host.Outcome State Fault Refusal := .next (bld (.bldBuildNft a) (nftOp a) s)

/-- BLD.REFIT (R331). -/
noncomputable def execBldRefit (a : Code) (s : State) : Host.Outcome State Fault Refusal := .next (bld (.bldRefit a) (bldOp .refit a) s)

/-- BLD.REBAL (R331). -/
noncomputable def execBldRebal (a : Code) (s : State) : Host.Outcome State Fault Refusal := .next (bld (.bldRebal a) (bldOp .rebal a) s)

/-- A body that reads the header which the lowest member names, and gives every member what `f` finds there (R333). -/
def readsHeader (a : Code) (f : State → Nat → List Nat → State) (s : State) (ps : List Nat) : Done :=
  match ps with
  | [] => { st := s, ok := [], raised := [] }
  | p :: _ =>
    let va := (s.src64 p a).toNat
    if va % 512 ≠ 0 then { st := s, ok := [], raised := raiseAll ps (s.trapAt .align (word va)) }
    else
      match s.structBytes false va 512 with
      | (.error r, s) => { st := s, ok := [], raised := raiseAll ps r }
      | (.ok hdr, s) => { st := f (s.acquireSys s.myDie) hdr ps, ok := ps, raised := [] }

/-- The status word of R296. -/
def State.structStatus (s : State) (hdr : Nat) : Nat :=
  let x := s.die s.myDie
  let on (j : Job) : Bool := j.kind != .nft && j.hdrPa == hdr
  let st := s.viewNat s.myDie (hdr + 4) 4
  fld st 0 4 + 2 ^ 7 * ofBool (x.running.any on) + fld st 8 5 * 2 ^ 8 + min 65535 (x.jobs.filter on).length * 2 ^ 16

/-- BLD.STAT (R296, R333). -/
noncomputable def execBldStat (d a : Code) (s : State) : Host.Outcome State Fault Refusal :=
  .next (s.runWith (.bldStat d a) s.onGeometry (fun _ => none) 2 (reading (.bldStat d a)
    (readsHeader a fun s hdr ps => s.writeEach ps d fun _ => word (s.structStatus hdr))))

/-- BLD.QUAL (R303, R333). -/
noncomputable def execBldQual (d a : Code) (s : State) : Host.Outcome State Fault Refusal :=
  .next (s.runWith (.bldQual d a) s.onGeometry (fun _ => none) 2 (reading (.bldQual d a)
    (readsHeader a fun s hdr ps =>
      let q := (List.range 4).map fun k => word (s.viewNat s.myDie (hdr + 0x30 + 4 * k) 4)
      foldState (fun k s => s.writeEach ps (d + BitVec.ofNat 8 k) fun _ => q.getD k 0) (List.range 4) s)))

end Sys2Proof.Machine
end

