-- ==== Sys2Proof/Machine/LaneControl.lean ====
section
/-! DEFINITION. Branches, calls, returns, EXIT and TRAP (R119 to R123), predicate operations (R124), special-register moves (R125, R126), the
delivery of noted causes (R433) and the illegal encoding (R44). -/

namespace Sys2Proof.Machine

open Sys2Proof

/-! ### Branches -/

/-- Whether a member takes a B-format instruction (R29). -/
def State.takes (s : State) (pred : PredNo) (neg : BitVec 1) (p : Nat) : Bool :=
  (s.me.thread p).pred pred != (neg == 1#1)

/-- The target of R27, or none where it lies outside the code addresses. -/
def State.target (s : State) (off : BitVec 20) : Option Word :=
  let t : Int := (s.cur.addr.toNat : Int) + 2 * off.toInt
  if t < 0 ∨ 0xFFFFE < t then none else some (word t.toNat)

/-- ILL at the unit being issued (R24). -/
def State.ill (s : State) : Raised := s.trapAt .ill s.cur.first

/-- Members that take a branch jump to one address. -/
def jumpAll (a : Word) : List Nat → Tab Word
  | [] => []
  | p :: t => (p, a) :: jumpAll a t

/-- Writes O7 := the address of the next instruction in some members (R119, R122). -/
def State.linkO7 (s : State) (ps : List Nat) : State :=
  let next := s.nextCode
  foldState (fun p s => s.modWave s.cur.wave fun w => w.writeCode p 0xF7 next) ps s

/-- BRA and CALL: the ILL check of the target holds whether or not the branch is taken. -/
def branch (i : Instr) (pred : PredNo) (neg : BitVec 1) (off : BitVec 20) (link : Bool) (s : State) : State :=
  s.runUnit i 0 fun s ps =>
    match s.target off with
    | none => { st := s, ok := [], raised := raiseAll ps s.ill }
    | some a =>
      let taken := ps.filter fun p => s.takes pred neg p
      { st := if link then s.linkO7 taken else s, ok := ps, raised := [], jumps := jumpAll a taken }

/-- RET's check of O7 in one member (R119): an uncorrectable error in it, or a value that is no code address. -/
def State.retCheck (s : State) (p : Nat) : Option Raised :=
  let o7 := (s.me.thread p).o.get 0 7
  if (s.me.thread p).bad.contains 0xF7 then some (s.trapAt .softerr 0)
  else if o7.toNat / 2 ^ 20 ≠ 0 ∨ o7.getLsbD 0 then some s.ill
  else none

/-- The address in O7 for some members. -/
def State.returns (s : State) : List Nat → Tab Word
  | [] => []
  | p :: t => (p, (s.me.thread p).o.get 0 7) :: s.returns t

/-- BRA (R119). -/
def execBra (p : PredNo) (n : BitVec 1) (o : BitVec 20) (s : State) : Host.Outcome State Fault Refusal :=
  .next (branch (.bra p n o) p n o false s)

/-- CALL (R119). -/
def execCall (p : PredNo) (n : BitVec 1) (o : BitVec 20) (s : State) : Host.Outcome State Fault Refusal :=
  .next (branch (.call p n o) p n o true s)

/-- RET (R119). -/
def execRet (p : PredNo) (n : BitVec 1) (s : State) : Host.Outcome State Fault Refusal :=
  .next (s.runUnit (.ret p n) 0 fun s ps =>
    let (ok, rs) := splitFront s.retCheck ps
    { st := s, ok := ok, raised := rs, jumps := s.returns (ok.filter fun q => s.takes p n q) })

/-- EXIT (R121). -/
def execExit (p : PredNo) (n : BitVec 1) (s : State) : Host.Outcome State Fault Refusal :=
  .next (s.runUnit (.exit p n) 0 (allDone fun s ps =>
    foldState (fun q s => s.endThread s.cur.wave q) (ps.filter fun q => s.takes p n q) s))

/-- A snapshot trigger (R405): accepted while ARM = 1 and HELD = 0, at the CLOCK count of now. A trigger already accepted stands.
`source` is R406's: 0 the debug trigger, 1 FIRE, 2 the SNAP pin. -/
def State.snapTrigger (s : State) (source : Nat) : State :=
  if s.weir.arm && !s.weir.heldSnap && s.weir.trigger.isNone then { s with weir := { s.weir with trigger := some (s.clock + 256, source) } } else s

/-- TRAP (R120): TPC is the address of the next instruction; the debug trigger of R405 fires when imm8 is IMM. -/
def execTrap (p : PredNo) (n : BitVec 1) (i : BitVec 8) (s : State) : Host.Outcome State Fault Refusal :=
  .next (s.runUnit (.trap p n i) 0 fun s ps =>
    let taken := ps.filter fun q => s.takes p n q
    let fire := !taken.isEmpty && s.weir.trapen && s.weir.imm == i
    { st := if fire then s.snapTrigger 0 else s
      ok := ps.filter fun q => !s.takes p n q
      raised := raiseAll taken (.trap .trapi s.nextCode (i.zeroExtend 32)) })

/-! ### Indirect branches -/

/-- The target tables of the overlay that holds the unit (R51). -/
def State.tables (s : State) : List TargetTable :=
  let c := s.core s.myCore
  match c.resident s.me.obj (s.cur.addr.toNat / 0x10000) with
  | some k => (c.slot k).tables
  | none => []

/-- The table entry that an index names. -/
def State.tableEntry (s : State) (n : BitVec 4) (i : Word) : Option Word :=
  ((s.tables[n.toNat]?).bind fun t => t.entries[i.toNat]?)

/-- The join address of a table. -/
def State.tableJoin (s : State) (n : BitVec 4) : Word := ((s.tables[n.toNat]?).map TargetTable.join).getD 0

/-- The addresses that members jump to through a table. -/
def State.tableJumps (s : State) (a : Code) (n : BitVec 4) : List Nat → Tab Word
  | [] => []
  | p :: t => (p, (s.tableEntry n (s.src p [] a)).getD 0) :: s.tableJumps a n t

/-- Gives some members a fresh join mark (R123). -/
def State.giveMark (s : State) (addr : Word) (ps : List Nat) : State :=
  let (id, s) := s.fresh
  foldState (fun p s => s.modThread s.cur.wave p fun t => { t with mark := some ⟨id, addr⟩ }) ps s

/-- BRI and CALLI (R122, R123). -/
def indirect (i : Instr) (a : Code) (n : BitVec 4) (link : Bool) (s : State) : State :=
  s.runUnit i 0 (reading i fun s ps =>
    let (ok, rs) := splitFront (fun p =>
      let x := s.src p [] a
      if (s.tableEntry n x).isNone then some (s.trapAt .target x) else none) ps
    let jumps := s.tableJumps a n ok
    let join := if link then s.nextCode else s.tableJoin n
    let s' := if ok.isEmpty then s else (if link then s.linkO7 ok else s).giveMark join ok
    { st := s', ok := ok, raised := rs, jumps := jumps })

/-- BRI (R122). -/
def execBri (a : Code) (t : BitVec 4) (s : State) : Host.Outcome State Fault Refusal :=
  .next (indirect (.bri a t) a t false s)

/-- CALLI (R122). -/
def execCalli (a : Code) (t : BitVec 4) (s : State) : Host.Outcome State Fault Refusal :=
  .next (indirect (.calli a t) a t true s)

/-! ### Predicate operations (R124) -/

/-- MAND (R124). -/
def execMand (d s' t : PredNo) (s : State) : Host.Outcome State Fault Refusal :=
  .next (predPair (.mand d s' t) d s' t (fun x y => x && y) s)

/-- MOR (R124). -/
def execMor (d s' t : PredNo) (s : State) : Host.Outcome State Fault Refusal :=
  .next (predPair (.mor d s' t) d s' t (fun x y => x || y) s)

/-- MXOR (R124). -/
def execMxor (d s' t : PredNo) (s : State) : Host.Outcome State Fault Refusal :=
  .next (predPair (.mxor d s' t) d s' t (fun x y => x != y) s)

/-- MNOT (R124). -/
def execMnot (d s' : PredNo) (s : State) : Host.Outcome State Fault Refusal :=
  .next (predOp (.mnot d s') d (fun s p => !(s.me.thread p).pred s') s)

/-- MMOV (R124). -/
def execMmov (d s' : PredNo) (s : State) : Host.Outcome State Fault Refusal :=
  .next (predOp (.mmov d s') d (fun s p => (s.me.thread p).pred s') s)

/-- MFROMV (R124). -/
def execMfromv (d : PredNo) (a : Code) (s : State) : Host.Outcome State Fault Refusal :=
  .next (predOp (.mfromv d a) d (fun s p => s.src p [] a != 0) s)

/-- MTOV (R124). -/
def execMtov (d : Code) (a : PredNo) (s : State) : Host.Outcome State Fault Refusal :=
  .next (s.runUnit (.mtov d a) 0 (allDone fun s ps =>
    s.writeEach ps d fun p => if (s.me.thread p).pred a then 1 else 0))

/-! ### Special registers (R21, R125, R126) -/

/-- TAGS of a core (R138). -/
def CoreSt.tagsWord (c : CoreSt) : Word64 :=
  BitVec.ofNat 64 ((List.range 64).foldl (fun n t => n + ofBool (c.tags.get .idle t == .done) * 2 ^ t) 0)

/-- The value of a special register in a member (R21). -/
def State.special (s : State) (p n : Nat) : Word64 :=
  let w := s.me
  let t := w.thread p
  match n with
  | 0x00 => BitVec.ofNat 64 (w.tidBase + p)
  | 0x01 => BitVec.ofNat 64 (w.base + p)
  | 0x02 => BitVec.ofNat 64 w.wid
  | 0x03 => BitVec.ofNat 64 w.teamIdx
  | 0x04 => BitVec.ofNat 64 w.width
  | 0x05 => (coreRegister s.myCore).zeroExtend 64
  | 0x08 => BitVec.ofNat 64 s.clock
  | 0x10 => w.cause.zeroExtend 64
  | 0x11 => t.tpc.zeroExtend 64
  | 0x12 => t.tval.zeroExtend 64
  | 0x13 => w.tvec.zeroExtend 64
  | 0x18 => (s.core s.myCore).tagsWord
  | 0x19 => BitVec.ofNat 64 (s.core s.myCore).pocket
  | 0x1A => w.mtype.zeroExtend 64
  | 0x1C => t.lfsr.zeroExtend 64
  | 0x1D => t.gens.zeroExtend 64
  | _ => 0

/-- SRD (R125). -/
def execSrd (d : Code) (n : BitVec 8) (s : State) : Host.Outcome State Fault Refusal :=
  .next (s.runUnit (.srd d n) 0 (allDone fun s ps =>
    if specialWidth n.toNat = some 64 then s.writeEach64 ps d fun p => s.special p n.toNat
    else s.writeEach ps d fun p => (s.special p n.toNat).extractLsb' 0 32))

/-- A value that TPC and TVEC may take (R126). -/
def codeAddressOk (v : Word) : Bool := v.toNat < 2 ^ 20 && !v.getLsbD 0

/-- Writes a thread-scope special register. -/
def Thread.setSpecial (t : Thread) (n : Nat) (v : Word) : Thread :=
  match n with
  | 0x11 => { t with tpc := v }
  | 0x1C => { t with lfsr := v }
  | 0x1D => { t with gens := v }
  | _ => t

/-- SWR (R126): TVEC keeps the value of the lowest member, the others act in each member. -/
def execSwr (n : BitVec 7) (a : Code) (s : State) : Host.Outcome State Fault Refusal :=
  .next (s.runUnit (.swr n a) 0 (reading (.swr n a) fun s ps =>
    let (ok, rs) := splitFront (fun p =>
      if (n == 0x11 || n == 0x13) && !codeAddressOk (s.src p [] a) then some s.ill else none) ps
    let s' :=
      if n == 0x13 then
        match ok with
        | p :: _ => s.modWave s.cur.wave fun w => { w with tvec := s.src p [] a }
        | [] => s
      else foldState (fun p t => t.modThread t.cur.wave p fun x => x.setSpecial n.toNat (s.src p [] a)) ok s
    { st := s', ok := ok, raised := rs }))

/-- The wave that SWR.OTHER names: the slot W15[3:0] of this core (R126). -/
def State.otherWave (s : State) : Nat := 16 * s.myCore + fld (s.me.w.get 0 15).toNat 0 4

/-- The position of another wave on the lane of a member. -/
def Wave.onLane (w : Wave) (lane : Nat) : Option Nat :=
  if w.base ≤ lane && lane < w.base + w.threads.length then some (lane - w.base) else none

/-- SWR.OTHER (R126). A task without privilege raises PRIV even where the value for TVEC is no code address: R45's list of what its ILL covers names
no check of a value (log 53). -/
def execSwrOther (n : BitVec 7) (a : Code) (s : State) : Host.Outcome State Fault Refusal :=
  .next (s.runUnit (.swrOther n a) 0 (reading (.swrOther n a) fun s ps =>
    let k := s.otherWave
    let (ok, rs) := splitFront (fun p => if n == 0x13 && !codeAddressOk (s.src p [] a) then some s.ill else none) ps
    let s' :=
      if n == 0x13 then
        match ok with
        | p :: _ => s.modWave k fun w => { w with tvec := s.src p [] a }
        | [] => s
      else foldState (fun p t =>
        match (t.wave k).onLane (s.me.base + p) with
        | some q => t.modThread k q fun x => { x with lfsr := s.src p [] a }
        | none => t) ok s
    { st := s', ok := ok, raised := rs }))

/-! ### NOP, noted causes and illegal encodings -/

/-- NOP (R32). -/
def execNop (s : State) : Host.Outcome State Fault Refusal := .next (s.runUnit .nop 0 (allDone fun s _ => s))

/-- NOTED_CAUSE_DELIVERY (R433): each member of the group with a noted cause raises its first one at the unit's address, and does not execute
the unit. It has belonged to the group, so its starvation count returns to 0. -/
def execNotedCauseDelivery (s : State) : Host.Outcome State Fault Refusal :=
  let ps := s.notedMembers
  let raised := ps.filterMap fun p => (s.me.thread p).noted.head?.map fun n => (p, Raised.trap n.1 s.cur.addr n.2)
  let s := foldState (fun p s => s.modThread s.cur.wave p fun t => { t with noted := t.noted.drop 1, starve := 0 }) ps s
  let rest (l : List Nat) : List Nat := l.filter fun p => !ps.contains p
  .next ({ s with cur := { s.cur with group := rest s.cur.group, ready := rest s.cur.ready } }.deliverAll s.cur.wave raised)

/-- ILLEGAL_ENCODING (R44): every member raises ILL at the unit's address. -/
def execIllegalEncoding (s : State) : Host.Outcome State Fault Refusal :=
  .next (s.deliverAll s.cur.wave (raiseAll s.cur.group s.ill))

end Sys2Proof.Machine
end

