-- ==== Sys2Proof/Machine/Watch.lean ====
section
/-! DEFINITION. Cross-die semaphores and watch entries (R359 to R371). -/

namespace Sys2Proof.Machine

open Sys2Proof

/-! ### Semaphores (R360 to R362) -/

/-- The number of semaphores: 256 for each Basin die. -/
def State.semCount (s : State) : Nat := 256 * s.basinDies.length

/-- XSEM.SIG (R361): the signal follows every store before it, and the wave goes on. -/
noncomputable def execXsemSig (d a : Code) (s : State) : Host.Outcome State Fault Refusal :=
  .next (s.runUnit (.xsemSig d a) 0 (reading (.xsemSig d a) (once fun s p =>
    let k := s.src p [] d
    if s.semCount ≤ k.toNat then .error (s.trapAt .prot k)
    else .ok (s.store s.myDie { agent := 0, pa := 0, data := [], rel := true, sem := some (k.toNat, s.src p [d] a) }))))

/-- XSEM.WAIT (R362): no latch-invalidating point, but one at which R18 point 4 asks whether the instruction reads a latch. -/
noncomputable def execXsemWait (d a : Code) (s : State) : Host.Outcome State Fault Refusal :=
  .next (s.runUnit (.xsemWait d a) 0 (reading (.xsemWait d a) (once fun s p =>
    let k := s.src p [] d
    if s.semCount ≤ k.toNat then .error (s.trapAt .prot k)
    else .ok (s.beginWait s.cur.wave (.semaphore k.toNat (s.src p [d] a)) (readsLatch (s.sources (.xsemWait d a) p))))))

/-- A control-block store sets a semaphore exactly (R351). -/
def State.setSem (s : State) (k v : Nat) : State := if k < s.semCount then s.putSem k (word v) else s

/-- SEMAPHORE_STORE (R351). -/
def execSemaphoreStore (k : Nat) (v : BitVec 64) (s : State) : Host.Outcome State Fault Refusal := .next (s.setSem k v.toNat)

/-! ### WATCH.ARM (R363, R364) -/

/-- The entry that a descriptor asks for. -/
def parseWatch (b : List Byte) : Watch :=
  { armed := true, base := field b 0 8, len := field b 8 4, queue := field b 0x0C 2, tdie := field b 0x0E 1, flags := field b 0x0F 1
    kdesc := field b 0x10 8, frame := field b 0x18 8, window := field b 0x20 2, budget := field b 0x22 2, lanes := field b 0x24 2
    user := (List.range 4).map fun j => word (field b (0x30 + 4 * j) 4) }

/-- The ranges of R363. -/
def watchFieldsOk (b : List Byte) (w : Watch) : Bool :=
  w.base % 64 == 0 && w.len % 64 == 0 && 64 ≤ w.len && w.len ≤ 16777216 && w.queue < 4096 && w.tdie < 16 && w.flags < 16
    && w.window ≤ 10000 && 1 ≤ w.budget && 1 ≤ w.lanes && w.lanes ≤ 64 && field b 0x26 10 == 0

/-- The first address of a translated range that does not go on from the address before it in one physical run. -/
def runBreak (m : List (Nat × Nat × Nat)) : Option Nat :=
  match m with
  | [] => none
  | x :: _ => (m.find? fun y => y.2.1 != x.2.1 + (y.1 - x.1)).map Prod.fst

/-- The watched range's physical address, or what is raised (R364 point 3). -/
def State.watchedRun (s : State) (w : Watch) : Except Raised Nat × State :=
  match s.translateRange s.myDie s.me.space (fun e => readable s.me.priv e && !pteDev e && !pteRgn e) w.base w.len (some s.myCore) with
  | (.error r, s) => (.error (s.refusal .read r), s)
  | (.ok m, s) =>
    match (m.find? fun x => s.regionOf x.2.1 != .device).map Prod.fst, runBreak m with
    | some va, _ => (.error (s.trapAt .prot (word va)), s)
    | none, some va => (.error (s.trapAt .prot (word va)), s)
    | none, none => (.ok (rangePa m w.base), s)

/-- The target queue is one that springs may go to (R364 point 4). -/
def State.watchQueueOk (s : State) (w : Watch) : Bool :=
  let q := s.queue w.tdie w.queue
  (s.kindOf w.tdie == .shading || s.kindOf w.tdie == .geometry) && q.en && !q.hostq && (s.me.priv || q.ctx == s.me.space.ctx)

/-- The descriptor's bytes as a load with its causes, FMTMIX among them, whose TVAL is the address (R364 point 1); none while the unit waits for them. -/
def State.watchDescriptor (s : State) (va : Nat) : Except Raised (Option (List Byte)) × State :=
  match s.translate s.myDie s.me.space s.me.priv false va (some s.myCore) with
  | (.error r, s) => (.error (s.refusal .read r), s)
  | (.ok (pa, e, _), s) =>
    if controlFrame e then (.error (s.trapAt .prot (word va)), s)
    else if pteFmt e ≠ 0 then (.error (s.trapAt .fmtmix (word va)), s)
    else
      match s.rangeRead [(va, pa, e)] va 64 with
      | (.error _, s) => (.error (s.trapAt .poison (word va)), s)
      | (.ok bs, s) => (.ok bs, s)

/-- WATCH.ARM's effect: the entry's number, or what is raised; a state that is blocked where it must wait. -/
def watchArmOp (a : Code) (s : State) (p : Nat) : Except Raised (Word × State) :=
  let va := (s.src64 p a).toNat
  if va % 64 ≠ 0 then .error (s.trapAt .align (word va))
  else
    match s.watchDescriptor va with
    | (.error r, _) => .error r
    | (.ok none, s) => .ok (0, s)
    | (.ok (some b), s) =>
      let w := parseWatch b
      if !watchFieldsOk b w then .error (s.trapAt .ill s.cur.first)
      else
        match s.watchedRun w with
        | (.error r, _) => .error r
        | (.ok pa, s) =>
          if !s.watchQueueOk w then .error (s.trapAt .prot (word w.queue))
          else
            match (List.range 1024).find? fun e => (s.watches.find e).isNone with
            | none => .ok (0xFFFFFFFF, s)
            | some e =>
              let s := s.flushAll s.myDie
              let w := { w with space := s.me.space, die := s.myDie, uid := s.me.uid, pos := s.cur.group.headD p, pa := pa, armedAt := s.ref }
              .ok (word e, { s with watches := s.watches.put e w })

/-- WATCH.ARM (R364): with an entry to arm, it waits in place until its die's stores can reach their homes. -/
noncomputable def execWatchArm (d a : Code) (s : State) : Host.Outcome State Fault Refusal :=
  .next (s.runUnit (.watchArm d a) 0 (reading (.watchArm d a) fun s ps =>
    match ps with
    | [] => { st := s, ok := [], raised := [] }
    | p :: _ =>
      match watchArmOp a s p with
      | .error r => { st := s, ok := [], raised := raiseAll ps r }
      | .ok (v, t) =>
        if t.cur.blocked then { st := s.leave ps t.cur.need, ok := [], raised := [] }
        else if v ≠ 0xFFFFFFFF ∧ !s.canFlush s.myDie then { st := s.waits.hold, ok := [], raised := [] }
        else { st := t.writeEach ps d fun _ => v, ok := ps, raised := [] }))

/-! ### WATCH.OFF and WATCH.STAT (R370, R371) -/

/-- PROT of R370: an index above 1,023, or an entry of another context. -/
def State.watchRefused (s : State) (e : Word) : Bool :=
  1023 < e.toNat || match s.watches.find e.toNat with
    | some w => w.space.ctx != s.me.space.ctx && !s.me.priv
    | none => false

/-- WATCH.OFF (R370): with an entry to disarm, it waits in place until its die's stores can reach their homes. -/
noncomputable def execWatchOff (a : Code) (s : State) : Host.Outcome State Fault Refusal :=
  .next (s.runUnit (.watchOff a) 0 (reading (.watchOff a) (once fun s p =>
    let e := s.src p [] a
    if s.watchRefused e then .error (s.trapAt .prot e)
    else if (s.watches.find e.toNat).isNone then .ok s
    else if !s.canFlush s.myDie then .ok s.waits.hold
    else
      let s := (s.flushAll s.myDie).releaseHeldSpring e.toNat
      .ok { s with watches := s.watches.del e.toNat })))

/-- The status word of R371. -/
def Watch.status (w : Watch) : Nat :=
  2 ^ 31 * ofBool w.armed + 2 ^ 30 * ofBool w.flooded + 2 ^ 29 * ofBool w.pending.isSome + 2 ^ 28 + min 65535 w.trig

/-- WATCH.STAT (R371). -/
noncomputable def execWatchStat (d a : Code) (s : State) : Host.Outcome State Fault Refusal :=
  .next (s.runUnit (.watchStat d a) 0 (reading (.watchStat d a) fun s ps =>
    match ps with
    | [] => { st := s, ok := [], raised := [] }
    | p :: _ =>
      let e := s.src p [] a
      if s.watchRefused e then { st := s, ok := [], raised := raiseAll ps (s.trapAt .prot e) }
      else
        let v := match s.watches.find e.toNat with | some w => (w.at_ s.ref).status | none => 0
        { st := s.writeEach ps d fun _ => word v, ok := ps, raised := [] }))

/-! ### The times of an entry (R366, R369) -/

/-- A hold-off that is over ends, and a spring that it held is enqueued (R366). -/
def State.settleHoldoff (s : State) (e : Nat) : State :=
  match (s.watch e).holdoff with
  | some t => if t ≤ s.ref then (s.modWatch e fun w => { w with holdoff := none }).releaseHeldSpring e else s
  | none => s

/-- WATCH_HOLDOFF_END (R366). -/
def execWatchHoldoffEnd (e : Nat) (s : State) : Host.Outcome State Fault Refusal := .next (s.settleHoldoff e)

/-- WATCH_INTERVAL_END (R369): a new interval counts from 0. -/
def execWatchIntervalEnd (e : Nat) (s : State) : Host.Outcome State Fault Refusal := .next (s.modWatch e fun w => w.at_ s.ref)

end Sys2Proof.Machine
end

