-- ==== Sys2Proof/Machine/Gfx.lean ====
section
/-! DEFINITION. The graphics pipeline (18_graphics_pipeline.md): frames, visibility packets, the visibility sequencer, the shading atlas and the
instructions on codec tiles. -/

namespace Sys2Proof.Machine

open Sys2Proof

/-! ### Starting a frame (R372 to R374) -/

/-- A frame descriptor (R373). -/
def parseFrame (b : List Byte) : FrameDesc :=
  { id := field b 0 4, nseq := field b 4 4, chunk := field b 8 4, width := field b 0x0C 2, height := field b 0x0E 2, flags := field b 0x10 4
    tl := field b 0x14 1, tlval := field b 0x18 8, rmap := field b 0x20 8, vb := field b 0x28 8, atlas := field b 0x30 8
    abw := field b 0x38 2, abh := field b 0x3A 2, atlq := field b 0x3C 2, astate := field b 0x40 8, akdesc := field b 0x48 8
    stats := field b 0x50 8, reservedOk := field b 0x15 3 == 0 && field b 0x3E 2 == 0 && field b 0x58 40 == 0 }

/-- The ranges of R373. -/
def FrameDesc.ok (f : FrameDesc) : Bool :=
  f.reservedOk && 1 ≤ f.nseq && f.nseq ≤ 2 ^ 24 && isPow2 f.chunk 6 16
    && 1 ≤ f.width && f.width ≤ 16384 && 1 ≤ f.height && f.height ≤ 16384 && f.flags < 16 && fld f.flags 0 2 != 3
    && f.vb % 65536 == 0 && f.atlas % 65536 == 0 && 1 ≤ f.abw && f.abw ≤ 8192 && 1 ≤ f.abh && f.abh ≤ 8192 && f.atlq < 4096
    && f.astate % 64 == 0 && f.stats % 64 == 0

/-- Regions in a row, and of the screen (R373). -/
def FrameDesc.rw (f : FrameDesc) : Nat := ceilDiv f.width 64
def FrameDesc.regions (f : FrameDesc) : Nat := f.rw * ceilDiv f.height 64

/-- Blocks of the atlas. -/
def FrameDesc.blocks (f : FrameDesc) : Nat := f.abw * f.abh

/-- Whether every page of a range has a valid leaf that meets a condition. -/
def State.pagesOk (s : State) (d : Nat) (sp : Space) (allow : Nat → Bool) (va len : Nat) : Bool × State :=
  match s.translateRange d sp allow va len with
  | (.ok _, s) => (true, s)
  | (.error _, s) => (false, s)

/-- Every page of R374 is as it must be. -/
def State.framePages (s : State) (d : Nat) (sp : Space) (f : FrameDesc) : Bool × State :=
  let (a, s) := s.pagesOk d sp (fun _ => true) f.rmap f.regions
  let (b, s) := s.pagesOk d sp pteRgn f.vb (65536 * f.regions)
  let (c, s) := s.pagesOk d sp pteRgn f.atlas (256 * f.blocks)
  let (e, s) := s.pagesOk d sp (fun _ => true) f.astate (4 * ceilDiv f.blocks 16)
  let (g, s) := s.pagesOk d sp (fun _ => true) f.stats 192
  (a && b && c && e && g, s)

/-- The region map, as the sequencer reads it. -/
def State.regionMap (s : State) (d : Nat) (sp : Space) (f : FrameDesc) : List Nat × State :=
  match s.translateRange d sp (fun _ => true) f.rmap f.regions with
  | (.ok m, s) => ((upFrom f.rmap f.regions).map fun a => (s.seenByte d (rangeLeaf m a) (rangePa m a)).toNat, s)
  | (.error _, s) => ([], s)

/-- Geometry die d owns a sequence number (R375). -/
def State.ownsSeq (s : State) (d : Nat) (f : FrameDesc) (q : Nat) : Bool :=
  s.geometryDies[q / f.chunk % s.geometryDies.length]? == some d

/-- The lowest owned number from one on that has been neither accepted nor passed over; NSEQ when there is none (R377). -/
def State.nextSeq (s : State) (d : Nat) (g : Gfx) (q : Nat) : Nat :=
  if g.mvEnd then g.desc.nseq
  else ((upFrom q (g.desc.nseq - q)).find? fun n => s.ownsSeq d g.desc n && !g.accepted.contains n).getD g.desc.nseq

/-- A die's part of a frame begins (R372, R374). -/
def State.startFrame (s : State) (d : Nat) (v : Nat) : State :=
  let old := (s.die d).gfx
  if !bit v 0 || old.st == .run || !(s.kindOf d == .geometry || s.kindOf d == .shading) then s
  else
    let pa := fld v 7 45 * 128
    let (sp, usable) := s.context d (fld v 56 8)
    let f := parseFrame (s.viewBytes d pa 128)
    let (pages, s) := if f.ok && usable then s.framePages d sp f else (false, s)
    let (map, s) := if pages then s.regionMap d sp f else ([], s)
    let fed (e : Nat) : Bool := (s.queue e f.atlq).en && !(s.queue e f.atlq).hostq
    let good := pages && s.regionOf pa == .device && (s.poisonIn d pa 128).isNone && !s.geometryDies.isEmpty
      && (map.all fun e => s.kindOf e == .shading) && (s.computeDies.all fun e => s.kindOf e != .shading || fed e)
    let done := if old.st = .done then old.key :: old.finished.filter (· != old.key) else old.finished
    let g : Gfx :=
      { st := if good then .run else .fault, desc := f, descPa := pa, space := sp, finished := done.filter (· != (pa, f.id))
        owned := (List.range map.length).filter fun r => map.getD r 16 == d }
    let g := { g with cursor := s.nextSeq d g 0, walked := s.kindOf d == DieKind.shading && g.owned.isEmpty }
    let s := { s with packets := s.packets.filter fun p => !(p.src == d && p.frame == g.key) }
    (s.modDie d fun x => { x with gfx := g }).settleFrames

/-- FRAME_START (R372): a store to GFXFRAME. -/
def execFrameStart (die : Nat) (v : BitVec 64) (s : State) : Host.Outcome State Fault Refusal := .next (s.startFrame die v.toNat)

/-! ### Triangles (R375, R376) -/

/-- A vertex, exactly. -/
structure Vert where
  x : Rat
  y : Rat
  z : Rat
  u : Nat
  v : Nat
  deriving DecidableEq, Repr

/-- A vertex whose coordinates are finite. -/
def vertOf (t : Word × Word × Word × Nat × Nat) : Option Vert :=
  match exactOf t.1.toNat, exactOf t.2.1.toNat, exactOf t.2.2.1.toNat with
  | some x, some y, some z => some ⟨x, y, z, t.2.2.2.1, t.2.2.2.2⟩
  | _, _, _ => none

/-- The vertices of a triangle, when each is named and finite. -/
def cornersOf (verts : List (Word × Word × Word × Nat × Nat)) (t : List Nat) : Option (Vert × Vert × Vert) :=
  let at_ (k : Nat) : Option Vert := verts[t.getD k 64]?.bind vertOf
  match at_ 0, at_ 1, at_ 2 with
  | some a, some b, some c => some (a, b, c)
  | _, _, _ => none

/-- Twice the signed area (R376). -/
def areaTwice (a b c : Vert) : Rat := (b.x - a.x) * (c.y - a.y) - (c.x - a.x) * (b.y - a.y)

def least3 (a b c : Rat) : Rat := min a (min b c)
def most3 (a b c : Rat) : Rat := max a (max b c)

/-- Whether some integer n from 0 to count - 1 has lo ≤ n + 1/2 ≤ hi. -/
def samplesIn (lo hi : Rat) (count : Nat) : Bool := max 0 (lo - 1 / 2).ceil ≤ min ((count : Int) - 1) (hi - 1 / 2).floor

/-- A triangle is culled (R376). -/
def culled (f : FrameDesc) (verts : List (Word × Word × Word × Nat × Nat)) (t : List Nat) : Bool :=
  match cornersOf verts t with
  | none => true
  | some (a, b, c) =>
    let area := areaTwice a b c
    let front := decide (0 < area) != bit f.flags 3
    decide (area = 0) || (fld f.flags 0 2 == 1 && !front) || (fld f.flags 0 2 == 2 && front)
      || !samplesIn (least3 a.x b.x c.x) (most3 a.x b.x c.x) f.width || !samplesIn (least3 a.y b.y c.y) (most3 a.y b.y c.y) f.height
      || decide (most3 a.z b.z c.z < 0) || decide (1 < least3 a.z b.z c.z)

/-- The cells of 64 pixels that an extent meets, of those a screen has. -/
def cellsMet (lo hi : Rat) (pixels : Nat) : List Nat :=
  (List.range (ceilDiv pixels 64)).filter fun k => decide (((64 * k : Nat) : Int) ≤ hi) && decide (lo < ((min pixels (64 * k + 64) : Nat) : Int))

/-- The regions that a triangle's bounding box meets (R376). -/
def triangleRegions (f : FrameDesc) (verts : List (Word × Word × Word × Nat × Nat)) (t : List Nat) : List Nat :=
  match cornersOf verts t with
  | none => []
  | some (a, b, c) =>
    (cellsMet (least3 a.y b.y c.y) (most3 a.y b.y c.y) f.height).flatMap fun ry =>
      (cellsMet (least3 a.x b.x c.x) (most3 a.x b.x c.x) f.width).map fun rx => ry * f.rw + rx

/-! ### Emission (R377, R387) -/

/-- A packet from a meshlet record (R375). -/
def parsePacket (src : Nat) (g : Gfx) (b : List Byte) (op : Nat) : GPacket :=
  let f := g.desc
  let verts := (List.range (fld op 104 6 + 1)).map fun i =>
    let w (k : Nat) : Word := word (field b (16 * i + 4 * k) 4)
    (w 0, w 1, w 2, field b (16 * i + 12) 2, field b (16 * i + 14) 2)
  let tris := (List.range (fld op 96 7 + 1)).map fun j => (List.range 3).map fun k => field b (0x400 + 4 * j + k) 1
  let tris := tris.map fun t => (t, culled f verts t)
  let regions := (tris.flatMap fun t => if t.2 then [] else triangleRegions f verts t.1).foldl sortedInsert []
  { src := src, frame := g.key, seq := fld op 64 32, qen := bit op 116, query := fld op 112 4, verts := verts, tris := tris
    regions := regions, left := regions }

/-- The place of a number among those a die owns (R387). -/
def State.seqPos (s : State) (d : Nat) (f : FrameDesc) (q : Nat) : Nat :=
  ((List.range (min q f.nseq)).filter (s.ownsSeq d f)).length

/-- A die's current frame (R386). -/
def State.currentFrame (s : State) (d : Nat) : Option Gfx :=
  let g := (s.die d).gfx
  if g.st = .run ∨ g.st = .done then some g else none

/-- MV.EMIT's effect. -/
def mvEmitOp (a : Code) (s : State) (p : Nat) : Except Raised State :=
  let d := s.myDie
  let op := s.group p a 4
  let rcd := fld op 0 64
  let seq := fld op 64 32
  if fld op 117 11 ≠ 0 ∨ fld op 110 2 ≠ 0 ∨ bit op 103 then .error (s.trapAt .ill s.cur.first)
  else if rcd % 256 ≠ 0 then .error (s.trapAt .align (word rcd))
  else
    match s.translateRange d s.me.space (fun _ => true) rcd 1536 (some s.myCore) with
    | (.error r, s) => .error (s.refusal .read r)
    | (.ok m, s) =>
      match s.currentFrame d with
      | none => .error (s.trapAt .prot 0)
      | some g =>
        if g.desc.nseq ≤ seq || !s.ownsSeq d g.desc seq then .error (s.trapAt .prot (word seq))
        else if s.seqPos d g.desc g.cursor + 4096 ≤ s.seqPos d g.desc seq then .ok s.waits.hold
        else
          match m.find? fun x => !readable s.me.priv x.2.2 || pteDev x.2.2 || controlFrame x.2.2 with
          | some x => .error (s.trapAt .prot (word x.1))
          | none =>
            match s.loadBytes rcd 1536 with
            | (.error r, _) => .error r
            | (.ok none, s) => .ok s
            | (.ok (some b), s) =>
              if seq < g.cursor || g.mvEnd || g.accepted.contains seq then .ok s
              else
                .ok (s.modDie d fun x => { x with gfx :=
                  { x.gfx with accepted := sortedInsert x.gfx.accepted seq, reorder := x.gfx.reorder ++ [parsePacket d g b op] } })

/-- The check of a die that is not a geometry die. -/
def State.offGeometry (s : State) (_p : Nat) : Option Raised :=
  if s.kindOf s.myDie = .geometry then none else some (s.trapAt .ill s.cur.first)

/-- MV.EMIT (R387). -/
noncomputable def execMvEmit (a : Code) (s : State) : Host.Outcome State Fault Refusal :=
  .next (s.runWith (.mvEmit a) s.offGeometry (fun _ => none) 0 (reading (.mvEmit a) (once (mvEmitOp a))))

/-- MV.END (R387). -/
def execMvEnd (s : State) : Host.Outcome State Fault Refusal :=
  .next (s.runWith .mvEnd s.offGeometry (fun _ => none) 0 (once fun s _ =>
    match s.currentFrame s.myDie with
    | none => .error (s.trapAt .prot 0)
    | some _ => .ok (s.modDie s.myDie fun x => { x with gfx := { x.gfx with mvEnd := true } })))

/-! ### Statistics (R385) -/

/-- A UINT64 atomic addition at SYS scope by a sequencer, ordered AR. -/
def State.addCounter (s : State) (d : Nat) (sp : Space) (va n : Nat) : State :=
  match s.walk d sp va with
  | (.invalid _ _ _, s) => s
  | (.leaf e l, s) =>
    let pa := physicalAddress e l va
    let (old, s) := (((s.touchRgn d pa (pteRgn e)).releaseSys d).acquireSys d).takeHome d sequencerAgent pa (pteRgn e) 8
    s.putAtHome d sequencerAgent pa (pteRgn e) (leBytes (leNat old + n) 8)

/-- A packet retires: its additions are made (R385). -/
def State.retirePacket (s : State) (d : Nat) (g : Gfx) (p : GPacket) : State :=
  let np := p.tris.length
  let cut := (p.tris.filter (·.2)).length
  let adds := [(0, 1), (8, np), (0x10, cut), (0x18, np - cut), (0x20, p.samples)] ++ if p.qen then [(0x40 + 8 * p.query, p.samples)] else []
  foldState (fun (x : Nat × Nat) s => s.addCounter d g.space (g.desc.stats + x.1) x.2) adds s

/-! ### Forwarding (R377) -/

/-- PACKET_FORWARD (R377): the cursor moves over the numbers that are accepted or passed over, and the packets below it are forwarded; an empty
packet retires. The counters' releases can take effect then (R355). -/
def execPacketForward (die : Nat) (s : State) : Host.Outcome State Fault Refusal :=
  let g := (s.die die).gfx
  if g.st ≠ .run ∨ s.kindOf die ≠ .geometry ∨ !s.canFlush die then .next s
  else
    let cur := s.nextSeq die g g.cursor
    let out := g.reorder.filter fun p => p.seq < cur
    let s := s.modDie die fun x => { x with gfx := { x.gfx with cursor := cur, reorder := x.gfx.reorder.filter fun p => cur ≤ p.seq } }
    let s := foldState (fun (p : GPacket) s =>
      if p.regions.isEmpty then s.retirePacket die g p else { s with packets := s.packets ++ [p] }) out s
    .next s.settleFrames

/-- WATERMARK_UPDATE (R377): the watermark of a geometry die for the frame of a shading die. -/
def execWatermarkUpdate (src dst : Nat) (s : State) : Host.Outcome State Fault Refusal :=
  let x := (s.die src).gfx
  let y := (s.die dst).gfx
  if s.kindOf src ≠ .geometry ∨ s.kindOf dst ≠ .shading then .next s
  else
    let mark := if (x.st = .run ∨ x.st = .done) ∧ x.key = y.key then some x.cursor
      else if x.finished.contains y.key then some y.desc.nseq else none
    match mark with
    | none => .next s
    | some m => .next (s.modDie dst fun d => { d with gfx := { d.gfx with wmark := d.gfx.wmark.put src m } })

/-! ### Consumption (R378 to R380) -/

/-- E_k of R379 for the edge from a to b at a sample, and whether the edge owns its line. -/
def edgeAt (sign : Rat) (a b : Vert) (sx sy : Rat) : Rat × Bool :=
  let dx := sign * (b.x - a.x)
  let dy := sign * (b.y - a.y)
  (dx * (sy - a.y) - dy * (sx - a.x), decide (dy < 0) || (decide (dy = 0) && decide (0 < dx)))

/-- The depth, u and v of a triangle at a covered sample, as FP32 bits (R379 points 1, 2 and 4). -/
def sampleOf (t : Vert × Vert × Vert) (sx sy : Rat) : Option (Nat × Nat × Nat) :=
  let (a, b, c) := t
  let area := areaTwice a b c
  let sign : Rat := if 0 < area then 1 else -1
  let es := [edgeAt sign a b sx sy, edgeAt sign b c sx sy, edgeAt sign c a sx sy]
  if es.all fun e => decide (0 < e.1) || (decide (e.1 = 0) && e.2) then
    let w (k : Nat) : Rat := (es.getD k (0, false)).1 / (sign * area)
    let mix (x y z : Rat) : Rat := w 1 * x + w 2 * y + w 0 * z
    let z := roundRat fp32 (mix a.z b.z c.z)
    let d := fp32.dec z
    if d.lt (.fin false 0 0) || (FVal.fin false 1 0).lt d then none
    else some (z, roundRat fp32 (mix (a.u : Int) (b.u : Int) (c.u : Int)), roundRat fp32 (mix (a.v : Int) (b.v : Int) (c.v : Int)))
  else none

/-- One pixel of a region and one triangle of a packet: the samples that have passed, and the state (R379). -/
def State.pixel (s : State) (d : Nat) (f : FrameDesc) (p : GPacket) (pa j : Nat) (t : Vert × Vert × Vert) (px py lx ly : Nat) : Nat × State :=
  match sampleOf t ((px : Int) + 1 / 2) ((py : Int) + 1 / 2) with
  | none => (0, s)
  | some (z, u, v) =>
    let at_ := pa + 16 * (64 * ly + lx)
    let e := field (s.tileOf d at_).1 (at_ % 256) 16
    let old := fp32.dec (fld e 0 32)
    let passes := !bit e 63 || (fp32.dec z).lt old || (bit f.flags 2 && (fp32.dec z).le old)
    if passes then 
      let data := leBytes (z + p.seq * 2 ^ 32 + j * 2 ^ 56 + 2 ^ 63 + u * 2 ^ 64 + v * 2 ^ 96) 16
      (1, s.store d { agent := sequencerAgent, pa := at_, data := data, tile := true })
    else (0, s)

/-- The pixels of a region, in rows, as far as the viewport goes. -/
def FrameDesc.pixels (f : FrameDesc) (r : Nat) : List (Nat × Nat) :=
  (List.range 64).flatMap fun ly => ((List.range 64).map fun lx => (lx, ly)).filter fun q =>
    r % f.rw * 64 + q.1 < f.width && r / f.rw * 64 + q.2 < f.height

/-- What a packet does at a region, in order: each triangle that is not culled, with its number, at each pixel. -/
def FrameDesc.work (f : FrameDesc) (p : GPacket) (r : Nat) : List (Nat × (Vert × Vert × Vert) × Nat × Nat) :=
  (List.range p.tris.length).flatMap fun j =>
    let t := p.tris.getD j ([], true)
    if t.2 then [] else
      match cornersOf p.verts t.1 with
      | none => []
      | some c => (f.pixels r).map fun q => (j, c, q)

/-- The address of the first entry of a region's buffer that a packet reads: that of the first sample which reaches the test of R379. -/
def FrameDesc.firstEntry (f : FrameDesc) (p : GPacket) (r : Nat) : Option Nat :=
  ((f.work p r).find? fun x =>
    (sampleOf x.2.1 (((r % f.rw * 64 + x.2.2.1 : Nat) : Int) + 1 / 2) (((r / f.rw * 64 + x.2.2.2 : Nat) : Int) + 1 / 2)).isSome).map fun x =>
      f.vb + 65536 * r + 16 * (64 * x.2.2.2 + x.2.2.1)

/-- The triangles of a packet at a region, applied in order. -/
def State.applyPacket (s : State) (d : Nat) (f : FrameDesc) (p : GPacket) (r pa : Nat) : Nat × State :=
  (f.work p r).foldl (fun (n, s) x =>
    let (k, s) := s.pixel d f p pa x.1 x.2.1 (r % f.rw * 64 + x.2.2.1) (r / f.rw * 64 + x.2.2.2) x.2.2.1 x.2.2.2
    (n + k, s)) (0, s)

/-- A sequencer access that finds no valid translation stops its region (R380). -/
def State.stopRegion (s : State) (d : Nat) (r : Nat) (kind : AccKind) : Refused → State
  | .prot _ => s
  | .xlate va code level entry =>
    let g := (s.die d).gfx
    let s := s.addFault d
      { id := 0, va := va, kind := kind, level := level, code := code, asid := g.space.asid, entry := BitVec.ofNat 64 entry, region := some r }
    s.modDie d fun x => { x with gfx := { x.gfx with stopped := r :: x.gfx.stopped } }

/-- The packet that a region consumes next (R378). -/
def State.nextPacket (s : State) (d r : Nat) : Option GPacket :=
  let g := (s.die d).gfx
  argMin (fun p => p.seq) (s.packets.filter fun p => p.frame == g.key && p.left.contains r && p.seq < s.leastMark d)

/-- The first address of some ranges that has no translation. -/
def State.unmapped (s : State) (d : Nat) (sp : Space) : List (Nat × Nat) → Option Refused × State
  | [] => (none, s)
  | x :: t =>
    match s.translateRange d sp (fun _ => true) x.1 x.2 with
    | (.error r, s) => (some r, s)
    | (.ok _, s) => s.unmapped d sp t

/-- The counters that a packet's retirement adds to. -/
def FrameDesc.counters (f : FrameDesc) (p : GPacket) : List (Nat × Nat) :=
  (f.stats, 0x28) :: if p.qen then [(f.stats + 0x40 + 8 * p.query, 8)] else []

/-- A region consumes a packet whose accesses all find their translations (R378, R379, R385). -/
def State.consume (s : State) (d r : Nat) (g : Gfx) (p : GPacket) (pa : Nat) : State :=
  let (n, s) := s.applyPacket d g.desc p r pa
  let p' := { p with left := p.left.filter (· != r), samples := p.samples + n }
  let rest := s.packets.filter (· != p)
  if p'.left.isEmpty then ({ s with packets := rest }.retirePacket d g p').settleFrames else { s with packets := rest ++ [p'] }

/-- PACKET_CONSUME (R378 to R380): the region's buffer is accessed when a sample reaches the test, and the counters when the packet retires here, once
their release can take effect. -/
def execPacketConsume (die region : Nat) (s : State) : Host.Outcome State Fault Refusal :=
  let g := (s.die die).gfx
  if g.st ≠ .run || !g.owned.contains region || g.stopped.contains region then .next s
  else
    match s.nextPacket die region with
    | none => .next s
    | some p =>
      let retires := p.left.all (· == region)
      let entry := g.desc.firstEntry p region
      if retires && !s.canFlush die then .next s
      else
        match s.unmapped die g.space (entry.toList.map fun va => (va, 16)) with
        | (some r, s) => .next (s.stopRegion die region .read r)
        | (none, s) =>
          match s.unmapped die g.space (if retires then g.desc.counters p else []) with
          | (some r, s) => .next (s.stopRegion die region .write r)
          | (none, s) =>
            match entry with
            | some va =>
              match s.translateRange die g.space (fun _ => true) va 16 with
              | (.error _, s) => .next s
              | (.ok m, s) =>
                let pa := rangePa m va / 65536 * 65536
                .next ((s.touchRgn die pa true).consume die region g p pa)
            | none => .next (s.consume die region g p 0)

/-! ### The atlas (R381, R382) -/

/-- The taps of an atlas coordinate, with the weights of the second in each direction (R381, R389). -/
def tapsOf (f : FrameDesc) (u v : Rat) : List (Nat × Nat) × Rat × Rat :=
  let half : Rat := 1 / 2
  let i := (u - half).floor
  let j := (v - half).floor
  let clamp (n : Int) (blocks : Nat) : Nat := min n.toNat (8 * blocks - 1)
  ([(i, j), (i + 1, j), (i, j + 1), (i + 1, j + 1)].map (fun t => (clamp t.1 f.abw, clamp t.2 f.abh)), u - half - i, v - half - j)

/-- The block and the address of a texel (R381). -/
def FrameDesc.blockOf (f : FrameDesc) (t : Nat × Nat) : Nat := t.2 / 8 * f.abw + t.1 / 8
def FrameDesc.texelVa (f : FrameDesc) (t : Nat × Nat) : Nat := f.atlas + 256 * f.blockOf t + 4 * (8 * (t.2 % 8) + t.1 % 8)

/-- The blocks that a coordinate's taps lie in. -/
def tapBlocks (f : FrameDesc) (u v : Word) : List Nat :=
  match exactOf u.toNat, exactOf v.toNat with
  | some x, some y => (tapsOf f x y).1.map f.blockOf
  | _, _ => []

/-- The requests of an agent for those of some blocks that are unrequested, in order, as far as their states are translated; the answer says whether each
is shaded or retained. One that cannot be performed yet is left for later (R355). -/
def State.requestAll (s : State) (d agent : Nat) : List Nat → Bool × State
  | [] => (true, s)
  | n :: t =>
    match s.blockAt d n with
    | (.error _, s) => s.requestAll d agent t
    | (.ok (pa, e), s) =>
      let s := s.touchRgn d pa (pteRgn e)
      let x := s.seenBlock d pa e n
      let s := if x = 0 && s.canFlush d && !s.cur.blocked then (s.requestBlock d agent pa e n).2 else s
      let (b, s) := s.requestAll d agent t
      (decide (2 ≤ x) && b, s)

/-- The requests of a region's walk, in order, up to the first block whose state finds no translation. -/
def State.requestWalk (s : State) (d region : Nat) : List Nat → Option Refused × State
  | [] => (none, s)
  | n :: t =>
    match s.blockAt d n with
    | (.error r, s) => (some r, s)
    | (.ok (pa, e), s) => (s.requestBlock d sequencerAgent pa e n (some region)).2.requestWalk d region t

/-- The blocks of a region's entries, those past the edge of the viewport too, in the order of the walk (R382). -/
def State.walkedBlocks (s : State) (d : Nat) (f : FrameDesc) (pa : Nat) : List Nat :=
  (List.range 4096).flatMap fun n =>
    let at_ := pa + 16 * n
    let e := field (s.tileOf d at_).1 (at_ % 256) 16
    if bit e 63 then tapBlocks f (word (fld e 64 32)) (word (fld e 96 32)) else []

/-- The walk of R382 over regions, or the first access of it that finds no translation. -/
def State.atlasWalk (s : State) (d : Nat) (g : Gfx) : List Nat → Except (Nat × AccKind × Refused) Unit × State
  | [] => (.ok (), s)
  | r :: t =>
    match s.translateRange d g.space (fun _ => true) (g.desc.vb + 65536 * r) 65536 with
    | (.error x, s) => (.error (r, .read, x), s)
    | (.ok m, s) =>
      let pa := rangePa m (g.desc.vb + 65536 * r)
      let s := s.touchRgn d pa true
      match s.requestWalk d r (s.walkedBlocks d g.desc pa) with
      | (some x, s) => (.error (r, .write, x), s)
      | (none, s) => (s.modDie d fun x => { x with gfx := { x.gfx with requested := sortedInsert x.gfx.requested r } }).atlasWalk d g t

/-- ATLAS_REQUEST_WALK (R382). -/
def execAtlasRequestWalk (die : Nat) (s : State) : Host.Outcome State Fault Refusal :=
  let g := (s.die die).gfx
  if g.st ≠ .run || g.walked || s.kindOf die != .shading || !g.stopped.isEmpty || !g.owned.all (s.regionDone die) || !s.canFlush die then .next s
  else
    match s.atlasWalk die g g.owned with
    | (.error (r, k, x), s) => .next (s.stopRegion die r k x)
    | (.ok (), s) => .next ((s.modDie die fun x => { x with gfx := { x.gfx with walked := true } }).settleFrames)

/-! ### ATL.* and RGN.WAIT (R388 to R390) -/

/-- A block's state word for an instruction: its address and leaf, or what is raised. -/
def State.blockFor (s : State) (n : Nat) : Except Raised (Nat × Nat) × State :=
  match s.blockAt s.myDie n (some s.myCore) with
  | (.error r, s) => (.error (s.refusal .rmw r), s)
  | (.ok (pa, e), s) => (if s.seenPoison s.myDie e pa then .error (s.trapAt .poison (lineTval pa)) else .ok (pa, e), s)

/-- ATL.REQ in one member: the request is made, or follows when what its die has ordered before has taken effect (R355). -/
def atlReqOne (d a : Code) (lead : Bool) (s : State) (p : Nat) : Except Raised State :=
  let x := (s.src64 p a).toNat
  match s.currentFrame s.myDie with
  | none => .error (s.trapAt .prot 0)
  | some g =>
    if fld x 32 32 ≠ g.desc.id then .error (s.trapAt .prot (word (fld x 32 32)))
    else if g.desc.blocks ≤ fld x 0 32 then .error (s.trapAt .prot (word (fld x 0 32)))
    else
      match s.blockFor (fld x 0 32) with
      | (.error r, _) => .error r
      | (.ok (pa, e), s) =>
        if s.canFlush s.myDie then
          let (found, s) := s.requestBlock s.myDie (agentOf s.me.uid p) pa e (fld x 0 32)
          .ok (s.writeLead lead p d (word found))
        else
          let s := s.accessBehind { s.myAccess 0 pa 4 with to_ := .request p (leadDest lead d) (fld x 0 32) e }
          .ok { s with cur := { s.cur with away := true } }

/-- The request of an ATL.REQ that stood behind a release is made, and D receives the state that it found. -/
def State.performRequest (s : State) (o : OutAccess) (p : Nat) (c : Code) (n e : Nat) : State :=
  let (found, s) := s.requestBlock o.die (agentOf o.uid p) o.addr e n
  if (s.wave o.wave).uid = o.uid ∧ c ≠ 0xFC then s.modWave o.wave fun w => w.writeCode p c (word found) else s

/-- ATL.REQ (R388). -/
noncomputable def execAtlReq (d a : Code) (s : State) : Host.Outcome State Fault Refusal :=
  .next (s.runUnit (.atlReq d a) 0 (reading (.atlReq d a) (inTurn (atlReqOne d a))))

/-- ATL.DONE (R388). -/
noncomputable def execAtlDone (a : Code) (s : State) : Host.Outcome State Fault Refusal :=
  .next (s.runUnit (.atlDone a) 0 (reading (.atlDone a) (once fun s p =>
    let n := (s.src p [] a).toNat
    match s.currentFrame s.myDie with
    | none => .error (s.trapAt .prot 0)
    | some g =>
      if g.desc.blocks ≤ n then .error (s.trapAt .prot (word n))
      else
        match s.blockFor n with
        | (.error r, _) => .error r
        | (.ok (pa, e), s) =>
          if s.heldBack s.myDie s.myAgents [spanOf pa (pteRgn e) 4] then .ok s.block
          else .ok ((s.changeBlock s.myDie (agentOf s.me.uid p) pa e n fun x => if x = 3 then none else some 2).2))))

/-- The four channels of the texels at some addresses, read as loads in the frame's context: of their causes XLATE comes first, then PROT, then POISON
(R45, R373, R389). -/
def State.texels (s : State) (sp : Space) (vas : List Nat) : Except Raised (List (List Nat)) × State :=
  let d := s.myDie
  match s.leavesOf d sp (some s.myCore) vas with
  | (.error r, s) => (.error (s.refusal .read r), s)
  | (.ok l, s) =>
    match l.find? fun x => !(readable s.me.priv x.2.1 && notControl x.2.1) with
    | some x => (.error (s.trapAt .prot (word x.1)), s)
    | none =>
      let at_ (x : Nat × Nat × Nat) : Nat := physicalAddress x.2.1 x.2.2 x.1
      let s := foldState (fun x s => s.touchRgn d (at_ x) (pteRgn x.2.1)) l s
      match l.find? fun x => s.seenPoison d x.2.1 (at_ x) with
      | some x => (.error (s.trapAt .poison (word x.1)), s)
      | none => (.ok (l.map fun x => (upFrom (at_ x) 4).map fun pa => (s.seenByte d x.2.1 pa).toNat), s)

/-- One filtered channel (R389). -/
def filtered (t : List (List Nat)) (fu fv : Rat) (c : Nat) : Word :=
  let x (k : Nat) : Rat := (((t.getD k []).getD c 0 : Nat) : Int)
  word (roundRat fp32 (((1 - fu) * (1 - fv) * x 0 + fu * (1 - fv) * x 1 + (1 - fu) * fv * x 2 + fu * fv * x 3) / 255))

/-- ATL.SMP in one member whose taps are shaded. -/
def atlSmpOne (d a : Code) (lead : Bool) (s : State) (p : Nat) : Except Raised State :=
  let x := s.src64 p a
  match s.currentFrame s.myDie with
  | none => .error (s.trapAt .prot 0)
  | some g =>
    match exactOf (x.extractLsb' 0 32).toNat, exactOf (x.extractLsb' 32 32).toNat with
    | some u, some v =>
      let (taps, fu, fv) := tapsOf g.desc u v
      match taps.findSome? fun t => match (s.blockFor (g.desc.blockOf t)).1 with | .error r => some r | .ok _ => none with
      | some r => .error r
      | none =>
        match (s.acquireSys s.myDie).texels g.space (taps.map g.desc.texelVa) with
        | (.error r, _) => .error r
        | (.ok t, s) => .ok (s.writeLeads lead p d ((List.range 4).map (filtered t fu fv)))
    | _, _ => .ok (s.writeLeads lead p d (List.replicate 4 0x7FC00000))

/-- The requests of ATL.SMP's members, and the state to wait in while a tap's block is not shaded (R389). -/
def State.smpWait (s : State) (i : Instr) (a : Code) (ps : List Nat) : Option State :=
  match s.currentFrame s.myDie with
  | none => none
  | some g =>
    let blocks := (s.readSplit i ps).1.flatMap fun p =>
      let x := s.src64 p a
      tapBlocks g.desc (x.extractLsb' 0 32) (x.extractLsb' 32 32)
    match s.requestAll s.myDie (agentOf s.me.uid (ps.headD 0)) blocks with
    | (true, _) => none
    | (false, s) => some s.waits

/-- ATL.SMP (R389). -/
noncomputable def execAtlSmp (d a : Code) (s : State) : Host.Outcome State Fault Refusal :=
  .next (s.runWith (.atlSmp d a) (fun _ => none) (s.smpWait (.atlSmp d a) a) 0 (reading (.atlSmp d a) (inTurn (atlSmpOne d a))))

/-- RGN.WAIT (R390). -/
noncomputable def execRgnWait (a : Code) (s : State) : Host.Outcome State Fault Refusal :=
  .next (s.runWith (.rgnWait a) s.onGeometry (fun _ => none) 0 (reading (.rgnWait a) (once fun s p =>
    let r := (s.src p [] a).toNat
    match s.currentFrame s.myDie with
    | none => .ok s
    | some g =>
      if g.desc.regions ≤ r || !g.owned.contains r then .error (s.trapAt .prot (word r))
      else if g.st = .done || (s.regionDone s.myDie r && s.regionShaded s.myDie r) then .ok s
      else .ok s.waits.hold)))

/-! ### CMP.* (R391, R392) -/

/-- A tile is rewritten at its home by CMP.CLEAR or CMP.DECOMP, with all its marks (R391, R434). -/
def State.rewriteByCmp (s : State) (d agent : Nat) (clear : Bool) (base : Nat) : State :=
  let s := (s.touchRgn d base false).enterTile d agent base
  match s.surfaceAt base with
  | none => s
  | some (f, t) =>
    let mode := (s.homeByte (f.modeAt t)).toNat
    let (tile, marks) := s.tileOf d base
    let rewrite (m : Nat) (stored : List Byte) (marks : List Bool) : State :=
      ((s.rewriteTile d agent base (some (f.modeAt t)) m stored).setTileMarks base marks).clearL2 (upFrom (base / 16) 16)
    if clear then rewrite 1 [] [] else if mode = 0 then s else rewrite 0 tile marks

/-- CMP.CLEAR and CMP.DECOMP's effect. -/
def cmpOp (clear : Bool) (a : Code) (s : State) (p : Nat) : Except Raised State :=
  let g := s.group p a 4
  let base := fld g 0 64
  let len := fld g 64 32
  let d := s.myDie
  if fld g 96 32 ≠ 0 then .error (s.trapAt .ill s.cur.first)
  else if base % 256 ≠ 0 then .error (s.trapAt .align (word base))
  else if len % 256 ≠ 0 then .error (s.trapAt .align (word len))
  else
    match s.translateRange d s.me.space (fun e => writable s.me.priv e && pteRgn e && !pteDev e) base len (some s.myCore) with
    | (.error r, s) => .error (s.refusal .write r)
    | (.ok m, s) =>
      let tiles := (List.range (len / 256)).map fun k => base + 256 * k
      match tiles.find? fun t => (s.surfaceAt (rangePa m t)).isNone with
      | some t => .error (s.trapAt .prot (word t))
      | none =>
        if tiles.isEmpty then .ok s
        else if s.heldBack d s.myAgents (tiles.map fun t => (rangePa m t, 256)) then .ok s.block
        else
          let s := s.flushBefore d s.myAgents []
          .ok ((foldState (fun t s => s.rewriteByCmp d (agentOf s.me.uid p) clear (rangePa m t)) tiles s).releaseSys d)

/-- CMP.CLEAR (R391). -/
noncomputable def execCmpClear (a : Code) (s : State) : Host.Outcome State Fault Refusal :=
  .next (s.runUnit (.cmpClear a) 0 (reading (.cmpClear a) (once (cmpOp true a))))

/-- CMP.DECOMP (R391). -/
noncomputable def execCmpDecomp (a : Code) (s : State) : Host.Outcome State Fault Refusal :=
  .next (s.runUnit (.cmpDecomp a) 0 (reading (.cmpDecomp a) (once (cmpOp false a))))

/-- The index of the enabled surface that holds an address. -/
def State.surfaceIndex (s : State) (pa : Nat) : Nat :=
  ((List.range 16).find? fun k =>
    let f := s.surfaces.get {} (16 * s.homeOf pa + k)
    let base := fld f.base.toNat 16 36 * 2 ^ 16
    bit f.base.toNat 0 && base ≤ pa && (pa - base) / 256 < fld f.ntile.toNat 0 32).getD 0

/-- The status of the tile that holds an address (R392). -/
def State.tileStatus (s : State) (pa : Nat) : Nat :=
  match s.surfaceAt pa with
  | none => 0
  | some (f, t) =>
    let mode := (s.homeByte (f.modeAt t)).toNat
    2 ^ 31 + s.surfaceIndex pa * 2 ^ 20 + storedLength mode * 2 ^ 8 + mode

/-- CMP.STAT in one member. Only a set mark bit raises POISON: an undecodable tile is reported with its mode (R434, log 41). -/
def cmpStatOne (d a : Code) (lead : Bool) (s : State) (p : Nat) : Except Raised State :=
  let va := (s.src64 p a).toNat
  match s.translate s.myDie s.me.space s.me.priv false va s.myCore with
  | (.error r, s) => .error (s.refusal .read r)
  | (.ok (pa, e, _), s) =>
    if pteDev e || controlFrame e then .error (s.trapAt .prot (word va))
    else if s.poisonedAt s.myDie pa then .error (s.trapAt .poison (lineTval pa))
    else .ok (s.writeLead lead p d (word (if s.regionOf pa = .device then s.tileStatus pa else 0)))

/-- CMP.STAT (R392). -/
noncomputable def execCmpStat (d a : Code) (s : State) : Host.Outcome State Fault Refusal :=
  .next (s.runUnit (.cmpStat d a) 0 (reading (.cmpStat d a) (inTurn (cmpStatOne d a))))

end Sys2Proof.Machine
end

