-- ==== Sys2Proof/Machine/Power.lean ====
section
/-! DEFINITION. Boot, clocks, power, the thermal cut and the sensors (R393 to R401). -/

namespace Sys2Proof

/-- The steps that a module which has not booted takes: its boot, and the loss of its power (R394, R399). -/
def Instr.always : Instr → Bool
  | .moduleBoot _ _ _ | .supplyLoss _ | .thermalCut _ => true
  | _ => false

/-- The place of a change in the order of R398. -/
def PowerChange.rank : PowerChange → Nat
  | .none => 0 | .rate _ _ _ => 1 | .bytes _ _ _ => 2 | .mhz _ => 3

end Sys2Proof

namespace Sys2Proof.Machine

open Sys2Proof

/-! ### Boot (R394) -/

/-- How many entries of a mix are of a kind. -/
def countKind (k : DieKind) (mix : List DieKind) : Nat := (mix.filter (· == k)).length

/-- A Die Mix Table within R1. -/
def mixOk (mix : List DieKind) : Bool :=
  mix.length == 16 && countKind .geometry mix ≤ 2 && 4 ≤ countKind .shading mix && countKind .shading mix ≤ 8
    && 2 ≤ countKind .basin mix && countKind .basin mix ≤ 4

/-- A table of figures by cluster key, where the MC reports one within its limits. -/
def figures (ok : Nat → Bool) : Nat → List Nat → Tab Nat
  | _, [] => []
  | k, v :: t => if ok v then (k, v) :: figures ok (k + 1) t else figures ok (k + 1) t

/-- REASON after a boot: what it held, with HOSTRST when the host asserted reset, POR when the always-on domain was unpowered, and MCFAIL when no
firmware bank verified. After a cut, the supply's cycle or the host's reset may be what ended it. -/
def bootReason (w : Weir) (free ok : Bool) : BitVec 12 :=
  let held := if w.alwaysOn then w.reason else 1
  let held := if (w.powered || (w.cut && free)) && w.alwaysOn then held ||| 0x010 else held
  if ok then held else held ||| 0x008

/-- A firmware bank verifies (R403). What a bank that has not been written holds is not this module's to know: the boot says whether it verifies
(log 17). -/
def bankOk (bank : Tab Byte) (unwritten : Bool) : Bool := if bank.isEmpty then unwritten else Config.verifyImage bank == 2

/-- The bank that a boot runs, as `runA` tells it: the one that ran, or the other after ACTIVATE; a bank that does not verify gives way to the other
(R403). -/
def Weir.bootBank (w : Weir) (unwritten : Bool) : Option Bool :=
  let first := if w.activate then !w.runA else w.runA
  let ok (a : Bool) : Bool := bankOk (if a then w.bankA else w.bankB) unwritten
  if ok first then some first else if ok !first then some !first else none

/-- MODULE_BOOT (R394): the mix is what the MC found, and `ratesAndBytes` the figures it chose, by cluster key (log 5). Host memory, other devices
and what the host has been sent stand. -/
def execModuleBoot (mix : List DieKind) (firmwareOk : Bool) (ratesAndBytes : List (Nat × Nat)) (s : State) :
    Host.Outcome State Fault Refusal :=
  let (free, s) := s.freeBit
  let w := s.weir
  let bank := w.bootBank firmwareOk
  let ready := bank.isSome && mixOk mix
  let weir : Weir :=
    { dmt := mix, ready := ready, reason := bootReason w free bank.isSome, boots := w.boots + 1, grpcfg := w.grpcfg &&& 2
      rate := figures (fun v => 48 ≤ v && v ≤ 16384) 0 (ratesAndBytes.map Prod.fst)
      bytes := figures (fun v => v < 2 ^ 24) 0 (ratesAndBytes.map Prod.snd)
      bankA := w.bankA, bankB := w.bankB, log := w.log, runA := bank.getD w.runA }
  .next { dies := if ready then diesAtBoot 0 mix else [], weir := weir, outside := s.outside, msix := s.msix, hostReads := s.hostReads
          agenda := s.agenda, freeCtr := s.freeCtr, nextId := s.nextId }

/-! ### Loss of power (R393, R399) -/

/-- A module whose dies have lost their power: nothing of their state is left. -/
def State.withoutPower (s : State) (w : Weir) : State :=
  { weir := { w with powered := false }, outside := s.outside, msix := s.msix, hostReads := s.hostReads
    agenda := s.agenda, freeCtr := s.freeCtr, nextId := s.nextId }

/-- THERMAL_CUT (R399). -/
def execThermalCut (die : Nat) (s : State) : Host.Outcome State Fault Refusal :=
  if s.kindOf die = .absent ∨ !s.weir.powered then .next s
  else
    let r := (s.weir.reason &&& 0x0FF) ||| 0x002 ||| (BitVec.ofNat 12 die <<< 8)
    .next (s.withoutPower
      { reason := r, cut := true, bankA := s.weir.bankA, bankB := s.weir.bankB, runA := s.weir.runA, activate := s.weir.activate
        boots := s.weir.boots, grpcfg := s.weir.grpcfg &&& 2, log := s.weir.log ++ [.comparator die] })

/-- SUPPLY_LOSS (R393): the held bits survive unless the always-on supply goes too. -/
def execSupplyLoss (alwaysOn : Bool) (s : State) : Host.Outcome State Fault Refusal :=
  .next (s.withoutPower
    { reason := if alwaysOn then 0 else s.weir.reason, alwaysOn := s.weir.alwaysOn && !alwaysOn, bankA := s.weir.bankA, bankB := s.weir.bankB
      runA := s.weir.runA, activate := s.weir.activate, boots := s.weir.boots, grpcfg := s.weir.grpcfg &&& 2
      log := if alwaysOn then [] else s.weir.log })

/-- A store to REASON clears the bits that it sets. -/
def State.clearReason (s : State) (v : Nat) : State :=
  { s with weir := { s.weir with reason := s.weir.reason &&& ~~~(BitVec.ofNat 12 v) } }

/-- REASON_CLEAR (R393). -/
def execReasonClear (v : BitVec 64) (s : State) : Host.Outcome State Fault Refusal := .next (s.clearReason v.toNat)

/-! ### Clocks (R395) -/

/-- A new target: it takes the pending count, or else the first multiple of 65,536 at least 4,096 clk ahead. -/
def State.setTarget (s : State) (mhz : Nat) : State :=
  let n := s.weir.switchAt.getD (ceilDiv (s.clock + 4096) 65536 * 65536)
  { s with weir := { s.weir with tgt := mhz, switchAt := some n } }

/-- A legal arithmetic frequency (R395). -/
def legalMhz (v : Nat) : Bool := 900 ≤ v && v ≤ 2250 && v % 75 == 0

/-- The MC begins a change of the frequency of its own: while no ISO gang holds a reservation, while no sensor cap holds the floor (R400), and not
above what R398 has lowered it to. A change that is pending when an ISO gang is admitted goes on (log 16). -/
def State.newTarget (s : State) (mhz : Nat) : State :=
  let iso := s.launches.any fun l => l.2.phase == .running && l.2.rcd.iso
  let capped := s.weir.capped.any fun c => c.rank == 3
  if legalMhz mhz && !iso && !(s.weir.floor && mhz != 900) && !(capped && s.weir.tgt < mhz) then s.setTarget mhz else s

/-- Every region switches at count N. -/
def State.freqSwitch (s : State) : State :=
  match s.weir.switchAt with
  | none => s
  | some n => if s.clock < n then s else { s with weir := { s.weir with mhz := s.weir.tgt, fclock := BitVec.ofNat 64 n, switchAt := none } }

/-- FREQ_SWITCH (R395): at count N; time makes the switch of itself then (State.clkEnd). -/
def execFreqSwitch (s : State) : Host.Outcome State Fault Refusal := .next s.freqSwitch

/-! ### Power (R397, R398) -/

/-- BYTES of a cluster, as the MC reports it (R393, R394). -/
def State.bytesOf (s : State) (cl : Nat) : Nat := s.weir.bytes.get (Config.bytesDefault cl) cl % 2 ^ 24

/-- BYTE_BUDGET_INTERVAL (R397): every share is granted afresh. Budgets lengthen waits and nothing else, and time is what the agenda says (log 16). -/
def execByteBudgetInterval (_cl : Nat) (s : State) : Host.Outcome State Fault Refusal := .next s

/-- What undoes a change: the figure that stands before it. -/
def State.undoOf (s : State) : PowerChange → PowerChange
  | .none => .none
  | .rate d c _ => .rate d c (s.rate (16 * d + c))
  | .bytes d c _ => .bytes d c (s.bytesOf (16 * d + c))
  | .mhz _ => .mhz s.weir.tgt

/-- A change takes effect; shots up to now come at the old rate (R200). -/
def State.applyPower (s : State) : PowerChange → State
  | .none => s
  | .rate d c v =>
    let s := s.fillReservoir (16 * d + c)
    { s with weir := { s.weir with rate := s.weir.rate.put (16 * d + c) v } }
  | .bytes d c v => { s with weir := { s.weir with bytes := s.weir.bytes.put (16 * d + c) v } }
  | .mhz v => s.setTarget v

/-- The cluster keys of the module, but for those with an ISO reservation. -/
def State.freeClusters (s : State) : List Nat :=
  (s.computeDies.flatMap fun d => (List.range (if s.kindOf d = .shading then 12 else 4)).map fun c => 16 * d + c).filter fun cl =>
    (s.isoShares cl).isEmpty

/-- Figures of a rank of R398's order have been lowered, or none of them can be. -/
def State.turnPast (s : State) (rank : Nat) : Bool :=
  (s.weir.capped.any fun c => c.rank == rank) || s.freeClusters.all fun cl =>
    match rank with
    | 1 => s.rate cl ≤ 48
    | 2 => s.bytesOf cl == 0
    | _ => true

/-- A change lowers a figure within its limits, of a cluster of the module without an ISO reservation. -/
def State.lowers (s : State) : PowerChange → Bool
  | .none => false
  | .rate d c v => 48 ≤ v && v < s.rate (16 * d + c) && s.freeClusters.contains (16 * d + c)
  | .bytes d c v => v < s.bytesOf (16 * d + c) && s.freeClusters.contains (16 * d + c)
  | .mhz v => legalMhz v && v < s.weir.tgt

/-- The last change that stands to be restored. -/
def lastCapped (w : Weir) : PowerChange := match w.capped with | c :: _ => c | [] => .none

/-- POWER_SAMPLE (R398): the two thresholds, then the change where the order lets the MC make it; other figures stand. How far the MC lowers figures of
one rank before it turns to the next is its own (log 16). -/
def execPowerSample (meanWatts : Nat) (change : PowerChange) (s : State) : Host.Outcome State Fault Refusal :=
  let w := s.weir
  let w := { w with
    overPower := if 1800 < meanWatts then true else if meanWatts < 1760 then false else w.overPower
    lowSince := if meanWatts < 1700 then some (w.lowSince.getD s.ref) else none }
  let s := { s with weir := w }
  if change = .none then .next s
  else if w.overPower then
    if s.lowers change && (lastCapped w).rank ≤ change.rank && (upFrom 1 (change.rank - 1)).all s.turnPast then
      let undo := s.undoOf change
      let s := s.applyPower change
      .next { s with weir := { s.weir with capped := undo :: s.weir.capped } }
    else .next s
  else if w.lowSince.any (fun t => t + 1000000 ≤ s.ref) && change == lastCapped w && !(w.floor && change.rank == 3) then
    let s := s.applyPower change
    .next { s with weir := { s.weir with capped := s.weir.capped.tail } }
  else .next s

/-! ### Sensors (R400) -/

/-- The key of a sensor: three to a region; index 2 is the current sensor. -/
def sensorKey (region idx : Nat) : Nat := 3 * region + idx

def State.sensor (s : State) (k : Nat) : Sensor := s.weir.sensors.get {} k

/-- The die of a sensor region: a cluster's key, or 256 and more for a Basin die or the Weir. -/
def regionDie (region : Nat) : Nat := if region < 256 then region / 16 else region

/-- Neighbours of a sensor, by key. -/
def neighboursOf (region idx : Nat) : List Nat := (Config.sensorNeighbours region idx).map fun n => sensorKey n.1 n.2

/-- The largest of some values. -/
def largest (l : List Int) : Int := match l with | [] => 0 | a :: t => t.foldl max a

/-- A list in rising order. -/
def sortedInts (l : List Int) : List Int :=
  l.foldl (fun acc x => (acc.filter (· ≤ x)) ++ x :: acc.filter fun y => !(y ≤ x)) []

/-- The median; of an even number of values, the mean of the middle two. -/
def median (l : List Int) : Int :=
  let t := sortedInts l
  let n := t.length
  (t.getD ((n - 1) / 2) 0 + t.getD (n / 2) 0) / 2

/-- A reading outside the range of its sensor. -/
def outOfRange (r : SensorReading) : Bool :=
  if r.idx = 2 then r.value < 0 || 12000 < r.value else r.value < -4000 || 15000 < r.value

/-- The new readings, with the tests on a sensor's own code and range. -/
def State.takeReadings (s : State) (l : List SensorReading) : State :=
  foldState (fun (r : SensorReading) s =>
    let k := sensorKey r.region r.idx
    let x := s.sensor k
    let since := if x.raw = r.raw then x.since else s.ref
    let x := { x with raw := r.raw, since := since, value := r.value, failed := x.failed || outOfRange r || since + 1000000 ≤ s.ref }
    { s with weir := { s.weir with sensors := s.weir.sensors.put k x } }) l s

/-- Sensors that differ from the median of their unfailed neighbours by more than 15 °C; each is judged in the same sample. -/
def State.disagreeing (s : State) (l : List SensorReading) : List SensorReading :=
  l.filter fun r =>
    let near := (neighboursOf r.region r.idx).filter fun k => !(s.sensor k).failed
    r.idx < 2 && 2 ≤ near.length &&
      (let m := median (near.map fun k => (s.sensor k).value)
       1500 < r.value - m || 1500 < m - r.value)

/-- The value used for a failed sensor. -/
def State.standIn (s : State) (r : SensorReading) : Int :=
  let ok (l : List Nat) : List Int := (l.filter fun k => !(s.sensor k).failed).map fun k => (s.sensor k).value
  let near := ok (neighboursOf r.region r.idx)
  let all := ok ((s.weir.sensors.map Prod.fst).filter fun k => regionDie (k / 3) == regionDie r.region && (k % 3 == 2) == (r.idx == 2))
  let m := largest (if near.isEmpty then all else near)
  if r.idx = 2 then m + m / 10 else m + 500

/-- SENSOR_SAMPLE (R400). -/
def execSensorSample (readings : List SensorReading) (s : State) : Host.Outcome State Fault Refusal :=
  let before := s
  let s := s.takeReadings readings
  let odd := s.disagreeing readings
  let s := foldState (fun (r : SensorReading) s =>
    let k := sensorKey r.region r.idx
    { s with weir := { s.weir with sensors := s.weir.sensors.put k { s.sensor k with failed := true } } }) odd s
  let failed := readings.filter fun r => (s.sensor (sensorKey r.region r.idx)).failed
  let fresh := failed.filter fun r => !(before.sensor (sensorKey r.region r.idx)).failed
  let values := failed.map fun r => (sensorKey r.region r.idx, s.standIn r)
  let s := foldState (fun (x : Nat × Int) s =>
    { s with weir := { s.weir with sensors := s.weir.sensors.put x.1 { s.sensor x.1 with value := x.2 } } }) values s
  let s := { s with weir := { s.weir with log := s.weir.log ++ fresh.map fun r => .sensorFailed r.region r.idx } }
  let lost := readings.any fun r => (List.range 3).all fun i => (s.sensor (sensorKey r.region i)).failed
  if lost && !s.weir.floor then .next (({ s with weir := { s.weir with floor := true } }).setTarget 900) else .next s

end Sys2Proof.Machine
end

