-- ==== Sys2Proof/Machine/Sm3.lean ====
section
/-! DEFINITION. The SM3 hash (R403, R404), which the manual names and the standard GB/T 32905 defines (log 59). -/

namespace Sys2Proof.Machine.Sm3

open Sys2Proof

/-- A big-endian word from bytes, and its bytes. -/
def wordOf (l : List Byte) : Word := BitVec.ofNat 32 (l.foldl (fun n b => 256 * n + b.toNat) 0)
def bytesOf (w : Word) : List Byte := [w.extractLsb' 24 8, w.extractLsb' 16 8, w.extractLsb' 8 8, w.extractLsb' 0 8]

/-- The permutations P0 and P1. -/
def p0 (x : Word) : Word := x ^^^ x.rotateLeft 9 ^^^ x.rotateLeft 17
def p1 (x : Word) : Word := x ^^^ x.rotateLeft 15 ^^^ x.rotateLeft 23

/-- The constant of a round, and the Boolean functions FF and GG. -/
def constant (j : Nat) : Word := if j < 16 then 0x79CC4519 else 0x7A879D8A
def ff (j : Nat) (x y z : Word) : Word := if j < 16 then x ^^^ y ^^^ z else (x &&& y) ||| (x &&& z) ||| (y &&& z)
def gg (j : Nat) (x y z : Word) : Word := if j < 16 then x ^^^ y ^^^ z else (x &&& y) ||| (~~~x &&& z)

/-- The expanded words of a block, the latest first: `n` more after those that stand. -/
def expand : Nat → List Word → List Word
  | 0, w => w
  | n + 1, w =>
    let at_ (k : Nat) : Word := w.getD (k - 1) 0
    expand n ((p1 (at_ 16 ^^^ at_ 9 ^^^ (at_ 3).rotateLeft 15) ^^^ (at_ 13).rotateLeft 7 ^^^ at_ 6) :: w)

/-- The eight working words. -/
structure Regs where
  a : Word
  b : Word
  c : Word
  d : Word
  e : Word
  f : Word
  g : Word
  h : Word

/-- The initial value. -/
def start : Regs := ⟨0x7380166F, 0x4914B2B9, 0x172442D7, 0xDA8A0600, 0xA96F30BC, 0x163138AA, 0xE38DEE4D, 0xB0FB0E4E⟩

/-- Round j, with its expanded word and the one four rounds later. -/
def round (v : Regs) (j : Nat) (w w4 : Word) : Regs :=
  let ss1 := (v.a.rotateLeft 12 + v.e + (constant j).rotateLeft (j % 32)).rotateLeft 7
  let ss2 := ss1 ^^^ v.a.rotateLeft 12
  let tt1 := ff j v.a v.b v.c + v.d + ss2 + (w ^^^ w4)
  let tt2 := gg j v.e v.f v.g + v.h + ss1 + w
  ⟨tt1, v.a, v.b.rotateLeft 9, v.c, p0 tt2, v.e, v.f.rotateLeft 19, v.g⟩

/-- Rounds from j on, over the expanded words from j on. -/
def rounds : Nat → Nat → Regs → List Word → Regs
  | n + 1, j, v, w :: t => rounds n (j + 1) (round v j w (t.getD 3 0)) t
  | _, _, v, _ => v

/-- The compression of one block of 64 bytes. -/
def compress (v : Regs) (block : List Byte) : Regs :=
  let w := (List.range 16).map fun k => wordOf ((block.drop (4 * k)).take 4)
  let x := rounds 64 0 v (expand 52 w.reverse).reverse
  ⟨x.a ^^^ v.a, x.b ^^^ v.b, x.c ^^^ v.c, x.d ^^^ v.d, x.e ^^^ v.e, x.f ^^^ v.f, x.g ^^^ v.g, x.h ^^^ v.h⟩

/-- Blocks one after another. -/
def blocks : Nat → Regs → List Byte → Regs
  | 0, v, _ => v
  | n + 1, v, l => blocks n (compress v (l.take 64)) (l.drop 64)

/-- A message with its padding: a 1 bit, zeros, and the length in bits as 8 big-endian bytes. -/
def padded (l : List Byte) : List Byte :=
  let n := l.length
  l ++ 0x80#8 :: List.replicate ((119 - n % 64) % 64) 0 ++ (leBytes (8 * n) 8).reverse

/-- The 32 bytes of the SM3 hash of some bytes. -/
def hash (l : List Byte) : List Byte :=
  let m := padded l
  let v := blocks (m.length / 64) start m
  [v.a, v.b, v.c, v.d, v.e, v.f, v.g, v.h].flatMap bytesOf

end Sys2Proof.Machine.Sm3
end

