-- ==== Sys2Proof/Machine/Mc.lean ====
section
/-! DEFINITION. The management controller: snapshots (R405, R406) and the mailbox (R402 to R404). -/

namespace Sys2Proof

/-- KIND's number. -/
def DieKind.num : DieKind → Nat | .absent => 0 | .geometry => 1 | .shading => 2 | .basin => 3

/-- Clusters of a kind of die. -/
def DieKind.clusters : DieKind → Nat | .shading => 12 | .geometry => 4 | .absent | .basin => 0

end Sys2Proof

namespace Sys2Proof.Machine

open Sys2Proof

/-! ### The Die Mix Table (R393) -/

/-- A DMT entry. -/
def State.dmtEntry (s : State) (d : Nat) : Nat :=
  let k := s.kindOf d
  k.num + 2 ^ 8 * (if k = .absent then 0 else countKind k (s.weir.dmt.take d)) + 2 ^ 16 * k.clusters

/-- BOOT. -/
def State.bootWord (s : State) : Nat :=
  countKind .geometry s.weir.dmt + 2 ^ 4 * countKind .shading s.weir.dmt + 2 ^ 8 * countKind .basin s.weir.dmt + 2 ^ 31 * ofBool s.weir.ready

/-! ### The snapshot image (R406) -/

/-- A slot record. -/
def State.slotRecord (s : State) (k : Nat) : List Byte :=
  match s.waves.find k with
  | none => zeros 16
  | some w =>
    let w' := w.settleJoins
    let pc := w'.chosenPc
    leBytes (1 + 2 * ofBool pc.isSome) 4 ++ leBytes (pc.getD 0).toNat 4 ++ leBytes w.cause.toNat 4 ++ leBytes (s.core (coreOfWave k)).pocket 4

/-- A cluster record. -/
def State.clusterRecord (s : State) (cl : Nat) : List Byte :=
  let gate (p : Nat) : Nat := if s.kindOf (dieOfCluster cl) = .shading then (s.gateNow cl p).toNat else 0
  ((List.range 4).flatMap fun c => leBytes (s.chan cl c).status.toNat 4) ++ ((List.range 4).flatMap fun p => leBytes (gate p) 4)
    ++ leBytes (s.cluster cl).reservoir 4 ++ zeros 28

/-- The queue indices by hardware queue slot. -/
def State.slotTable (s : State) (d : Nat) : List Nat :=
  (List.range 64).map fun i => (((s.die d).queues.find? fun q => q.2.mapped.isSome && q.2.slot == i).map Prod.fst).getD 0xFFFF

/-- The section of a shading or geometry die. -/
def State.dieSection (s : State) (d : Nat) : List Byte :=
  let c := (s.kindOf d).clusters
  leBytes (s.kindOf d).num 1 ++ leBytes c 1 ++ zeros 14
    ++ ((s.slotTable d).flatMap fun q => leBytes q 2) ++ zeros 112
    ++ ((List.range 256).flatMap fun k => leBytes (s.timeline d k) 8)
    ++ ((List.range c).flatMap fun j => s.clusterRecord (16 * d + j)) ++ zeros (64 * (12 - c))
    ++ (List.range (8 * c)).flatMap fun j => (List.range 16).flatMap fun slot => s.slotRecord (16 * (128 * d + j) + slot)

/-- What the channels of the Basin dies have moved depends on what caches hold, which nothing architected fixes: from one image to the next the counts
rise by free amounts (R246, R406, log 1). -/
def State.countChannels (s : State) : State :=
  foldState (fun r s =>
    let b := s.basins.get {} r
    let moved := (List.range 16).map fun k => (k, b.moved.get 0 k + (Config.freeWord (s.freeCtr + k)).toNat)
    { s with basins := s.basins.put r { b with moved := moved }, freeCtr := s.freeCtr + 16 }) (List.range s.basinDies.length) s

/-- The section of a Basin die, by its rank. -/
def State.basinSection (s : State) (r : Nat) : List Byte :=
  leBytes 3 1 ++ zeros 15 ++ ((List.range 16).flatMap fun k => leBytes ((s.basins.get {} r).moved.get 0 k) 8) ++ zeros 112

/-- The offsets of the die sections from one on: the image's tail, and DIEOFF. -/
def State.sections (s : State) : Nat → Nat → List DieKind → List Byte × List Nat
  | _, _, [] => ([], [])
  | d, at_, k :: t =>
    let sec := match k with
      | .absent => []
      | .basin => s.basinSection (countKind .basin (s.weir.dmt.take d))
      | .geometry | .shading => s.dieSection d
    let (rest, offs) := s.sections (d + 1) (at_ + sec.length) t
    (sec ++ rest, (if k = .absent then 0 else at_) :: offs)

/-- The image of a snapshot that every block latches at a CLOCK count; sections begin at the first multiple of 256 after the header. -/
def State.snapImage (s : State) (at_ source : Nat) : List Byte :=
  let (body, offs) := s.sections 0 256 s.weir.dmt
  leBytes 0x53584E50 4 ++ leBytes 1 4 ++ leBytes at_ 8 ++ leBytes source 1 ++ zeros 3 ++ leBytes (256 + body.length) 4 ++ zeros 8
    ++ ((List.range 16).flatMap fun d => leBytes (offs.getD d 0) 4) ++ zeros 32 ++ zeros 128 ++ body

/-! ### SNAPCTL (R393, R405) -/

/-- A store to SNAPCTL. -/
def State.writeSnapctl (s : State) (v : Nat) : State :=
  let w := s.weir
  let s := { s with weir :=
    { w with arm := bit v 0, trapen := bit v 2, imm := BitVec.ofNat 8 (fld v 8 8), heldSnap := w.heldSnap && !bit v 0 } }
  if bit v 16 then s.snapTrigger 1 else s

/-- SNAP_ARM (R393). -/
def execSnapArm (v : BitVec 64) (s : State) : Host.Outcome State Fault Refusal := .next (s.writeSnapctl v.toNat)

/-- SNAP_FIRE (R405). -/
def execSnapFire (v : BitVec 64) (s : State) : Host.Outcome State Fault Refusal := .next (s.writeSnapctl v.toNat)

/-- SNAP_PIN (R405). -/
def execSnapPin (s : State) : Host.Outcome State Fault Refusal := .next (s.snapTrigger 2)

/-- Every block latches 256 clk after an accepted trigger. Latching changes no execution state. -/
def State.snapLatch (s : State) : State :=
  match s.weir.trigger with
  | none => s
  | some (n, source) =>
    if s.clock < n then s
    else
      let s := s.countChannels
      let img := s.snapImage n source
      { s with
        weir := { s.weir with trigger := none, heldSnap := true, snapclk := word n, image := img } }

/-- SNAP_LATCH (R405): time latches of itself when the count is reached (State.clkEnd). -/
def execSnapLatch (s : State) : Host.Outcome State Fault Refusal := .next s.snapLatch

/-! ### The mailbox (R402) -/


/-- Bytes of BUF. -/
def State.bufBytes (s : State) (at_ len : Nat) : List Byte := (upFrom at_ len).map (s.weir.buf.get 0)

/-- A store to MBCMD posts a command with the ARG that stands, and the nonce in BUF (R404); one that finds a command running, or names none, is refused. -/
def State.postCommand (s : State) (v : Nat) : State :=
  let c := fld v 0 8
  let w := { s.weir with mbcmd := BitVec.ofNat 8 c }
  if w.mbRun.isSome || c < 1 || 6 < c then { s with weir := { w with mbcode := 3 } }
  else { s with weir := { w with mbcode := 1, mbRun := some (c, w.mbarg), nonce := s.bufBytes 0 32 } }

/-- The argument of the command that the MC executes, when it is one of a number. -/
def State.running (s : State) (c : Nat) : Option Nat :=
  match s.weir.mbRun with
  | some (k, a) => if k = c then some a.toNat else none
  | none => none

/-- The end of a command: its code and the result in BUF. -/
def State.endCommand (s : State) (code : Nat) (result : List Byte) : State :=
  let put := cellsOf 0 (slice result 0 (min 4096 result.length))
  { s with weir :=
    { s.weir with mbRun := none, mbcode := code, mblen := word (min 4096 result.length)
                  buf := put.foldl (fun b c => Tab.putD b 0 c.1 c.2) s.weir.buf } }


/-- A log entry as kind and number, from which the MC forms its report (log 17). -/
def LogEntry.nums : LogEntry → Nat × Nat
  | .corrected c => (0, c)
  | .sensorFailed r i => (1, 3 * r + i)
  | .gateFailed c p => (2, 4 * c + p)
  | .comparator d => (3, d)
  | .port p => (4, p)
  | .abandoned a => (5, a)
  | .correctedBasin r => (6, r)
  | .replay p => (7, p)

/-- MB_LOG (R402): the entries from number ARG on. -/
def execMbLog (s : State) : Host.Outcome State Fault Refusal :=
  match s.running 1 with
  | none => .next s
  | some a =>
    let l := (s.weir.log.map LogEntry.nums).drop a
    .next (s.endCommand 2 ((List.range (min 4096 (Config.logLen l a))).map (Config.logByte l a)))

/-- The bank that does not run. -/
def Weir.spare (w : Weir) : Tab Byte := if w.runA then w.bankB else w.bankA
def Weir.setSpare (w : Weir) (b : Tab Byte) : Weir := if w.runA then { w with bankB := b } else { w with bankA := b }

/-- MB_STAGE (R402). -/
def execMbStage (s : State) : Host.Outcome State Fault Refusal :=
  match s.running 2 with
  | none => .next s
  | some a =>
    let len := fld a 32 16
    if fld a 48 16 ≠ 0 ∨ len < 1 ∨ 4096 < len then .next (s.endCommand 3 [])
    else
      let bank := (cellsOf (fld a 0 32) (s.bufBytes 0 len)).foldl (fun b c => Tab.put b c.1 c.2) s.weir.spare
      .next ({ s with weir := s.weir.setSpare bank }.endCommand 2 [])

/-- MB_ACTIVATE (R403): an image that verifies is run at the next reset. -/
def execMbActivate (s : State) : Host.Outcome State Fault Refusal :=
  match s.running 3 with
  | none => .next s
  | some _ =>
    match Config.verifyImage s.weir.spare with
    | 2 => .next ({ s with weir := { s.weir with activate := true } }.endCommand 2 [])
    | 5 => .next (s.endCommand 5 [])
    | _ => .next (s.endCommand 4 [])

/-- The firmware that runs: what STAGE has written to its bank, and for the rest what the module was delivered with, which is not given (log 17). -/
def Weir.firmware (w : Weir) : List Byte :=
  let bank := if w.runA then w.bankA else w.bankB
  let len := if bank.isEmpty then Config.factoryLen w.runA else Tab.freeFrom bank 0
  (List.range len).map fun i => (Tab.find bank i).getD (Config.factoryByte w.runA i)

/-- The report of R404. -/
def State.report (s : State) (nonce : List Byte) : List Byte :=
  let dmt := ((List.range 16).flatMap fun d => leBytes (s.dmtEntry d) 8) ++ leBytes s.bootWord 8
  let body := leBytes 0x54534C48 4 ++ leBytes 1 4 ++ nonce ++ Sm3.hash s.weir.firmware ++ Sm3.hash dmt
    ++ ((List.range 16).map Config.serialByte) ++ leBytes (Config.bootsBefore + s.weir.boots) 8
  body ++ (List.range 64).map (Config.signByte body)

/-- MB_ATTEST (R404). -/
def execMbAttest (s : State) : Host.Outcome State Fault Refusal :=
  match s.running 4 with
  | none => .next s
  | some _ => .next (s.endCommand 2 (s.report (slice s.weir.nonce 0 32)))

/-- MB_SNAPREAD (R402, R406): bytes beyond the image read 0, and LEN counts the image bytes. -/
def execMbSnapread (s : State) : Host.Outcome State Fault Refusal :=
  match s.running 5 with
  | none => .next s
  | some a =>
    let img := if s.weir.heldSnap then s.weir.image else []
    let n := min 4096 (img.length - a)
    let t := s.endCommand 2 (slice img a 4096)
    .next { t with weir := { t.weir with mblen := word n } }

/-- MB_CERT (R402). -/
def execMbCert (s : State) : Host.Outcome State Fault Refusal :=
  match s.running 6 with
  | none => .next s
  | some _ => .next (s.endCommand 2 ((List.range (min 4096 Config.certLen)).map Config.certByte))

end Sys2Proof.Machine
end

