-- ==== Sys2Proof/Machine/Ecc.lean ====
section
/-! DEFINITION. Errors in storage that carries ECC, and the scrubs (R141, R209, R247, R312, R350; log 20). -/

namespace Sys2Proof.Machine

open Sys2Proof

/-- ECC_SCRUB (R141, R350). -/
def execEccScrub (site : EccSite) (s : State) : Host.Outcome State Fault Refusal := .next (s.correct site)

/-- Marks the eight units of a line (R247, R350). -/
def State.markLine (s : State) (pa : Nat) : State :=
  foldState (fun j s => s.markPoison (pa / 128 * 128 + 16 * j)) (List.range 8) s

/-- A task ends faulted with SOFTERR, by no trap and no fault reply: TPC and TVAL are 0 (R141, R209, R270). -/
def State.softFault (s : State) (l : Nat) : State := s.faultLaunch l Cause.softerr.mask 0 0

/-- An uncorrectable error (R141, R209, R247, R312, R350). V and O registers show it where they are read; W registers are slot state here, whose error
ends the task (log 54). -/
def State.strike (s : State) : EccSite → State
  | .register k p c =>
    if c < 0xE0 ∨ 0xF0 ≤ c ∧ c < 0xF8 then s.modThread k p fun t => if t.bad.contains c then t else { t with bad := c :: t.bad }
    else s
  | .slotState k => match s.waves.find k with | some w => s.softFault w.launch | none => s
  | .tarnWord c off => s.modCore c fun x => { x with tarnBad := sortedInsert x.tarnBad (off / 4) }
  | .accElement c t r col => s.modCore c fun x => { x with badTiles := sortedInsert x.badTiles (128 * t + 16 * r + col) }
  | .codeSlot c i => s.modCore c fun x => if i = 0 then { x with slot0 := { x.slot0 with bad := true } } else { x with slot1 := { x.slot1 with bad := true } }
  | .barrier t => match s.teams.find t with | some x => s.softFault x.launch | none => s
  | .fifoEntry cl f i => s.modCluster cl fun c =>
      { c with fifos := c.fifos.map fun x => if x.1 = f then (x.1, listSet x.2 i { x.2.getD i { width := 0, vals := [] } with bad := true }) else x }
  | .channel cl ch => s.haltChannel cl ch 7
  | .reservoir cl => s.modCluster cl fun c => { c with reservoir := 0, frac := 0 }
  | .l2Line d pa => s.markL2 d pa
  | .llcLine pa => if s.regionOf pa = .device then s.markLine pa else s
  | .directory pas => foldState (fun pa s => if s.regionOf pa = .device then s.markLine pa else s) pas s
  | .watchEntry e => if (s.watch e).armed then s.flood e true else s
  | .rayQuery q => s.modQuery q fun x => { x with st := .failed .softerr 0 }
  | .builderState d => s.modDie d fun x => { x with running := x.running.map fun j => { j with code := some 5 } }

/-- ECC_ERROR: one bit, to be corrected where it is met or scrubbed, or an uncorrectable error. -/
def execEccError (site : EccSite) (double : Bool) (s : State) : Host.Outcome State Fault Refusal :=
  if !double then .next { s with latent := if s.latent.contains site then s.latent else site :: s.latent }
  else
    let s' := s.strike site
    match s.basinOf site with
    | some r => .next ({ s' with freeCtr := s'.freeCtr + 1 }.modBasin r fun b => { b with uecnt := b.uecnt + 1 })
    | none => .next s'

/-- MEMORY_PATROL_SCRUB (R350): lines that the device reports as uncorrectable are marked. -/
def execMemoryPatrolScrub (lines : List Nat) (s : State) : Host.Outcome State Fault Refusal :=
  .next (foldState (fun pa s =>
    if s.regionOf pa = .device then (s.markLine pa).modBasin (s.homeOf pa) fun b => { b with uecnt := b.uecnt + 1 } else s) lines s)

end Sys2Proof.Machine
end

