-- ==== Sys2Proof/Machine/Control.lean ====
section
/-! DEFINITION. Control space: the control blocks of the dies, the Weir's registers and the link registers (R234, R239, R242, R254, R351, R372,
R383, R393, R426, R429). Reserved fields read 0. -/

namespace Sys2Proof.Machine

open Sys2Proof

/-- Where a control-space address points: the block of a die, the Weir's registers or the link block, with an offset (R234, R393, R426). -/
inductive ControlPlace where
  | die (d off : Nat) | weir (off : Nat) | link (off : Nat) | none
  deriving DecidableEq, Repr

def controlPlace (pa : Nat) : ControlPlace :=
  let o := pa - 2 ^ 40
  if o < 0x10000000 then .die (o / 0x1000000) (o % 0x1000000)
  else if o < 0x10002000 then .weir (o - 0x10000000)
  else if 0x11000000 ≤ o ∧ o < 0x11001000 then .link (o - 0x11000000)
  else .none

/-- The rank of a Basin die (R347). -/
def State.basinRank (s : State) (d : Nat) : Nat := countKind .basin (s.weir.dmt.take d)

/-! ### Loads -/

/-- GFXSTAT's STATE (R372). -/
def GfxState.num : GfxState → Nat | .idle => 0 | .run => 1 | .done => 2 | .fault => 3

/-- A register of a shading or geometry die. -/
def State.readDie (s : State) (d off : Nat) : Nat :=
  let x := s.die d
  if off = 0x000 then x.xinva.toNat
  else if off = 0x010 then x.xinvDone.toNat
  else if off = 0x018 then x.fqbase.toNat
  else if off = 0x020 then x.fqcfg.toNat
  else if off = 0x028 then x.fqtail.toNat
  else if off = 0x030 then x.fqhead.toNat
  else if off = 0x100 then x.qtbase.toNat
  else if off = 0x108 then x.ctxbase.toNat
  else if off = 0x110 then x.segpool.toNat
  else if off = 0x118 then x.segfree.toNat
  else if off = 0x120 then x.coreen0.toNat
  else if off = 0x128 then x.coreen1.toNat
  else if off = 0x130 then x.strmbase.toNat
  else if off = 0x140 then x.discards.toNat
  else if off = 0x148 then fld (s.parked.filter fun p => p.2.die == d).length 0 32
  else if off = 0x158 then x.gfx.desc.id + 2 ^ 32 * x.gfx.st.num
  else if 0x200 ≤ off ∧ off < 0x400 then
    let k := (off - 0x200) / 2
    leNat ((List.range 4).flatMap fun j => leBytes (x.tlOwner.get 0 (k + j)).toNat 2)
  else if 0x400 ≤ off ∧ off < 0xC00 then s.timeline d ((off - 0x400) / 8)
  else if 0xC00 ≤ off ∧ off < 0x1400 then (x.hostirq.get 0 ((off - 0xC00) / 8)).toNat
  else 0

/-- A register of a Basin die (R351, R383). -/
def State.readBasin (s : State) (rank off : Nat) : Nat :=
  let b := s.basins.get {} rank
  if off < 0x800 then (s.sems.get 0 (256 * rank + off / 8)).toNat
  else if off = 0x800 then b.cecnt.toNat
  else if off = 0x808 then b.uecnt.toNat
  else if off = 0x810 then b.poisons.toNat
  else if 0x1000 ≤ off ∧ off < 0x1200 then
    let f := s.surfaces.get {} (16 * rank + (off - 0x1000) / 32)
    match (off - 0x1000) % 32 / 8 with
    | 0 => f.base.toNat | 1 => f.ntile.toNat | 2 => f.pmeta.toNat | _ => f.clear.toNat
  else 0

/-- A register of the Weir (R393). -/
def State.readWeir (s : State) (off : Nat) : Nat :=
  let w := s.weir
  if off < 0x080 then s.dmtEntry (off / 8)
  else if off = 0x080 then s.bootWord
  else if off = 0x088 then w.reason.toNat
  else if off = 0x090 then w.mhz + 2 ^ 16 * w.tgt + 2 ^ 28 * ofBool w.floor
  else if off = 0x098 then w.fclock.toNat
  else if off = 0x0A0 then
    ofBool w.arm + 2 * ofBool w.heldSnap + 4 * ofBool w.trapen + 2 ^ 8 * w.imm.toNat + 2 ^ 32 * w.snapclk.toNat
  else if off = 0x100 then w.mbcmd.toNat
  else if off = 0x108 then w.mbarg.toNat
  else if off = 0x110 then w.mbcode + 2 ^ 32 * w.mblen.toNat
  else if 0x800 ≤ off ∧ off < 0x1000 then
    let cl := (off - 0x800) / 8
    if cl % 16 < (s.kindOf (cl / 16)).clusters then s.rate cl + 2 ^ 16 * s.bytesOf cl else 0
  else if 0x1000 ≤ off then leNat (s.bufBytes (off - 0x1000) 8)
  else 0

/-- A link register (R426). -/
def State.readLink (s : State) (off : Nat) : Nat :=
  let w := s.weir
  if off = 0x000 then w.grpcfg.toNat
  else if 0x100 ≤ off ∧ off < 0x300 then (w.devtab.get 0 ((off - 0x100) / 8)).toNat
  else if 0x400 ≤ off ∧ off < 0x520 then
    let p := w.ports.get {} ((off - 0x400) / 16)
    if (off - 0x400) % 16 = 0 then p.st + 8 * ofBool p.enable + 2 ^ 4 * p.width + 2 ^ 16 * p.peerDev + 2 ^ 24 * p.peerGrp
    else p.crcErr.toNat + 2 ^ 32 * p.replays.toNat
  else if off = 0x800 then w.lto.toNat
  else if off = 0x808 then w.lost.toNat
  else 0

/-- The 8 bytes that a load of control space returns. -/
def State.controlRead (s : State) (pa : Nat) : Nat :=
  match controlPlace pa with
  | .die d off =>
    match s.kindOf d with
    | .absent => 0
    | .basin => s.readBasin (s.basinRank d) off
    | .geometry | .shading => s.readDie d off
  | .weir off => s.readWeir off
  | .link off => s.readLink off
  | .none => 0

/-! ### Stores -/

/-- The segments of a free list, counted along their links; `fuel` bounds a list that does not end (R254, R258). -/
def State.countSegments (s : State) (d : Nat) : Nat → Nat → Nat
  | 0, _ => 0
  | fuel + 1, seg => if seg = 0 then 0 else s.countSegments d fuel (s.viewNat d (seg + 0xF80) 8) + 1

/-- A store to SEGPOOL: the list that it names is counted. -/
def State.writeSegpool (s : State) (d v : Nat) : State :=
  let h := fld v 12 40 * 2 ^ 12
  let n := s.countSegments d (s.deviceBytes / 4096) h
  s.modDie d fun x => { x with segpool := BitVec.ofNat 64 h, segfree := word n }

/-- A store to XINV (R239, R240): MODE 3 has no effect. -/
def State.writeXinv (s : State) (d v : Nat) : State :=
  match fld v 0 2 with
  | 0 => s.queueInval d (.page (fld v 16 16) (s.die d).xinva.toNat)
  | 1 => s.queueInval d (.asid (fld v 16 16))
  | 2 => s.queueInval d .all
  | _ => s

/-- A store that is held: to XINV while 16 invalidations are queued (R240). -/
def State.controlHeld (s : State) (pa v : Nat) : Bool :=
  match controlPlace pa with
  | .die d off => off == 0x008 && fld v 0 2 != 3 && 16 ≤ (s.die d).invals.length && (s.kindOf d == .shading || s.kindOf d == .geometry)
  | .weir _ | .link _ | .none => false

/-- A store to a register of a shading or geometry die. -/
def State.writeDie (s : State) (d off v : Nat) : State :=
  let keep (lo len : Nat) : Word64 := BitVec.ofNat 64 (fld v lo len * 2 ^ lo)
  if off = 0x000 then s.modDie d fun x => { x with xinva := keep 16 41 }
  else if off = 0x008 then s.writeXinv d v
  else if off = 0x018 then s.modDie d fun x => { x with fqbase := keep 12 40 }
  else if off = 0x020 then s.writeFqcfg d v
  else if off = 0x030 then s.modDie d fun x => { x with fqhead := BitVec.ofNat 64 v }
  else if off = 0x100 then s.writeQtbase d v
  else if off = 0x108 then s.modDie d fun x => { x with ctxbase := keep 13 39 }
  else if off = 0x110 then s.writeSegpool d v
  else if off = 0x120 then s.writeCoreen d false (BitVec.ofNat 64 v)
  else if off = 0x128 then s.writeCoreen d true (BitVec.ofNat 64 v)
  else if off = 0x130 then s.modDie d fun x => { x with strmbase := keep 13 39 }
  else if off = 0x138 then s.writePreempt d v
  else if off = 0x150 then s.startFrame d v
  else if 0x200 ≤ off ∧ off < 0x400 then
    let k := (off - 0x200) / 2
    foldState (fun j s => s.modDie d fun x =>
      { x with tlOwner := x.tlOwner.put (k + j) (BitVec.ofNat 16 (fld v (16 * j) 16) &&& 0x80FF) }) (List.range 4) s
  else if 0x400 ≤ off ∧ off < 0xC00 then s.applySignal d ((off - 0x400) / 8) v
  else if 0xC00 ≤ off ∧ off < 0x1400 then
    s.modDie d fun x => { x with hostirq := x.hostirq.put ((off - 0xC00) / 8) (BitVec.ofNat 64 (fld v 0 11 + 2 ^ 63 * fld v 63 1)) }
  else s

/-- A store to a register of a Basin die (R351, R383). -/
def State.writeBasin (s : State) (rank off v : Nat) : State :=
  if off < 0x800 then s.setSem (256 * rank + off / 8) v
  else if 0x1000 ≤ off ∧ off < 0x1200 then
    let k := 16 * rank + (off - 0x1000) / 32
    let f := s.surfaces.get {} k
    let low : Word64 := BitVec.ofNat 64 (fld v 0 32)
    let f := match (off - 0x1000) % 32 / 8 with
      | 0 => { f with base := BitVec.ofNat 64 (fld v 0 1 + fld v 16 36 * 2 ^ 16) }
      | 1 => { f with ntile := low }
      | 2 => { f with pmeta := BitVec.ofNat 64 (fld v 8 44 * 2 ^ 8) }
      | _ => { f with clear := low }
    { s with surfaces := s.surfaces.put k f }
  else s

/-- A store to a register of the Weir (R393). -/
def State.writeWeir (s : State) (off v : Nat) : State :=
  if off = 0x088 then s.clearReason v
  else if off = 0x0A0 then s.writeSnapctl v
  else if off = 0x100 then s.postCommand v
  else if off = 0x108 then { s with weir := { s.weir with mbarg := BitVec.ofNat 64 v } }
  else if 0x1000 ≤ off then
    { s with weir := { s.weir with buf := (cellsOf (off - 0x1000) (leBytes v 8)).foldl (fun b c => Tab.putD b 0 c.1 c.2) s.weir.buf } }
  else s

/-- A store to a link register (R426). -/
def State.writeLink (s : State) (off v : Nat) : State :=
  let w := s.weir
  if off = 0x000 then { s with weir := { w with grpcfg := (w.grpcfg &&& 2) ||| (BitVec.ofNat 32 v &&& 0xFFFF3FFD) } }.resend
  else if 0x100 ≤ off ∧ off < 0x300 then
    let x : Word64 := BitVec.ofNat 64 (fld v 12 46 * 2 ^ 12 + fld v 63 1 * 2 ^ 63)
    { s with weir := { w with devtab := w.devtab.put ((off - 0x100) / 8) x } }.resend
  else if 0x400 ≤ off ∧ off < 0x520 ∧ (off - 0x400) % 16 = 0 then
    let p := (off - 0x400) / 16
    { s with weir := { w with ports := w.ports.put p { w.ports.get {} p with enable := bit v 3 } } }
  else if off = 0x800 then { s with weir := { w with lto := word v } }
  else s

/-- The effect of an 8-byte store to control space. -/
def State.controlWrite (s : State) (pa v : Nat) : State :=
  match controlPlace pa with
  | .die d off =>
    match s.kindOf d with
    | .absent => s
    | .basin => s.writeBasin (s.basinRank d) off v
    | .geometry | .shading => s.writeDie d off v
  | .weir off => s.writeWeir off v
  | .link off => s.writeLink off v
  | .none => s

/-- REGISTER_WRITE (R239): an 8-byte aligned store to control space. -/
def execRegisterWrite (pa : Nat) (v : BitVec 64) (s : State) : Host.Outcome State Fault Refusal :=
  .next (if s.regionOf pa = .control ∧ pa % 8 = 0 ∧ !s.controlHeld pa v.toNat then s.controlWrite pa v.toNat else s)

end Sys2Proof.Machine
end

