-- ==== Sys2Proof/Machine/LaneFloat.lean ====
section
/-! DEFINITION. FP32, packed and narrowing instructions and their C16 forms (R88 to R95, R86 FMOVI, R32). -/

namespace Sys2Proof.Machine

open Sys2Proof

/-- Operations on FP32 words (R88, R89, R91). -/
def fadd (rm : Rm) (a b : Word) : Word := word (fp32.add rm a.toNat b.toNat)
def fsub (rm : Rm) (a b : Word) : Word := word (fp32.sub rm a.toNat b.toNat)
def fmul (rm : Rm) (a b : Word) : Word := word (fp32.mul rm a.toNat b.toNat)
def ffma (rm : Rm) (a b c : Word) : Word := word (fp32.fma rm a.toNat b.toNat c.toNat)
def fmin (a b : Word) : Word := word (fp32.min a.toNat b.toNat)
def fmax (a b : Word) : Word := word (fp32.max a.toNat b.toNat)
def fcopysign (a b : Word) : Word := (a &&& 0x7FFFFFFF) ||| (b &&& 0x80000000)

/-- The low and the high element of a packed pair (R93). -/
def lowHalf (a : Word) : Nat := fld a.toNat 0 16
def highHalf (a : Word) : Nat := fld a.toNat 16 16

/-- An operation on each element of packed pairs (R93). -/
def half2 (f : Nat → Nat → Nat) (a b : Word) : Word := word (f (lowHalf a) (lowHalf b) + f (highHalf a) (highHalf b) * 2 ^ 16)
def half3 (f : Nat → Nat → Nat → Nat) (a b c : Word) : Word :=
  word (f (lowHalf a) (lowHalf b) (lowHalf c) + f (highHalf a) (highHalf b) (highHalf c) * 2 ^ 16)

/-- One byte of BMIX's result (R95): the selector byte, and the eight source bytes as a number. -/
def mixByte (sel src : Nat) : Nat :=
  let b := fld src (8 * fld sel 0 3) 8
  match fld sel 3 2 with
  | 0 => b
  | 1 => 0
  | 2 => if bit b 7 then 0xFF else 0
  | _ => (List.range 8).foldl (fun n k => n + ofBool (bit b k) * 2 ^ (7 - k)) 0

/-- BMIX (R95). -/
def bmix (a b sel : Word) : Word :=
  let src := a.toNat + b.toNat * 2 ^ 32
  word ((List.range 4).foldl (fun n k => n + mixByte (fld sel.toNat (8 * k) 8) src * 2 ^ (8 * k)) 0)

/-- The two BF16 values of a word, and the FP32 value of a word, as PACK reads them (R94). -/
def bf16Pair (a : Word) : List FVal := [bf16.dec (lowHalf a), bf16.dec (highHalf a)]
def f32Value (a : Word) : FVal := fp32.dec a.toNat

/-- FADD (R88). -/
def execFadd (d : Code) (a : Code) (b : Code) (s : State) : Host.Outcome State Fault Refusal :=
  .next (laneRound (.fadd d a b) d a b Machine.fadd s)

/-- FSUB (R88). -/
def execFsub (d : Code) (a : Code) (b : Code) (s : State) : Host.Outcome State Fault Refusal :=
  .next (laneRound (.fsub d a b) d a b Machine.fsub s)

/-- FMUL (R88). -/
def execFmul (d : Code) (a : Code) (b : Code) (s : State) : Host.Outcome State Fault Refusal :=
  .next (laneRound (.fmul d a b) d a b Machine.fmul s)

/-- FFMA (R88). -/
def execFfma (d : Code) (a : Code) (b : Code) (s : State) : Host.Outcome State Fault Refusal :=
  .next (laneAdd (.ffma d a b) d a b Machine.ffma s)

/-- FMIN (R89). -/
def execFmin (d : Code) (a : Code) (b : Code) (s : State) : Host.Outcome State Fault Refusal :=
  .next (laneBin (.fmin d a b) d a b Machine.fmin s)

/-- FMAX (R89). -/
def execFmax (d : Code) (a : Code) (b : Code) (s : State) : Host.Outcome State Fault Refusal :=
  .next (laneBin (.fmax d a b) d a b Machine.fmax s)

/-- FCMP_EQ (R90). -/
def execFcmpEq (m : PredNo) (a : Code) (b : Code) (s : State) : Host.Outcome State Fault Refusal :=
  .next (compareOp (.fcmpEq m a b) m a b Machine.fcmpEq s)

/-- FCMP_LT (R90). -/
def execFcmpLt (m : PredNo) (a : Code) (b : Code) (s : State) : Host.Outcome State Fault Refusal :=
  .next (compareOp (.fcmpLt m a b) m a b Machine.fcmpLt s)

/-- FCMP_LE (R90). -/
def execFcmpLe (m : PredNo) (a : Code) (b : Code) (s : State) : Host.Outcome State Fault Refusal :=
  .next (compareOp (.fcmpLe m a b) m a b Machine.fcmpLe s)

/-- FCMP_UN (R90). -/
def execFcmpUn (m : PredNo) (a : Code) (b : Code) (s : State) : Host.Outcome State Fault Refusal :=
  .next (compareOp (.fcmpUn m a b) m a b Machine.fcmpUn s)

/-- FCOPYSIGN (R91). -/
def execFcopysign (d : Code) (a : Code) (b : Code) (s : State) : Host.Outcome State Fault Refusal :=
  .next (laneBin (.fcopysign d a b) d a b Machine.fcopysign s)

/-- FSCALE (R91). -/
def execFscale (d : Code) (a : Code) (b : Code) (s : State) : Host.Outcome State Fault Refusal :=
  .next (laneRound (.fscale d a b) d a b (fun rm a b => word (Sys2Proof.fscale rm a.toNat b.toInt)) s)

/-- FDOT2_BF16 (R92). -/
def execFdot2Bf16 (d : Code) (a : Code) (b : Code) (s : State) : Host.Outcome State Fault Refusal :=
  .next (laneAdd (.fdot2Bf16 d a b) d a b (fun rm a b c => word (dot bf16 2 rm a.toNat b.toNat c.toNat)) s)

/-- FDOT4_E4M3 (R92). -/
def execFdot4E4m3 (d : Code) (a : Code) (b : Code) (s : State) : Host.Outcome State Fault Refusal :=
  .next (laneAdd (.fdot4E4m3 d a b) d a b (fun rm a b c => word (dot e4m3 4 rm a.toNat b.toNat c.toNat)) s)

/-- FDOT4_E5M2 (R92). -/
def execFdot4E5m2 (d : Code) (a : Code) (b : Code) (s : State) : Host.Outcome State Fault Refusal :=
  .next (laneAdd (.fdot4E5m2 d a b) d a b (fun rm a b c => word (dot e5m2 4 rm a.toNat b.toNat c.toNat)) s)

/-- HADD2_BF16 (R93). -/
def execHadd2Bf16 (d : Code) (a : Code) (b : Code) (s : State) : Host.Outcome State Fault Refusal :=
  .next (laneRound (.hadd2Bf16 d a b) d a b (fun rm => half2 (bf16.add rm)) s)

/-- HMUL2_BF16 (R93). -/
def execHmul2Bf16 (d : Code) (a : Code) (b : Code) (s : State) : Host.Outcome State Fault Refusal :=
  .next (laneRound (.hmul2Bf16 d a b) d a b (fun rm => half2 (bf16.mul rm)) s)

/-- HFMA2_BF16 (R93). -/
def execHfma2Bf16 (d : Code) (a : Code) (b : Code) (s : State) : Host.Outcome State Fault Refusal :=
  .next (laneAdd (.hfma2Bf16 d a b) d a b (fun rm => half3 (bf16.fma rm)) s)

/-- HMIN2_BF16 (R93). -/
def execHmin2Bf16 (d : Code) (a : Code) (b : Code) (s : State) : Host.Outcome State Fault Refusal :=
  .next (laneBin (.hmin2Bf16 d a b) d a b (half2 bf16.min) s)

/-- HMAX2_BF16 (R93). -/
def execHmax2Bf16 (d : Code) (a : Code) (b : Code) (s : State) : Host.Outcome State Fault Refusal :=
  .next (laneBin (.hmax2Bf16 d a b) d a b (half2 bf16.max) s)

/-- HADD2_F16 (R93). -/
def execHadd2F16 (d : Code) (a : Code) (b : Code) (s : State) : Host.Outcome State Fault Refusal :=
  .next (laneRound (.hadd2F16 d a b) d a b (fun rm => half2 (fp16.add rm)) s)

/-- HMUL2_F16 (R93). -/
def execHmul2F16 (d : Code) (a : Code) (b : Code) (s : State) : Host.Outcome State Fault Refusal :=
  .next (laneRound (.hmul2F16 d a b) d a b (fun rm => half2 (fp16.mul rm)) s)

/-- HFMA2_F16 (R93). -/
def execHfma2F16 (d : Code) (a : Code) (b : Code) (s : State) : Host.Outcome State Fault Refusal :=
  .next (laneAdd (.hfma2F16 d a b) d a b (fun rm => half3 (fp16.fma rm)) s)

/-- HMIN2_F16 (R93). -/
def execHmin2F16 (d : Code) (a : Code) (b : Code) (s : State) : Host.Outcome State Fault Refusal :=
  .next (laneBin (.hmin2F16 d a b) d a b (half2 fp16.min) s)

/-- HMAX2_F16 (R93). -/
def execHmax2F16 (d : Code) (a : Code) (b : Code) (s : State) : Host.Outcome State Fault Refusal :=
  .next (laneBin (.hmax2F16 d a b) d a b (half2 fp16.max) s)

/-- PACK2_BF16 (R94). -/
def execPack2Bf16 (d : Code) (a : Code) (b : Code) (s : State) : Host.Outcome State Fault Refusal :=
  .next (laneNarrow (.pack2Bf16 d a b) d bf16 (fun s p => [f32Value (s.src p [] a), f32Value (s.src p [a] b)]) s)

/-- PACK2_F16 (R94). -/
def execPack2F16 (d : Code) (a : Code) (b : Code) (s : State) : Host.Outcome State Fault Refusal :=
  .next (laneNarrow (.pack2F16 d a b) d fp16 (fun s p => [f32Value (s.src p [] a), f32Value (s.src p [a] b)]) s)

/-- PACK4_E4M3 (R94). -/
def execPack4E4m3 (d : Code) (a : Code) (b : Code) (s : State) : Host.Outcome State Fault Refusal :=
  .next (laneNarrow (.pack4E4m3 d a b) d e4m3 (fun s p => bf16Pair (s.src p [] a) ++ bf16Pair (s.src p [a] b)) s)

/-- PACK4_E5M2 (R94). -/
def execPack4E5m2 (d : Code) (a : Code) (b : Code) (s : State) : Host.Outcome State Fault Refusal :=
  .next (laneNarrow (.pack4E5m2 d a b) d e5m2 (fun s p => bf16Pair (s.src p [] a) ++ bf16Pair (s.src p [a] b)) s)

/-- BMIX (R95). -/
def execBmix (d : Code) (a : Code) (b : Code) (s : State) : Host.Outcome State Fault Refusal :=
  .next (laneOp (.bmix d a b) d (fun s p => Machine.bmix (s.src p [] a) (s.src p [a] b) (s.src p [a, b] s.cur.vp.c)) s)

/-- FMOVI (R86). -/
def execFmovi (d : Code) (i : BitVec 16) (s : State) : Host.Outcome State Fault Refusal :=
  .next (laneOp (.fmovi d i) d (fun _ _ => word (decodeTo fp32 (bf16.dec i.toNat))) s)

/-- C16_FADD (R32). -/
def execC16Fadd (d : BitVec 6) (x : BitVec 5) (s : State) : Host.Outcome State Fault Refusal :=
  .next (laneC16 (.c16Fadd d x) d x true Machine.fadd s)

/-- C16_FSUB (R32). -/
def execC16Fsub (d : BitVec 6) (x : BitVec 5) (s : State) : Host.Outcome State Fault Refusal :=
  .next (laneC16 (.c16Fsub d x) d x true Machine.fsub s)

/-- C16_FMUL (R32). -/
def execC16Fmul (d : BitVec 6) (x : BitVec 5) (s : State) : Host.Outcome State Fault Refusal :=
  .next (laneC16 (.c16Fmul d x) d x true Machine.fmul s)

/-- C16_FMAX (R32). -/
def execC16Fmax (d : BitVec 6) (x : BitVec 5) (s : State) : Host.Outcome State Fault Refusal :=
  .next (laneC16 (.c16Fmax d x) d x true (fun _ => Machine.fmax) s)

/-- C16_FMIN (R32). -/
def execC16Fmin (d : BitVec 6) (x : BitVec 5) (s : State) : Host.Outcome State Fault Refusal :=
  .next (laneC16 (.c16Fmin d x) d x true (fun _ => Machine.fmin) s)

end Sys2Proof.Machine
end

