-- ==== Sys2Proof/Machine/CrossLane.lean ====
section
/-! DEFINITION. Cross-lane instructions: lane exchanges, votes, reductions, scans and BCAST (R143 to R146, R76, R77). -/

namespace Sys2Proof.Machine

open Sys2Proof

/-- A cross-lane instruction: the members that raise nothing are the contributors, and each receives a value (R143). -/
def crossOp (i : Instr) (d : Code) (f : State → List Nat → Nat → Word) (s : State) : State :=
  s.runUnit i 0 (reading i (allDone fun s ps => s.writeEach ps d (f s ps)))

/-- The source position of a lane exchange: width, position, B (R144). -/
def pickPos (w _p : Nat) (b : Word) : Option Nat := some (b.toNat % w)
def mirrorPos (w p : Nat) (b : Word) : Option Nat := some (p ^^^ (b.toNat % w))
def rotPos (w p : Nat) (b : Word) : Option Nat := some (((p : Int) + b.toInt) % (w : Int)).toNat
def slidePos (w p : Nat) (b : Word) : Option Nat :=
  let q : Int := (p : Int) + b.toInt
  if 0 ≤ q ∧ q < w then some q.toNat else none

/-- A lane exchange (R144). -/
def exchange (i : Instr) (d a b : Code) (pos : Nat → Nat → Word → Option Nat) (s : State) : State :=
  crossOp i d (fun s ps p =>
    match pos s.me.width p (s.src p [a] b) with
    | some q => if ps.contains q then s.src q [] a else s.src p [] a
    | none => s.src p [] a) s

/-- LX.PICK (R144). -/
def execLxPick (d a b : Code) (s : State) : Host.Outcome State Fault Refusal := .next (exchange (.lxPick d a b) d a b pickPos s)

/-- LX.MIRROR (R144). -/
def execLxMirror (d a b : Code) (s : State) : Host.Outcome State Fault Refusal := .next (exchange (.lxMirror d a b) d a b mirrorPos s)

/-- LX.ROT (R144). -/
def execLxRot (d a b : Code) (s : State) : Host.Outcome State Fault Refusal := .next (exchange (.lxRot d a b) d a b rotPos s)

/-- LX.SLIDE (R144). -/
def execLxSlide (d a b : Code) (s : State) : Host.Outcome State Fault Refusal := .next (exchange (.lxSlide d a b) d a b slidePos s)

/-! ### Votes (R145) -/

/-- VOTE.ANY (R145). -/
def execVoteAny (d a : PredNo) (s : State) : Host.Outcome State Fault Refusal :=
  .next (s.runUnit (.voteAny d a) 0 (allDone fun s ps =>
    s.modWave s.cur.wave fun w => w.setPreds d (fun _ => ps.any fun p => (s.me.thread p).pred a) ps))

/-- VOTE.ALL (R145). -/
def execVoteAll (d a : PredNo) (s : State) : Host.Outcome State Fault Refusal :=
  .next (s.runUnit (.voteAll d a) 0 (allDone fun s ps =>
    s.modWave s.cur.wave fun w => w.setPreds d (fun _ => ps.all fun p => (s.me.thread p).pred a) ps))

/-- The mask with bit p for each of some positions. -/
def maskOf : List Nat → Word64
  | [] => 0
  | p :: t => (1#64 <<< p) ||| maskOf t

/-- BALLOT (R145). -/
def execBallot (d : Code) (a : PredNo) (s : State) : Host.Outcome State Fault Refusal :=
  .next (s.runUnit (.ballot d a) 0 (allDone fun s ps =>
    s.writeEach64 ps d fun _ => maskOf (ps.filter fun p => (s.me.thread p).pred a)))

/-! ### Reductions (R76, R77, R146) -/

/-- One level of the tree: neighbours combine. -/
def pairUp (f : Word → Word → Word) : List Word → List Word
  | a :: b :: t => f a b :: pairUp f t
  | l => l

/-- The levels of the tree, `fuel` of them. -/
def reduceTree (f : Word → Word → Word) : Nat → List Word → Word
  | 0, l => l.headD 0
  | fuel + 1, l => reduceTree f fuel (pairUp f l)

/-- The steps of the scan, from distance `d` on. What stands at a position below the distance stays as it is, so that a NaN at position 0 of SCAN.FADD keeps
its bits: R77's pseudocode leaves it, and its text has NaN results canonical (log 57). -/
def scanTree (f : Word → Word → Word) : Nat → Nat → List Word → List Word
  | 0, _, l => l
  | fuel + 1, d, l => scanTree f fuel (2 * d) (l.take d ++ List.zipWith f l (l.drop d))

/-- The values of all positions of the wave: a contributor's A, or the identity (R76). -/
def State.laneValues (s : State) (ps : List Nat) (a : Code) (identity : Word) : List Word :=
  (List.range s.me.width).map fun p => if ps.contains p then s.src p [] a else identity

/-- A reduction (R146). -/
def reduce (i : Instr) (d a : Code) (identity : Word) (f : Word → Word → Word) (s : State) : State :=
  crossOp i d (fun s ps _ => reduceTree f 6 (s.laneValues ps a identity)) s

/-- A scan (R146). -/
def scan (i : Instr) (d a : Code) (identity : Word) (f : Word → Word → Word) (s : State) : State :=
  crossOp i d (fun s ps p => (scanTree f 6 1 (s.laneValues ps a identity)).getD p 0) s

/-- REDUCE.IADD (R146). -/
def execReduceIadd (d a : Code) (s : State) : Host.Outcome State Fault Refusal :=
  .next (reduce (.reduceIadd d a) d a 0 (fun x y => x + y) s)

/-- REDUCE.FADD (R146). -/
def execReduceFadd (d a : Code) (s : State) : Host.Outcome State Fault Refusal :=
  .next (reduce (.reduceFadd d a) d a 0x80000000 (fadd .rne) s)

/-- REDUCE.FMIN (R146). -/
def execReduceFmin (d a : Code) (s : State) : Host.Outcome State Fault Refusal :=
  .next (reduce (.reduceFmin d a) d a 0x7F800000 fmin s)

/-- REDUCE.FMAX (R146). -/
def execReduceFmax (d a : Code) (s : State) : Host.Outcome State Fault Refusal :=
  .next (reduce (.reduceFmax d a) d a 0xFF800000 fmax s)

/-- REDUCE.UMIN (R146). -/
def execReduceUmin (d a : Code) (s : State) : Host.Outcome State Fault Refusal :=
  .next (reduce (.reduceUmin d a) d a 0xFFFFFFFF (fun x y => if icmpLeu x y then x else y) s)

/-- REDUCE.UMAX (R146). -/
def execReduceUmax (d a : Code) (s : State) : Host.Outcome State Fault Refusal :=
  .next (reduce (.reduceUmax d a) d a 0 (fun x y => if icmpLeu x y then y else x) s)

/-- REDUCE.AND (R146). -/
def execReduceAnd (d a : Code) (s : State) : Host.Outcome State Fault Refusal :=
  .next (reduce (.reduceAnd d a) d a 0xFFFFFFFF (fun x y => x &&& y) s)

/-- REDUCE.OR (R146). -/
def execReduceOr (d a : Code) (s : State) : Host.Outcome State Fault Refusal :=
  .next (reduce (.reduceOr d a) d a 0 (fun x y => x ||| y) s)

/-- REDUCE.XOR (R146). -/
def execReduceXor (d a : Code) (s : State) : Host.Outcome State Fault Refusal :=
  .next (reduce (.reduceXor d a) d a 0 (fun x y => x ^^^ y) s)

/-- SCAN.IADD (R146). -/
def execScanIadd (d a : Code) (s : State) : Host.Outcome State Fault Refusal :=
  .next (scan (.scanIadd d a) d a 0 (fun x y => x + y) s)

/-- SCAN.FADD (R146). -/
def execScanFadd (d a : Code) (s : State) : Host.Outcome State Fault Refusal :=
  .next (scan (.scanFadd d a) d a 0x80000000 (fadd .rne) s)

/-- BCAST (R146). -/
def execBcast (d a : Code) (s : State) : Host.Outcome State Fault Refusal :=
  .next (crossOp (.bcast d a) d (fun s ps _ =>
    match ps with
    | p :: _ => s.src p [] a
    | [] => 0) s)

end Sys2Proof.Machine
end

