-- ==== Sys2Proof/Machine/LaneMem.lean ====
section
/-! DEFINITION. The memory instructions (R103 to R118): the check of an access, what it acts on, loads, stores, atomics and FENCE. -/

namespace Sys2Proof.Machine

open Sys2Proof

/-! ### The memory prefix (R36, R37, R355, R356) -/

/-- The unit's access is at SYS scope. -/
def State.atSys (s : State) : Bool := s.cur.mp.scope == 4

/-- It acquires, releases, or is sequentially consistent, at SYS. -/
def State.acquires (s : State) : Bool := s.atSys && (s.cur.mp.ord == 1 || s.cur.mp.ord == 3 || s.cur.mp.sc)
def State.releases (s : State) : Bool := s.atSys && (s.cur.mp.ord == 2 || s.cur.mp.ord == 3 || s.cur.mp.sc)
def State.isSc (s : State) : Bool := s.atSys && s.cur.mp.sc

/-- An acquire takes effect, when the unit's access is one. -/
def State.afterLoad (s : State) (acquire : Bool) (d : Nat) : State := if acquire then s.acquireSys d else s

/-- The agent of a member of the issuing wave. -/
def State.agent (s : State) (p : Nat) : Nat := agentOf s.me.uid p

/-! ### Forms (R106, R110) -/

/-- A row of R106: its size, whether it extends by sign, its elements on a typed page with the register format (none: FMTMIX), and whether it
is raw (R71). -/
structure MemForm where
  size : Nat
  signed : Bool := false
  view : Option (Fmt × Nat) := none
  raw : Bool := false

def formB : MemForm := { size := 1 }
def formBs : MemForm := { size := 1, signed := true }
def formH : MemForm := { size := 2, view := some (bf16, 1) }
def formHs : MemForm := { size := 2, signed := true }
def formW : MemForm := { size := 4, view := some (fp32, 1) }
def formD : MemForm := { size := 8, view := some (fp32, 2) }
def formQ : MemForm := { size := 16, view := some (fp32, 4) }
def formRaw : MemForm := { size := 4, raw := true }

/-- The register words that loaded bytes become. -/
def MemForm.words (f : MemForm) (bs : List Byte) : List Word :=
  if f.size < 4 then
    let n := leNat bs
    [word (if f.signed ∧ bit n (8 * f.size - 1) then n + (2 ^ 32 - 2 ^ (8 * f.size)) else n)]
  else (List.range (f.size / 4)).map fun k => word (field bs (4 * k) 4)

/-- EffAddr of R103. -/
def State.effAddr (s : State) (f : MemForm) (p : Nat) (a : Code) (off : BitVec 8) : Nat :=
  (s.src64 p a + off.signExtend 64 * BitVec.ofNat 64 f.size).toNat

/-! ### What an access acts on -/

/-- Where a checked access acts: a control register; stored bytes in device memory; the decoded bytes of a tile; bytes outside the module; or
`n` elements from position `pos` of the units that stand at `pa` in `len` bytes. -/
inductive Spot where
  | control (pa : Nat)
  | stored (pa : Nat)
  | tile (pa : Nat)
  | outside (pa : Nat)
  | elements (fmt : Nat) (u : Units) (pa len pos n : Nat)
  deriving DecidableEq, Repr

/-- What an aligned access of a form acts on through a leaf, or its cause: PROT in control space (R239), and in the host window where it is denied there
(R429), or FMTMIX (R67 to R71). -/
def MemForm.spot (f : MemForm) (denied : Bool) (e level pa va : Nat) : Except Cause Spot :=
  if controlFrame e then (if f.size = 8 ∧ !f.raw then .ok (.control pa) else .error .prot)
  else if denied && decide (2 ^ 51 ≤ pa) && decide (pa < 2 ^ 60) then .error .prot
  else if 15 ≤ pteFmt e then .error .fmtmix
  else if f.raw ∨ pteFmt e = 0 then
    .ok (if pteRgn e ∧ !f.raw then .tile pa else if 2 ^ 51 ≤ pa then .outside pa else .stored pa)
  else
    match f.view, unitsOf (pteFmt e) with
    | some (v, n), some u =>
      let i := firstIndex u e level va (v.width / 8)
      if u.capacity (frameSize level) < i + n then .error .fmtmix
      else
        let (at_, pos) := unitAt u e i
        .ok (.elements (pteFmt e) u at_ (if u.count = 1 then n * u.bytes else u.bytes) pos n)
    | _, _ => .error .fmtmix

/-- An access at an address: alignment, translation, permission and page format, in that order (R45, R46). -/
def State.access (s : State) (f : MemForm) (write : Bool) (kind : AccKind) (va : Nat) (denied : Bool := false) : Except Raised Spot × State :=
  if va % f.size ≠ 0 then (.error (s.trapAt .align (word va)), s)
  else
    match s.translate s.myDie s.me.space s.me.priv write va s.myCore with
    | (.error r, s) => (.error (s.refusal kind r), s)
    | (.ok (pa, e, l), s) =>
      match f.spot denied e l pa va with
      | .error c => (.error (s.trapAt c (word va)), s)
      | .ok x => (.ok x, s)

/-- The first poisoned 16-byte unit that a read at a spot meets (R247, R434). -/
def State.spotPoison (s : State) (d size : Nat) : Spot → Option Nat
  | .control _ => none
  | .stored pa | .outside pa => s.poisonIn d pa size
  | .tile pa => if (s.tileOf d pa).2.getD (pa % 256 / 16) false then some pa else none
  | .elements _ _ pa len _ _ => s.poisonIn d pa len

/-- Region ownership follows an access at a spot inside the module (R349, R384), and the single-bit errors that it meets are corrected (R246). -/
def State.touchSpot (s : State) (d : Nat) : Spot → State
  | .control _ => s
  | .stored pa => s.touchRgn d pa false
  | .tile pa => s.touchRgn d pa true
  | .outside pa => s.meetLine d pa
  | .elements _ _ pa len _ _ => (if 2 ^ 51 ≤ pa then s.meetLine d pa else s.touchRgn d pa false).meetLine d (pa + len - 1)

/-- The elements of some units' bytes as register words (R69). -/
def elementWords (u : Units) (bs : List Byte) (pos n : Nat) (toBf16 : Bool) : List Word :=
  (List.range n).map fun k =>
    word (decodeTo (if toBf16 then bf16 else fp32)
      (if u.count = 1 then u.element (field bs (k * u.bytes) u.bytes) 0 else u.element (leNat bs) (pos + k)))

/-- The register words that a load at a spot inside the module obtains (R106). -/
def State.loadSpot (s : State) (f : MemForm) (d : Nat) : Spot → List Word
  | .control pa => f.words (leBytes (s.controlRead pa) 8)
  | .stored pa | .outside pa => f.words (s.viewBytes d pa f.size)
  | .tile pa => f.words (slice (s.tileOf d pa).1 (pa % 256) f.size)
  | .elements _ u pa len pos n => elementWords u (s.viewBytes d pa len) pos n (f.size == 2)

/-! ### Accesses that leave the module (R428, R429) -/

/-- The access of a load at an outside spot: its address, size and format. -/
def MemForm.outAccess (f : MemForm) (o : OutAccess) : Spot → Option OutAccess
  | .outside pa => some { o with addr := pa, size := f.size, signExt := f.signed }
  | .elements fmt _ pa len pos n =>
    if 2 ^ 51 ≤ pa then some { o with addr := pa, size := len, typed := some (fmt, pos, n, f.size == 2) } else none
  | .control _ | .stored _ | .tile _ => none

/-- An access of the issuing wave leaves the module; the wave waits for it. -/
def State.sendOut (s : State) (o : OutAccess) : State :=
  let s := s.sendOutFor { o with acquire := s.acquires }
  { s with cur := { s.cur with away := true } }

/-- The register words that the bytes of an outside load become. -/
def OutAccess.words (o : OutAccess) (data : List Byte) : List Word :=
  match o.typed with
  | some (fmt, pos, n, h) =>
    match unitsOf fmt with
    | some u => elementWords u data pos n h
    | none => []
  | none => MemForm.words { size := o.size, signed := o.signExt } data

/-- What an outside load obtains: the bytes that have arrived, under the stores of its die that had not reached their home at its issue (R245, R250). -/
def OutAccess.under (o : OutAccess) (data : List Byte) : List Byte := (cellsOf o.addr (slice data 0 o.size)).map fun c => (o.own.find c.1).getD c.2

/-- What a thread receives of an access's data: a load's words, or an atomic's old value plus what the thread adds to it. -/
def OutAccess.value (o : OutAccess) (data : List Byte) (add : Word64) : List Word :=
  match o.op with
  | .load => o.words data
  | .atomic _ _ _ | .swap _ _ =>
    let x := BitVec.ofNat (8 * o.size) (leNat data + add.toNat)
    (List.range (o.size / 4)).map fun k => word (x.toNat / 2 ^ (32 * k))

/-- The threads that wait for an access receive their values. -/
def State.receive (s : State) (o : OutAccess) (data : List Byte) : State :=
  foldState (fun t s =>
    if (s.wave o.wave).uid = o.uid ∧ t.2.1 ≠ 0xFC then s.modWave o.wave fun w => w.putWords t.1 t.2.1 (o.value data t.2.2) else s) o.dests s

/-- The unit that a wave waits in obtains bytes, or learns that it obtains none. -/
def State.answer (s : State) (o : OutAccess) (data : Option (List Byte)) : State :=
  s.modWave o.wave fun w => if w.uid = o.uid then { w with answers := w.answers.put o.addr data } else w

/-- The answer to another device's access of the host window (R429). -/
def State.respond (s : State) (dev tag pa : Nat) (data : List Byte) : State := s.sendTo { dev := dev, pa := pa, pkt := .readResp dev tag data }

/-- What the host receives. -/
def State.hostAnswer (s : State) (data : List Byte) : State := { s with hostReads := s.hostReads ++ [data] }

/-- The data of an outside access arrive (R429, R430): each waiting thread receives its value, and a decrement is followed by what it brings about. -/
def State.completeOut (s : State) (n : Nat) (data : List Byte) : State :=
  match s.outs.find n with
  | none => s
  | some o =>
    let s := { s with outs := s.outs.del n }
    let data := o.under data
    match o.to_ with
    | .threads => (s.receive o data).afterLoad o.acquire o.die
    | .join x _ => ((s.afterLoad o.acquire o.die).finishJoin x data).joinReturned x
    | .request _ _ _ _ => s
    | .unit => s.answer o (some data)
    | .block own => s.blockAnswer o own data
    | .device src tag => s.respond src tag o.addr data
    | .host => s.hostAnswer data

/-- An outside access returns poisoned data, or is abandoned (R430): each waiting thread raises POISON, another device has a poisoned answer, and the host
none. The store that exchanges a block is abandoned as a store is. -/
def State.abandonOut (s : State) (n : Nat) : State :=
  match s.outs.find n with
  | none => s
  | some o =>
    let t := { s with outs := s.outs.del n }
    let trapped : State :=
      if (t.wave o.wave).uid = o.uid then t.deliverAll o.wave (o.dests.map fun x => (x.1, .trap .poison o.tpc (word o.va))) else t
    match o.to_ with
    | .threads | .request _ _ _ _ => trapped
    | .join x _ => trapped.joinReturned x
    | .unit => t.answer o none
    | .block _ => s
    | .device src tag => t.respond src tag o.addr []
    | .host => t.hostAnswer []

/-! ### Loads -/

/-- A plain load that has taken its value at a place in device memory is listed: it may stay open (R353 point 5). -/
def State.listLoad (s : State) (f : MemForm) (p : Nat) (dst : Code) : Spot → State
  | .stored pa =>
    if pa < 2 ^ 40 && !s.acquires && dst != 0xFC then
      let x : Delayed :=
        { die := s.myDie, wave := s.cur.wave, uid := s.me.uid, pos := p, code := dst, pa := pa, size := f.size, signExt := f.signed }
      { s with cur := { s.cur with loads := s.cur.loads ++ [x] } }
    else s
  | .control _ | .tile _ | .outside _ | .elements _ _ _ _ _ _ => s

/-- A host-window store of an agent that the host has not accepted (R429). -/
def PendStore.toHost (e : PendStore) (agent : Nat) : Bool := e.agent == agent && decide (2 ^ 51 ≤ e.pa) && decide (e.pa < 2 ^ 60)

/-- A member's load waits: a sequentially consistent one for the thread's earlier stores (R356), one of the host window for those of them to the host
(R429), and one outside the module for a block there that a store of the die changes (R70). -/
def State.loadWaits (s : State) (p : Nat) (o : Option OutAccess) : Bool :=
  let pend := (s.die s.myDie).pend
  (s.isSc && s.heldBack s.myDie [s.agent p] [])
    || o.any fun o => pend.any fun e =>
      (decide (o.addr < 2 ^ 60) && e.toHost (s.agent p)) || (e.redo.isSome && rangesMeet o.addr o.size e.pa e.data.length)

/-- A sequentially consistent access follows the stores of its thread, which are then visible at SYS scope (R356). -/
def State.afterOwn (s : State) (p : Nat) : State :=
  if s.isSc then (s.flushBefore s.myDie [s.agent p] []).raiseOwn (s.agent p) else s

/-- A load of bytes outside the module that the unit waits for in place: the state it leaves once they are there, or POISON (R430). -/
def State.loadHere (s : State) (o : OutAccess) (lead : Bool) (p : Nat) (dst : Code) : Except Raised State :=
  match s.me.answers.find o.addr with
  | none => .ok (s.needs ⟨o.va, o.addr, o.size⟩)
  | some none => .error (s.trapAt .poison (word o.va))
  | some (some data) => .ok ((s.writeLeads lead p dst (o.words data)).afterLoad s.acquires s.myDie)

/-- One member's load at an address whose own register has no late cause; with `here`, the unit waits in place for bytes from outside. -/
def State.loadAt (s : State) (f : MemForm) (lead : Bool) (p : Nat) (dst : Code) (va : Nat) (here : Bool := false) : Except Raised State :=
  let d := s.myDie
  match s.access f false .read va with
  | (.error r, _) => .error r
  | (.ok x, s) =>
    let s := s.touchSpot d x
    let o := f.outAccess { s.myAccess va 0 0 with dests := [(p, leadDest lead dst, 0)] } x
    if s.cur.blocked then .ok s
    else if s.loadWaits p o then .ok s.block
    else
      let s := s.afterOwn p
      match s.spotPoison d f.size x, o with
      | some pa, _ => .error (s.trapAt .poison (lineTval pa))
      | none, some o => if here then s.loadHere o lead p dst else .ok (s.sendOut o)
      | none, none => .ok (((s.writeLeads lead p dst (s.loadSpot f d x)).afterLoad s.acquires d).listLoad f p (leadDest lead dst) x)

/-- One member's load (R103, R107). -/
def loadMember (f : MemForm) (dst a : Code) (off : BitVec 8) (lead : Bool) (s : State) (p : Nat) : Except Raised State :=
  match s.lateFault p (pairCodes a) with
  | some r => .error r
  | none => s.loadAt f lead p dst (s.effAddr f p a off)

/-- A load. -/
def loadOp (i : Instr) (f : MemForm) (dst a : Code) (off : BitVec 8) (s : State) : State := s.runUnit i 0 (inTurn (loadMember f dst a off))

/-- LD.B (R106). -/
def execLdB (d a : Code) (o : BitVec 8) (s : State) : Host.Outcome State Fault Refusal := .next (loadOp (.ldB d a o) formB d a o s)
/-- LD.BS (R106). -/
def execLdBs (d a : Code) (o : BitVec 8) (s : State) : Host.Outcome State Fault Refusal := .next (loadOp (.ldBs d a o) formBs d a o s)
/-- LD.H (R106). -/
def execLdH (d a : Code) (o : BitVec 8) (s : State) : Host.Outcome State Fault Refusal := .next (loadOp (.ldH d a o) formH d a o s)
/-- LD.HS (R106). -/
def execLdHs (d a : Code) (o : BitVec 8) (s : State) : Host.Outcome State Fault Refusal := .next (loadOp (.ldHs d a o) formHs d a o s)
/-- LD.W (R106). -/
def execLdW (d a : Code) (o : BitVec 8) (s : State) : Host.Outcome State Fault Refusal := .next (loadOp (.ldW d a o) formW d a o s)
/-- LD.D (R106). -/
def execLdD (d a : Code) (o : BitVec 8) (s : State) : Host.Outcome State Fault Refusal := .next (loadOp (.ldD d a o) formD d a o s)
/-- LD.Q (R106). -/
def execLdQ (d a : Code) (o : BitVec 8) (s : State) : Host.Outcome State Fault Refusal := .next (loadOp (.ldQ d a o) formQ d a o s)
/-- LDRAW.W (R110). -/
def execLdrawW (d a : Code) (o : BitVec 8) (s : State) : Host.Outcome State Fault Refusal :=
  .next (loadOp (.ldrawW d a o) formRaw d a o s)

/-- The raw read of LDC at an address, for window offset x: PROT names the offset. A window need not begin at a multiple of 4, so a word may reach into
the next page (R109, R118). -/
def State.constAt (s : State) (lead : Bool) (p : Nat) (dst : Code) (va x : Nat) : Except Raised State :=
  match s.translateRange s.myDie s.me.space (fun e => readable s.me.priv e && notControl e) va 4 s.myCore with
  | (.error (.prot _), s) => .error (s.trapAt .prot (word x))
  | (.error r, s) => .error (s.refusal .read r)
  | (.ok m, s) =>
    if m.any fun y => 15 ≤ pteFmt y.2.2 then .error (s.trapAt .fmtmix (word va))
    else
      match s.rangeRead (m.map fun y => (y.1, y.2.1, 0)) va 4 with
      | (.error w, s) => .error (s.trapAt .poison w)
      | (.ok none, s) => .ok s
      | (.ok (some bs), s) => .ok (s.writeLeads lead p dst (formRaw.words bs))

/-- One member's LDC (R109): the offset's own causes, then a raw read of the window. -/
def ldcMember (dst a : Code) (off : BitVec 8) (lead : Bool) (s : State) (p : Nat) : Except Raised State :=
  match s.lateFault p [a] with
  | some r => .error r
  | none =>
    let x := (s.src p [] a + off.signExtend 32 * 4).toNat
    if x % 4 ≠ 0 then .error (s.trapAt .align (word x))
    else if s.me.clen < x + 4 then .error (s.trapAt .prot (word x))
    else s.constAt lead p dst (s.me.constBase + x) x

/-- LDC (R109). -/
def execLdc (d a : Code) (o : BitVec 8) (s : State) : Host.Outcome State Fault Refusal :=
  .next (s.runUnit (.ldc d a o) 0 (inTurn (ldcMember d a o)))

/-! ### Stores -/

/-- The source codes of a store's data (R107). -/
def MemForm.dataCodes (f : MemForm) (d : Code) : List Code :=
  if f.size = 8 then pairCodes d else if f.size = 16 then [d, d + 1, d + 2, d + 3] else [d]

/-- The words of a store's data in one member; Z as a pair is 0. -/
def State.dataWords (s : State) (f : MemForm) (p : Nat) (d : Code) : List Word :=
  if f.size = 8 then let x := s.src64 p d; [x.extractLsb' 0 32, x.extractLsb' 32 32]
  else (f.dataCodes d).map (s.src p [])

/-- The bytes of a store's data on a plain page. -/
def MemForm.bytes (f : MemForm) (ws : List Word) : List Byte := slice (ws.flatMap fun w => leBytes w.toNat 4) 0 f.size

/-- A store of a member enters its die's order, as a release when the unit is one (R352, R355). A sequentially consistent one is waited for (R356). -/
def State.storeAs (s : State) (p va : Nat) (e : PendStore) : State :=
  let out : OutStore := { since := s.ref, va := va, asid := s.me.space.asid, queue := s.myLaunch.queue }
  let s := s.store s.myDie { e with agent := s.agent p, rel := s.releases, sc := s.isSc, out := some out }
  if s.isSc then { s with cur := { s.cur with away := true } } else s

/-- The encoded bytes of consecutive one-element units (R70). -/
def Units.encodeRun (u : Units) (vs : List FVal) : List Byte := vs.flatMap fun v => leBytes (u.encode 0 0 [v]) u.bytes

/-- A store to a control register follows the thread's earlier stores, and when it releases, all that its die has ordered (R353, R355). -/
def State.storeControl (s : State) (p pa : Nat) (data : List Byte) : State :=
  let d := s.myDie
  let follows := if s.releases then !s.canFlush d else s.heldBack d [s.agent p] []
  if follows || s.controlHeld pa (leNat data) then s.block
  else ((if s.releases then s.releaseSys d else s.flushBefore d [s.agent p] []).afterOwn p).controlWrite pa (leNat data)

/-- A member's store at a spot. One into a block of a typed page reads, re-encodes and writes the whole block as one access at its home; until then its die
sees the block as encoded over what it saw (R70). -/
def State.storeSpot (s : State) (f : MemForm) (p va : Nat) (ws : List Word) : Spot → State
  | .control pa => s.storeControl p pa (f.bytes ws)
  | .stored pa | .outside pa => s.storeAs p va { agent := 0, pa := pa, data := f.bytes ws }
  | .tile pa => s.storeAs p va { agent := 0, pa := pa, data := f.bytes ws, tile := true }
  | .elements fmt u pa len pos _ =>
    let h := f.size == 2
    if u.count = 1 then s.storeAs p va { agent := 0, pa := pa, data := Units.encodeRun u (storeValues h ws) }
    else
      let data := leBytes (u.encode (s.viewNat s.myDie pa len) pos (storeValues h ws)) len
      s.storeAs p va { agent := 0, pa := pa, data := data, redo := some (fmt, pos, h, ws) }

/-- One member's store (R103, R107). -/
def storeMember (f : MemForm) (data a : Code) (off : BitVec 8) (_lead : Bool) (s : State) (p : Nat) : Except Raised State :=
  match s.lateFault p (pairCodes a) with
  | some r => .error r
  | none =>
    let va := s.effAddr f p a off
    match s.access f true .write va with
    | (.error r, _) => .error r
    | (.ok x, s) =>
      match s.lateFault p (f.dataCodes data) with
      | some r => .error r
      | none =>
        let s := s.touchSpot s.myDie x
        .ok (if s.cur.blocked then s else s.storeSpot f p va (s.dataWords f p data) x)

/-- A store. -/
def storeOp (i : Instr) (f : MemForm) (data a : Code) (off : BitVec 8) (s : State) : State := s.runUnit i 0 (inTurn (storeMember f data a off))

/-- ST.B (R106). -/
def execStB (d a : Code) (o : BitVec 8) (s : State) : Host.Outcome State Fault Refusal := .next (storeOp (.stB d a o) formB d a o s)
/-- ST.H (R106). -/
def execStH (d a : Code) (o : BitVec 8) (s : State) : Host.Outcome State Fault Refusal := .next (storeOp (.stH d a o) formH d a o s)
/-- ST.W (R106). -/
def execStW (d a : Code) (o : BitVec 8) (s : State) : Host.Outcome State Fault Refusal := .next (storeOp (.stW d a o) formW d a o s)
/-- ST.D (R106). -/
def execStD (d a : Code) (o : BitVec 8) (s : State) : Host.Outcome State Fault Refusal := .next (storeOp (.stD d a o) formD d a o s)
/-- ST.Q (R106). -/
def execStQ (d a : Code) (o : BitVec 8) (s : State) : Host.Outcome State Fault Refusal := .next (storeOp (.stQ d a o) formQ d a o s)
/-- STRAW.W (R110). -/
def execStrawW (d a : Code) (o : BitVec 8) (s : State) : Host.Outcome State Fault Refusal :=
  .next (storeOp (.strawW d a o) formRaw d a o s)

/-! ### Atomics (R111 to R115) -/

/-- F of R112 on n-bit words, by the atomic's number MAJ − 0x60: the word that is stored, or none for a CAS that fails. -/
def atomicNew {n : Nat} (op : Nat) (old b c : BitVec n) : Option (BitVec n) :=
  match op with
  | 1 => some (if b.slt old then b else old)
  | 2 => some (if old.slt b then b else old)
  | 3 => some (if b.ult old then b else old)
  | 4 => some (if old.ult b then b else old)
  | 5 => some (old &&& b)
  | 6 => some (old ||| b)
  | 7 => some (old ^^^ b)
  | 8 => some b
  | 9 => if old = c then some b else none
  | 10 => some (BitVec.ofNat n (fp32.add .rne old.toNat b.toNat))
  | _ => some (old + b)

/-- The same on the location's number, by its width. -/
def atomicStore (op : Nat) (wide : Bool) (old : Nat) (b c : Word64) : Option Nat :=
  if wide then (atomicNew op (BitVec.ofNat 64 old) b c).map BitVec.toNat
  else (atomicNew op (word old) (b.setWidth 32) (c.setWidth 32)).map BitVec.toNat

/-- The place that an atomic acts on at its home, and whether that is a tile's decoded bytes. -/
def Spot.place : Spot → Nat × Bool
  | .tile pa => (pa, true)
  | .stored pa | .control pa | .outside pa | .elements _ _ pa _ _ _ => (pa, false)

/-- An atomic of an agent of die d at the home of its bytes (R357, R384): the old value, and the state after it. -/
def State.atomicHome (s : State) (d agent pa : Nat) (rgn : Bool) (op : Nat) (wide : Bool) (b c : Word64) : Nat × State :=
  let len := if wide then 8 else 4
  let (bs, s) := s.takeHome d agent pa rgn len
  match atomicStore op wide (leNat bs) b c with
  | some v => (leNat bs, s.putAtHome d agent pa rgn (leBytes v len))
  | none => (leNat bs, s)

/-- An atomic of a member at a spot inside the module, under the unit's order. -/
def State.atomicAt (s : State) (p : Nat) (op : Nat) (wide : Bool) (b c : Word64) (x : Spot) : Nat × State :=
  let d := s.myDie
  let s := if s.releases then s.releaseSys d else s
  let (old, s) := s.atomicHome d (s.agent p) x.place.1 x.place.2 op wide b c
  (old, (s.afterOwn p).afterLoad s.acquires d)

/-- What an atomic acts on: its page must be plain; control space raises PROT, and so does the host window for every operation but ADD, XCHG
and CAS (R111, R239, R429). -/
def State.atomicSpot (s : State) (op : Nat) (wide : Bool) (va : Nat) : Except Raised Spot × State :=
  match s.access { size := if wide then 8 else 4 } true .rmw va (!([0, 8, 9, 11].contains op)) with
  | (.error r, s) => (.error r, s)
  | (.ok (.control _), s) => (.error (s.trapAt .prot (word va)), s)
  | (.ok x, s) => (.ok x, s)

/-- An atomic of some members cannot follow yet what it must: the stores of its thread and those to its bytes, and when it releases, all that its die has
ordered (R353, R355, R357). -/
def State.atomicWaits (s : State) (p size : Nat) (x : Spot) : Bool :=
  if s.releases then !s.canFlush s.myDie else s.heldBack s.myDie [s.agent p] [spanOf x.place.1 x.place.2 size]

/-- The operand and the compare value of an atomic in one member. -/
def State.atomicArgs (s : State) (p : Nat) (b : Code) : Word64 × Word64 :=
  let c := s.cur.vp.c
  if s.cur.mp.wide then (s.src64 p b, if s.cur.vp.hasC then s.src64 p c else 0)
  else ((s.src p [] b).setWidth 64, if s.cur.vp.hasC then (s.src p [b] c).setWidth 64 else 0)

/-- The source codes that an atomic reads beside its address. -/
def State.atomicCodes (s : State) (b : Code) : List Code :=
  if s.cur.mp.wide then pairCodes b ++ (if s.cur.vp.hasC then pairCodes s.cur.vp.c else [])
  else b :: (if s.cur.vp.hasC then [s.cur.vp.c] else [])

/-- The checks of one member's atomic: its address and what it acts on. -/
def atomicCheck (op : Nat) (a b : Code) (s : State) (p : Nat) : Except Raised (Nat × Spot) × State :=
  match s.lateFault p (pairCodes a) with
  | some r => (.error r, s)
  | none =>
    let va := (s.src64 p a).toNat
    match s.atomicSpot op s.cur.mp.wide va with
    | (.error r, s) => (.error r, s)
    | (.ok x, s) =>
      match s.lateSoft p (s.atomicCodes b), s.spotPoison s.myDie (if s.cur.mp.wide then 8 else 4) x, s.lateFault p (s.atomicCodes b) with
      | some r, _, _ => (.error r, s)
      | none, some pa, _ => (.error (s.trapAt .poison (lineTval pa)), s)
      | none, none, some r => (.error r, s)
      | none, none, none => (.ok (va, x), s)

/-- The old value reaches D, which NWB discards. -/
def State.writeOld (s : State) (lead : Bool) (p : Nat) (d : Code) (old : Word64) : State :=
  if d = 0xFC then s
  else if s.cur.mp.wide then s.writeLeads lead p d [old.extractLsb' 0 32, old.extractLsb' 32 32]
  else s.writeLead lead p d (old.extractLsb' 0 32)

/-- An atomic that leaves the module; the stores that it follows go before it (R114, R357). -/
def State.sendAtomic (s : State) (p : Nat) (op : Nat) (va pa : Nat) (b c : Word64) (dests : List (Nat × Code × Word64)) : State :=
  let size := if s.cur.mp.wide then 8 else 4
  let s := if s.releases then s.releaseSys s.myDie else s.flushFor s.myDie (s.agent p) pa size
  s.sendOut { s.myAccess va pa size with dests := dests, op := .atomic op b c }

/-- One member's atomic (R112). -/
def atomicMember (op : Nat) (d a b : Code) (lead : Bool) (s : State) (p : Nat) : Except Raised State :=
  match atomicCheck op a b s p with
  | (.error r, _) => .error r
  | (.ok (va, x), s) =>
    let (bv, cv) := s.atomicArgs p b
    let s := s.touchSpot s.myDie x
    if s.cur.blocked then .ok s
    else if s.atomicWaits p (if s.cur.mp.wide then 8 else 4) x then .ok s.block
    else
      match x with
      | .outside pa => .ok (s.sendAtomic p op va pa bv cv [(p, leadDest lead d, 0)])
      | .stored _ | .tile _ | .control _ | .elements _ _ _ _ _ _ =>
        let (old, s) := s.atomicAt p op s.cur.mp.wide bv cv x
        .ok (s.writeOld lead p d (BitVec.ofNat 64 old))

/-- An atomic. -/
def atomicOp (i : Instr) (op : Nat) (d a b : Code) (s : State) : State := s.runUnit i 0 (inTurn (atomicMember op d a b))

/-- ATOM.ADD (R112). -/
def execAtomAdd (d a b : Code) (s : State) : Host.Outcome State Fault Refusal := .next (atomicOp (.atomAdd d a b) 0 d a b s)
/-- ATOM.SMIN (R112). -/
def execAtomSmin (d a b : Code) (s : State) : Host.Outcome State Fault Refusal := .next (atomicOp (.atomSmin d a b) 1 d a b s)
/-- ATOM.SMAX (R112). -/
def execAtomSmax (d a b : Code) (s : State) : Host.Outcome State Fault Refusal := .next (atomicOp (.atomSmax d a b) 2 d a b s)
/-- ATOM.UMIN (R112). -/
def execAtomUmin (d a b : Code) (s : State) : Host.Outcome State Fault Refusal := .next (atomicOp (.atomUmin d a b) 3 d a b s)
/-- ATOM.UMAX (R112). -/
def execAtomUmax (d a b : Code) (s : State) : Host.Outcome State Fault Refusal := .next (atomicOp (.atomUmax d a b) 4 d a b s)
/-- ATOM.AND (R112). -/
def execAtomAnd (d a b : Code) (s : State) : Host.Outcome State Fault Refusal := .next (atomicOp (.atomAnd d a b) 5 d a b s)
/-- ATOM.OR (R112). -/
def execAtomOr (d a b : Code) (s : State) : Host.Outcome State Fault Refusal := .next (atomicOp (.atomOr d a b) 6 d a b s)
/-- ATOM.XOR (R112). -/
def execAtomXor (d a b : Code) (s : State) : Host.Outcome State Fault Refusal := .next (atomicOp (.atomXor d a b) 7 d a b s)
/-- ATOM.XCHG (R112). -/
def execAtomXchg (d a b : Code) (s : State) : Host.Outcome State Fault Refusal := .next (atomicOp (.atomXchg d a b) 8 d a b s)
/-- ATOM.CAS (R112, R113). -/
def execAtomCas (d a b : Code) (s : State) : Host.Outcome State Fault Refusal := .next (atomicOp (.atomCas d a b) 9 d a b s)
/-- ATOM.FADD (R112). -/
def execAtomFadd (d a b : Code) (s : State) : Host.Outcome State Fault Refusal := .next (atomicOp (.atomFadd d a b) 10 d a b s)

/-- The members of an ATOMAGG.ADD whose access completes, with virtual address, spot and operand, and what the others raise. -/
def aggCheck (a b : Code) : State → List Nat → List (Nat × Nat × Spot × Word64) × List (Nat × Raised) × State
  | s, [] => ([], [], s)
  | s, p :: t =>
    match atomicCheck 11 a b s p with
    | (.error r, _) => let (ok, rs, s) := aggCheck a b s.skipFree t; (ok, (p, r) :: rs, s)
    | (.ok (va, x), s) => let (ok, rs, s') := aggCheck a b s t; ((p, va, x, (s.atomicArgs p b).1) :: ok, rs, s')

/-- The sum of the operands that precede each member of a group. -/
def prefixSums : Word64 → List (Nat × Word64) → List (Nat × Word64)
  | _, [] => []
  | acc, (p, b) :: t => (p, acc) :: prefixSums (acc + b) t

/-- One group is applied as one add, and its members receive their values (R115). -/
def aggGroup (d : Code) (lead : Option Nat) (va : Nat) (x : Spot) (g : List (Nat × Word64)) (s : State) : State :=
  let sum := g.foldl (fun n y => n + y.2) 0
  let pre := prefixSums 0 g
  let p := (g.map Prod.fst).headD 0
  let s := s.touchSpot s.myDie x
  if s.cur.blocked then s
  else if s.atomicWaits p (if s.cur.mp.wide then 8 else 4) x then s.block
  else
    match x with
    | .outside pa => s.sendAtomic p 0 va pa sum 0 (pre.map fun y => (y.1, leadDest (lead == some y.1) d, y.2))
    | .stored _ | .tile _ | .control _ | .elements _ _ _ _ _ _ =>
      let (old, s) := s.atomicAt p 0 s.cur.mp.wide sum 0 x
      foldState (fun y s => s.writeOld (lead == some y.1) y.1 d (BitVec.ofNat 64 old + y.2)) pre s

/-- Groups one after another, as far as they are performed: the members that complete, and the state. The others stay at the unit. -/
def aggAll (d : Code) (lead : Option Nat) (ps : List Nat) : State → List (Nat × Spot × List (Nat × Word64)) → List Nat × State
  | s, [] => ([], s)
  | s, g :: t =>
    let mine := g.2.2.map Prod.fst
    let later := t.flatMap fun x => x.2.2.map Prod.fst
    let s' := aggGroup d lead g.1 g.2.1 g.2.2 s
    if s'.cur.blocked then ([], s.leave (ps.filter fun p => mine.contains p || later.contains p) none)
    else if s'.cur.away then (mine, if t.isEmpty then s' else s'.leave (ps.filter later.contains) none)
    else
      let (ok, s) := aggAll d lead ps s' t
      (mine ++ ok, s)

/-- The groups of an ATOMAGG.ADD in the order of their lowest lane. -/
def aggGroups (l : List (Nat × Nat × Spot × Word64)) : List (Nat × Spot × List (Nat × Word64)) :=
  (l.map fun y => y.2.1).reverse.dedup.reverse.filterMap fun va =>
    ((l.filter fun y => y.2.1 == va).head?).map fun y =>
      (va, y.2.2.1, (l.filter fun z => z.2.1 == va).map fun z => (z.1, z.2.2.2))

/-- ATOMAGG.ADD's body. -/
def aggBody (d a b : Code) (s : State) (ps : List Nat) : Done :=
  let (ok, rs, t) := aggCheck a b (s.withW s.cur.led s.cur.regs) ps
  let members := ok.map Prod.fst
  let (done, t) := aggAll d (if s.cur.led then none else members.head?) members t (aggGroups ok)
  { st := t.withW s.cur.led s.me.w, ok := members.filter done.contains, raised := rs }

/-- ATOMAGG.ADD (R115). -/
def execAtomaggAdd (d a b : Code) (s : State) : Host.Outcome State Fault Refusal := .next (s.runUnit (.atomaggAdd d a b) 0 (aggBody d a b))

/-! ### FENCE (R116) -/

/-- FENCE (R116): at SYS scope a release, an acquire or both; under another scope it has no effect beyond the die's order. A release stands among the
stores of its die, which it follows (R355). A sequentially consistent one waits in place until they have all taken effect, those to other devices
included (R356, R428). -/
def execFence (s : State) : Host.Outcome State Fault Refusal :=
  .next (s.runWith .fence (fun _ => none) (fun _ => if s.isSc && !s.canFlush s.myDie then some s.waits else none) 0
    (allDone fun s ps =>
      let d := s.myDie
      let s :=
        if s.isSc then s.releaseSys d
        else if s.releases then foldState (fun p s => s.store d { agent := s.agent p, pa := 0, data := [], rel := true }) ps s
        else s
      s.afterLoad s.acquires d))

end Sys2Proof.Machine
end

