-- ==== Sys2Proof/Machine/Fabric.lean ====
section
/-! DEFINITION. Linwen Link ports and flits, remote accesses, the host's reads and writes, and the failures of R430 (R424 to R431). A packet is held
by its content (log 18). -/

namespace Sys2Proof.Machine

open Sys2Proof

/-! ### What comes from outside (R427, R429) -/

/-- Packets that the peer has received intact leave the sender's store: those up to a sequence number, modulo 2^16. -/
def dropUpTo {α : Type} (seq : BitVec 16) (l : List (BitVec 16 × α)) : List (BitVec 16 × α) := l.filter fun x => 32768 ≤ (seq - x.1).toNat

/-- The number of a die that the module lacks: what comes from outside comes from none. -/
def noDie : Nat := 16

/-- A stored-byte agent's access recalls the ownership of the frames it meets (R349, R384). -/
def State.recall (s : State) (pa len : Nat) : State :=
  foldState (fun g s => s.touchRgn noDie (65536 * g) false) (upFrom (pa / 65536) ((pa + len - 1) / 65536 - pa / 65536 + 1)) s

/-- A write of the host or of another device reaches its home (R352, R429). -/
def State.landFrom (s : State) (pa : Nat) (data : List Byte) : State :=
  if data.isEmpty then s else (s.recall pa data.length).landStore none { agent := 0, pa := pa, data := data }

/-- The bytes at the home that another device reads, or none when a unit of them is poisoned. -/
def State.readHome (s : State) (pa len : Nat) : Option (List Byte) :=
  if (upFrom (pa / 16) (ceilDiv (pa % 16 + len) 16)).any s.poison.contains then none else some ((upFrom pa len).map s.homeByte)

/-- What an access of another device at some bytes here makes of those that it finds, if it stores anything: an atomic (R112), a decrement (R271, log 18), or
the exchange of a block, which reads it alone when it names no bytes (R70, log 18). -/
def OutOp.stores (op : OutOp) (old : List Byte) : Option (List Byte) :=
  match op with
  | .load => none
  | .atomic 12 b _ => some (decremented old (b != 0))
  | .atomic k b c => (atomicStore k (old.length == 8) (leNat old) b c).map fun v => leBytes v old.length
  | .swap x new => if x == old then some new else none

/-- A range lies in this module's device memory, and in the host window that this device drives (R429). -/
def State.inDevice (s : State) (pa len : Nat) : Bool := pa + len ≤ s.deviceBytes
def State.inHost (s : State) (pa len : Nat) : Bool := s.bridges && decide (2 ^ 51 ≤ pa) && decide (pa + len ≤ 2 ^ 52)

/-- An aligned register of this module's control space. -/
def State.isRegister (s : State) (pa len : Nat) : Bool := pa % 8 == 0 && len == 8 && s.regionOf pa == .control

/-- A register takes a value from outside; the access waits where the register does (R240). -/
def State.registerFrom (s : State) (pa : Nat) (data : List Byte) : State :=
  if s.controlHeld pa (leNat data) then s.block else s.controlWrite pa (leNat data)

/-- A write of another device acts here: on memory, on a register (R429), or on the host's memory. -/
def State.writeFrom (s : State) (pa : Nat) (data : List Byte) : State :=
  if s.inDevice pa data.length then s.landFrom pa data
  else if s.inHost pa data.length then s.landStore none { agent := 0, pa := pa, data := data }
  else if s.isRegister pa data.length then s.registerFrom pa data
  else s

/-- An access of another device that is answered: at its home here, at a register, or by the host. Poisoned data are answered by none. -/
def State.accessFrom (s : State) (src tag pa len : Nat) (op : OutOp) : State :=
  if s.inDevice pa len then
    let s := s.recall pa len
    match s.readHome pa len with
    | none => s.respond src tag pa []
    | some old =>
      (match op.stores old with
        | some new => s.landStore none { agent := 0, pa := pa, data := new }
        | none => s).respond src tag pa old
  else if s.inHost pa len then s.sendOutFor { die := noDie, addr := pa, size := len, op := op, to_ := .device src tag }
  else if s.isRegister pa len && op == .load then s.respond src tag pa (leBytes (s.controlRead pa) 8)
  else s

/-- A packet is delivered: it acts here, or is forwarded towards its device (R426, R427). A response without its data is a poisoned one. -/
def State.deliverPacket (s : State) (x : Packet) : State :=
  let forward (dev pa : Nat) (act : State) : State := if dev = s.devNo then act else s.sendTo { dev := dev, pa := pa, pkt := x }
  match x with
  | .write dev pa first count data => forward dev pa (s.writeFrom (pa + first) (slice data first count))
  | .readReq dev src tag pa len => forward dev pa (s.accessFrom src tag pa len .load)
  | .atomic dev src tag pa op wide b c =>
    forward dev pa (s.accessFrom src tag pa (if op = 12 then 32 else if wide then 8 else 4) (.atomic op b c))
  | .swap dev src tag pa old new => forward dev pa (s.accessFrom src tag pa new.length (.swap old new))
  | .readResp dev tag data =>
    forward dev 0 (match s.outs.find tag with
      | some o => if o.size ≤ data.length then s.completeOut tag data else s.abandonOut tag
      | none => s)

/-! ### Flits (R424, R425) -/

/-- The data that a header announces, in bytes, where they are legal: a write's, 16 to 4,096 in whole units, a response's, an atomic's 16, or the two
blocks of an exchange, of which the first may be absent (R424, log 18). -/
def headData (h : PacketHead) : Option Nat :=
  match h.kind with
  | 0 => if h.len % 16 = 0 ∧ 16 ≤ h.len ∧ h.len ≤ 4096 ∧ h.first + h.count ≤ h.len then some h.len else none
  | 1 => some 0
  | 2 => some h.len
  | 3 => some 16
  | 4 => some (h.len + h.count)
  | _ => none

/-- The packet of a header and its data. -/
def headPacket (h : PacketHead) (data : List Byte) : Packet :=
  match h.kind with
  | 0 => .write h.dev h.pa h.first h.count data
  | 1 => .readReq h.dev h.src h.tag h.pa h.len
  | 2 => .readResp h.dev h.tag data
  | 3 => .atomic h.dev h.src h.tag h.pa h.op h.wide (BitVec.ofNat 64 (field data 0 8)) (BitVec.ofNat 64 (field data 8 8))
  | _ => .swap h.dev h.src h.tag h.pa (data.take h.count) (data.drop h.count)

/-- The whole packets at the head of some received bytes, and the bytes left. What no header is, fills the rest of a flit (log 18). -/
def unpack : Nat → List Byte → List Packet × List Byte
  | 0, l => ([], l)
  | fuel + 1, l =>
    if l.length < 16 then ([], l)
    else
      match (Config.packetHead (l.take 16)).bind fun h => (headData h).map fun n => (h, n) with
      | none => unpack fuel (l.drop 16)
      | some (h, n) =>
        if l.length < 16 + n then ([], l)
        else
          let (ps, rest) := unpack fuel (l.drop (16 + n))
          (headPacket h (slice l 16 n) :: ps, rest)

/-- The fields of a flit. -/
def flitSeq (f : List Byte) : BitVec 16 := BitVec.ofNat 16 (field f 0 2)
def flitAck (f : List Byte) : BitVec 16 := BitVec.ofNat 16 (field f 2 2)
def flitKind (f : List Byte) : Nat := field f 4 1
def flitCrcOk (f : List Byte) : Bool := (crc64 (f.take 0xF8)).toNat == field f 0xF8 8

/-- The peer of a port has all flits up to a number: they are kept no longer, the stores that they carried are acknowledged, and paths may be free. -/
def State.peerHas (s : State) (port : Nat) (seq : BitVec 16) : State :=
  let q := s.port port
  let kept := dropUpTo seq q.kept
  let gone := (q.kept.filter fun x => !(dropUpTo seq [x]).length == 1).flatMap Prod.snd
  ((s.modPort port fun q => { q with kept := kept, failing := q.failing.filter fun n => kept.any fun x => x.1 == n }).confirm (ownStores gone)).resend

/-- A NAK: the flits from the one that it names are sent again; a replay of that flit has failed when it was named before (R425). -/
def Port.replay (q : Port) (n : BitVec 16) : Port :=
  { q with replays := q.replays + 1, failing := some n, streak := if q.failing = some n then q.streak + 1 else 0 }

/-- FLIT_RECEIVE (R424, R425): a flit with a bad CRC or out of order is discarded and answered with a NAK that names the first flit to resend; a NAK
counts a replay, which the MC logs; the packets that a good data flit completes are delivered in order while remote traffic is enabled. -/
def execFlitReceive (port : Nat) (f : List (BitVec 8)) (s : State) : Host.Outcome State Fault Refusal :=
  let q := s.port port
  let nak (crc : Word) : State := s.modPort port fun q => { q with crcErr := q.crcErr + crc, nakOut := q.nakOut ++ [q.expect] }
  .next (
    if 18 ≤ port ∨ q.st ≠ 2 ∨ f.length ≠ 256 then s
    else if !flitCrcOk f then nak 1
    else if flitKind f = 2 then ((s.peerHas port (flitAck f - 1)).modPort port fun q => q.replay (flitAck f)).logMc (.replay port)
    else if 2 < flitKind f then s
    else if flitSeq f ≠ q.expect then nak 0
    else
      let (ps, rest) := if flitKind f = 0 then unpack 512 (q.rx ++ slice f 8 240) else ([], q.rx)
      let s := (s.modPort port fun q => { q with expect := q.expect + 1, rx := rest }).peerHas port (flitAck f)
      if s.groupEn then foldState (fun x s => s.deliverPacket x) ps s else s)

/-- PORT_TRAIN (R425, R426): an enabled port that is DOWN or in TRAIN comes UP at width code 1 to 3 with its peer's numbers, or makes an attempt that
fails (width 0); the third makes it FAILED. -/
def execPortTrain (port width peer : Nat) (s : State) : Host.Outcome State Fault Refusal :=
  let q := s.port port
  if 18 ≤ port ∨ !q.enable ∨ 1 < q.st ∨ 3 < width then .next s
  else
    let s := s.logMc (.port port)
    .next ((s.modPort port fun q =>
      if width = 0 then { q with st := if q.attempts = 2 then 3 else 1, attempts := q.attempts + 1 }
      else { q with st := 2, width := width, peerDev := peer % 64, peerGrp := peer / 64 % 65536, attempts := 0, failing := none, streak := 0 }).resend)

/-- What waits at a port that goes down takes another path, before what waits already (R426). -/
def State.redirect (s : State) (port : Nat) : State :=
  let l := (s.port port).out
  let s := s.modPort port fun q => { q with out := [] }
  { s with weir := { s.weir with unsent := l ++ s.weir.unsent } }.resend

/-- PORT_RETRAIN (R425): a flit that has failed 16 replays in succession makes the port train again. -/
def execPortRetrain (port : Nat) (s : State) : Host.Outcome State Fault Refusal :=
  let q := s.port port
  if q.st = 2 ∧ 16 ≤ q.streak then
    .next (((s.logMc (.port port)).modPort port fun q =>
      { q with st := 1, width := 0, attempts := 0, failing := none, streak := 0, downAt := s.ref }).redirect port)
  else .next s

/-! ### Abandoned accesses (R430) -/

/-- LOST counts an abandoned access, which the MC logs. -/
def State.countLost (s : State) (addr : Nat) : State :=
  { s.logMc (.abandoned addr) with weir := { (s.logMc (.abandoned addr)).weir with lost := s.weir.lost + 1 } }

/-- The channel of a die that an agent number stands for. -/
def chanOfAgent (d agent : Nat) : Nat × Nat := (16 * d + (agent - 1) / 4, (agent - 1) % 4)

/-- Packets of abandoned stores that have not left are not sent, and nothing acknowledges those that have. -/
def State.forget (s : State) (ns : List Nat) : State :=
  let mine (x : Parcel) : Bool := match x.own with | some n => ns.contains n | none => false
  { s with
    outs := s.outs.filter fun o => match o.2.to_ with | .block n => !ns.contains n | _ => true
    weir := { s.weir with
      unsent := s.weir.unsent.filter fun x => !mine x
      ports := s.weir.ports.map fun q => (q.1, { q.2 with
        out := q.2.out.filter fun x => !mine x
        kept := q.2.kept.map fun f => (f.1, f.2.map fun x => if mine x then { x with own := none } else x) }) } }

/-- Some pending stores of a die are dropped. -/
def State.dropStores (s : State) (d : Nat) (f : PendStore → Bool) : State :=
  let ns := ((s.die d).pend.filter f).filterMap fun e => e.out.bind OutStore.sent
  (s.modDie d fun x => { x with pend := x.pend.filter fun e => !f e }).forget ns

/-- The outside stores of a channel that have not been acknowledged are dropped, and the channel halts with code 6. -/
def State.abandonChannel (s : State) (cl ch : Nat) : State :=
  (s.dropStores (dieOfCluster cl) fun e => e.agent == chanAgent cl ch && decide (2 ^ 51 ≤ e.pa)).haltChannel cl ch 6

/-- An outside store of a die is dropped: a channel's halts the channel, another's is reported (R430). -/
def State.abandonStore (s : State) (d : Nat) (e : PendStore) (o : OutStore) : State :=
  let s := s.countLost e.pa
  if 1 ≤ e.agent ∧ e.agent ≤ 64 then let (cl, ch) := chanOfAgent d e.agent; s.abandonChannel cl ch
  else (s.dropStores d (· == e)).addFault d { reportFault o.va .write 4 with asid := o.asid, queue := o.queue }

/-- A channel's record reads from outside the module. -/
def ChanWork.readsOutside : ChanWork → Option Nat
  | .moving _ _ units => units.findSome? fun u => u.src.findSome? fun e => match e with
    | .mem pa => if 2 ^ 51 ≤ pa then some pa else Option.none
    | .tarn _ _ => Option.none
  | .none | .atRecord _ | .command _ => Option.none

/-- An access stands behind a release that has not taken effect (R355). -/
def State.isBehind (s : State) (n : Nat) : Bool := s.dies.any fun d => d.2.pend.any fun e => e.op == some n

/-- An access in flight outside the module that LTO has passed for. What exchanges a block is abandoned as the store that it is for. -/
def State.lateAccess (s : State) (n : Nat) (o : OutAccess) : Bool :=
  s.overdue o.since && decide (2 ^ 51 ≤ o.addr) && !s.isBehind n && (match o.to_ with | .block _ => false | _ => true)

/-- REMOTE_ACCESS_TIMEOUT (R430). `idx` modulo 4 says what is abandoned: 0 the load or atomic idx ÷ 4; 1 the outside store at position idx ÷ 64 of die
idx ÷ 4 modulo 16; 2 the record in flight of channel idx ÷ 4, when it reads outside the module; 3 what a port that is down still has, so that other paths go
on (R426). That
a target stops answering is its own. -/
def execRemoteAccessTimeout (idx : Nat) (s : State) : Host.Outcome State Fault Refusal :=
  let k := idx / 4
  .next (match idx % 4 with
  | 0 =>
    match s.outs.find k with
    | some o => if s.lateAccess k o then ((s.countLost o.addr).abandonOut k).withdraw k else s
    | none => s
  | 1 =>
    match (s.die (k % 16)).pend[k / 16]? with
    | some e =>
      match e.out with
      | some o => if s.overdue o.since then s.abandonStore (k % 16) e o else s
      | none => s
    | none => s
  | 2 =>
    let c := s.chan (k / 4) (k % 4)
    match c.work.readsOutside with
    | some pa => if c.st = .run && s.overdue c.since then (s.countLost pa).abandonChannel (k / 4) (k % 4) else s
    | none => s
  | _ => s.resend)

/-! ### The host (R429) -/

/-- What a BAR access reaches: a range of this module's device memory, an aligned register here, a range of another device's memory or a register of
its control space, by device and address, or nothing (an Unsupported Request). -/
inductive BarSpot where
  | device (pa : Nat) | control (pa : Nat) | other (dev pa : Nat) | none
  deriving DecidableEq, Repr

/-- A device of the group that is present. -/
def State.present (s : State) (n : Nat) : Bool := decide (n < 64) && s.groupEn && bit (s.devtab n) 63

def State.barSpot (s : State) (bar off len : Nat) : BarSpot :=
  match bar with
  | 0 => if s.isRegister (2 ^ 40 + off) len then .control (2 ^ 40 + off) else .none
  | 2 =>
    let n := off / 2 ^ 40
    let pa := off % 2 ^ 40
    if n = s.devNo then (if s.inDevice pa len then .device pa else .none)
    else if s.present n ∧ pa + len ≤ fld (s.devtab n) 12 28 * 4096 then .other n pa
    else .none
  | 4 =>
    let n := off / 2 ^ 32
    let pa := 2 ^ 40 + off % 2 ^ 32
    if off % 8 ≠ 0 ∨ len ≠ 8 then .none
    else if n = s.devNo then (if s.isRegister pa len then .control pa else .none)
    else if s.present n then .other n pa
    else .none
  | _ => .none

/-- A write to a device is on its way over another path than that of a granule: what the host sends next waits, as the device takes its writes in order. -/
def State.otherPath (s : State) (dev pa : Nat) : Bool :=
  let f (x : Parcel) : Bool := x.dev == dev && x.path != (dev, pa / 4096) && (match x.pkt with | .write _ _ _ _ _ => true | _ => false)
  s.weir.unsent.any f || s.weir.ports.any fun q => q.2.out.any f || q.2.kept.any fun k => k.2.any f

/-- HOST_WRITE (R429), of at most 512 bytes: an Unsupported Request changes nothing. -/
def execHostWrite (bar off : Nat) (data : List (BitVec 8)) (s : State) : Host.Outcome State Fault Refusal :=
  .next (if !s.bridges || data.isEmpty || 512 < data.length then s
    else
      match s.barSpot bar off data.length with
      | .device pa => s.landFrom pa data
      | .control pa => s.registerFrom pa data
      | .other dev pa => if s.otherPath dev pa then s.block else s.sendTo { dev := dev, pa := pa, pkt := writePacket dev pa data }
      | .none => s)

/-- HOST_READ (R429): what the host receives is entered in hostReads, at once or when another device has answered; an Unsupported Request returns no
data. -/
def execHostRead (bar off len : Nat) (s : State) : Host.Outcome State Fault Refusal :=
  .next (if !s.bridges then s
    else
      match s.barSpot bar off len with
      | .device pa => let s := if len = 0 then s else s.recall pa len; s.hostAnswer ((upFrom pa len).map s.homeByte)
      | .control pa => s.hostAnswer (leBytes (s.controlRead pa) 8)
      | .other dev pa =>
        if s.otherPath dev pa then s.block
        else s.sendOutFor { die := noDie, addr := 2 ^ 60 + dev * 2 ^ 46 + pa, size := len, to_ := .host }
      | .none => s.hostAnswer [])

/-- PCIE_COMPLETION (R429): the data of a host-window read or AtomicOp arrive; an AtomicOp has then also written its location. -/
def execPcieCompletion (idx : Nat) (data : List (BitVec 8)) (s : State) : Host.Outcome State Fault Refusal :=
  .next (match s.outs.find idx with
    | none => s
    | some o =>
      if !s.inHost o.addr o.size || data.length ≠ o.size || s.isBehind idx then s
      else
        (match o.op.stores data with
          | some new => s.landStore none { agent := 0, pa := o.addr, data := new }
          | none => s).completeOut idx data)

end Sys2Proof.Machine
end

