-- ==== Sys2Proof/Machine/LaneInt.lean ====
section
/-! DEFINITION. Integer, logic and immediate instructions and their C16 forms (R82 to R87, R31, R32). -/

namespace Sys2Proof.Machine

open Sys2Proof

/-- The shift count of R82: B[4:0]. -/
def count (b : Word) : Nat := b.toNat % 32

/-- The field selector of R83: POS and n = min(LEN, 32 − POS). -/
def fieldPos (b : Word) : Nat := fld b.toNat 0 5
def fieldLen (b : Word) : Nat := min (min 32 (fld b.toNat 8 6)) (32 - fieldPos b)

/-- Field extract and field deposit (R83). -/
def bfx (a b : Word) : Word :=
  let n := fieldLen b
  let v := fld a.toNat (fieldPos b) n
  if bit b.toNat 15 && bit v (n - 1) && n != 0 then BitVec.ofInt 32 (toSigned v n) else word v
def bfi (a b : Word) : Word := word (fld a.toNat 0 (fieldLen b) <<< fieldPos b)

/-- The sum as INT32, saturated (R82). -/
def addSat (a b : Word) : Word := BitVec.ofInt 32 (max (-(2 ^ 31 : Int)) (min (2 ^ 31 - 1 : Int) (a.toInt + b.toInt)))

/-- The high word of a 64-bit product. -/
def highWord (x : Int) : Word := (BitVec.ofInt 64 x).extractLsb' 32 32

/-- Logical and arithmetic shifts and the rotation by a count from 0 to 31 (R82). -/
def shiftLeft (a : Word) (n : Nat) : Word := a <<< n
def shiftRight (a : Word) (n : Nat) : Word := a >>> n
def shiftRightSigned (a : Word) (n : Nat) : Word := a.sshiftRight n
def rotateLeft (a : Word) (n : Nat) : Word := (a <<< n) ||| (a >>> (32 - n))

/-- The smaller and the larger of two numbers under an order (R82). -/
def pick (first : Bool) (a b : Word) : Word := if first then a else b

/-- IADD (R82). -/
def execIadd (d : Code) (a : Code) (b : Code) (s : State) : Host.Outcome State Fault Refusal :=
  .next (laneBin (.iadd d a b) d a b (fun a b => a + b) s)

/-- ISUB (R82). -/
def execIsub (d : Code) (a : Code) (b : Code) (s : State) : Host.Outcome State Fault Refusal :=
  .next (laneBin (.isub d a b) d a b (fun a b => a - b) s)

/-- IMUL (R82). -/
def execImul (d : Code) (a : Code) (b : Code) (s : State) : Host.Outcome State Fault Refusal :=
  .next (laneBin (.imul d a b) d a b (fun a b => a * b) s)

/-- IMULH (R82). -/
def execImulh (d : Code) (a : Code) (b : Code) (s : State) : Host.Outcome State Fault Refusal :=
  .next (laneBin (.imulh d a b) d a b (fun a b => highWord (a.toInt * b.toInt)) s)

/-- IMULHU (R82). -/
def execImulhu (d : Code) (a : Code) (b : Code) (s : State) : Host.Outcome State Fault Refusal :=
  .next (laneBin (.imulhu d a b) d a b (fun a b => highWord (a.toNat * b.toNat : Nat)) s)

/-- IMIN (R82). -/
def execImin (d : Code) (a : Code) (b : Code) (s : State) : Host.Outcome State Fault Refusal :=
  .next (laneBin (.imin d a b) d a b (fun a b => pick (icmpLe a b) a b) s)

/-- IMAX (R82). -/
def execImax (d : Code) (a : Code) (b : Code) (s : State) : Host.Outcome State Fault Refusal :=
  .next (laneBin (.imax d a b) d a b (fun a b => pick (icmpLe b a) a b) s)

/-- IMINU (R82). -/
def execIminu (d : Code) (a : Code) (b : Code) (s : State) : Host.Outcome State Fault Refusal :=
  .next (laneBin (.iminu d a b) d a b (fun a b => pick (icmpLeu a b) a b) s)

/-- IMAXU (R82). -/
def execImaxu (d : Code) (a : Code) (b : Code) (s : State) : Host.Outcome State Fault Refusal :=
  .next (laneBin (.imaxu d a b) d a b (fun a b => pick (icmpLeu b a) a b) s)

/-- AND (R82). -/
def execAnd (d : Code) (a : Code) (b : Code) (s : State) : Host.Outcome State Fault Refusal :=
  .next (laneBin (.and d a b) d a b (fun a b => a &&& b) s)

/-- OR (R82). -/
def execOr (d : Code) (a : Code) (b : Code) (s : State) : Host.Outcome State Fault Refusal :=
  .next (laneBin (.or d a b) d a b (fun a b => a ||| b) s)

/-- XOR (R82). -/
def execXor (d : Code) (a : Code) (b : Code) (s : State) : Host.Outcome State Fault Refusal :=
  .next (laneBin (.xor d a b) d a b (fun a b => a ^^^ b) s)

/-- ANDN (R82). -/
def execAndn (d : Code) (a : Code) (b : Code) (s : State) : Host.Outcome State Fault Refusal :=
  .next (laneBin (.andn d a b) d a b (fun a b => a &&& ~~~b) s)

/-- SHL (R82). -/
def execShl (d : Code) (a : Code) (b : Code) (s : State) : Host.Outcome State Fault Refusal :=
  .next (laneBin (.shl d a b) d a b (fun a b => shiftLeft a (count b)) s)

/-- SHRL (R82). -/
def execShrl (d : Code) (a : Code) (b : Code) (s : State) : Host.Outcome State Fault Refusal :=
  .next (laneBin (.shrl d a b) d a b (fun a b => shiftRight a (count b)) s)

/-- SHRA (R82). -/
def execShra (d : Code) (a : Code) (b : Code) (s : State) : Host.Outcome State Fault Refusal :=
  .next (laneBin (.shra d a b) d a b (fun a b => shiftRightSigned a (count b)) s)

/-- ROTL (R82). -/
def execRotl (d : Code) (a : Code) (b : Code) (s : State) : Host.Outcome State Fault Refusal :=
  .next (laneBin (.rotl d a b) d a b (fun a b => rotateLeft a (count b)) s)

/-- BFX (R83). -/
def execBfx (d : Code) (a : Code) (b : Code) (s : State) : Host.Outcome State Fault Refusal :=
  .next (laneBin (.bfx d a b) d a b (fun a b => bfx a b) s)

/-- BFI (R83). -/
def execBfi (d : Code) (a : Code) (b : Code) (s : State) : Host.Outcome State Fault Refusal :=
  .next (laneBin (.bfi d a b) d a b (fun a b => bfi a b) s)

/-- IADDSAT (R82). -/
def execIaddsat (d : Code) (a : Code) (b : Code) (s : State) : Host.Outcome State Fault Refusal :=
  .next (laneBin (.iaddsat d a b) d a b (fun a b => addSat a b) s)

/-- IMAD (R82). -/
def execImad (d : Code) (a : Code) (b : Code) (s : State) : Host.Outcome State Fault Refusal :=
  .next (laneAdd (.imad d a b) d a b (fun _ a b c => a * b + c) s)

/-- IADD64 (R82). -/
def execIadd64 (d : Code) (a : Code) (b : Code) (s : State) : Host.Outcome State Fault Refusal :=
  .next (laneOp64 (.iadd64 d a b) d (fun s p => s.src64 p a + s.src64 p b) s)

/-- ISUB64 (R82). -/
def execIsub64 (d : Code) (a : Code) (b : Code) (s : State) : Host.Outcome State Fault Refusal :=
  .next (laneOp64 (.isub64 d a b) d (fun s p => s.src64 p a - s.src64 p b) s)

/-- IMULW (R82). -/
def execImulw (d : Code) (a : Code) (b : Code) (s : State) : Host.Outcome State Fault Refusal :=
  .next (laneOp64 (.imulw d a b) d (fun s p => BitVec.ofInt 64 ((s.src p [] a).toInt * (s.src p [a] b).toInt)) s)

/-- IMULWU (R82). -/
def execImulwu (d : Code) (a : Code) (b : Code) (s : State) : Host.Outcome State Fault Refusal :=
  .next (laneOp64 (.imulwu d a b) d (fun s p => BitVec.ofNat 64 ((s.src p [] a).toNat * (s.src p [a] b).toNat)) s)

/-- ICMP_EQ (R84). -/
def execIcmpEq (m : PredNo) (a : Code) (b : Code) (s : State) : Host.Outcome State Fault Refusal :=
  .next (compareOp (.icmpEq m a b) m a b (fun a b => a == b) s)

/-- ICMP_NE (R84). -/
def execIcmpNe (m : PredNo) (a : Code) (b : Code) (s : State) : Host.Outcome State Fault Refusal :=
  .next (compareOp (.icmpNe m a b) m a b (fun a b => a != b) s)

/-- ICMP_LT (R84). -/
def execIcmpLt (m : PredNo) (a : Code) (b : Code) (s : State) : Host.Outcome State Fault Refusal :=
  .next (compareOp (.icmpLt m a b) m a b icmpLt s)

/-- ICMP_LE (R84). -/
def execIcmpLe (m : PredNo) (a : Code) (b : Code) (s : State) : Host.Outcome State Fault Refusal :=
  .next (compareOp (.icmpLe m a b) m a b icmpLe s)

/-- ICMP_LTU (R84). -/
def execIcmpLtu (m : PredNo) (a : Code) (b : Code) (s : State) : Host.Outcome State Fault Refusal :=
  .next (compareOp (.icmpLtu m a b) m a b icmpLtu s)

/-- ICMP_LEU (R84). -/
def execIcmpLeu (m : PredNo) (a : Code) (b : Code) (s : State) : Host.Outcome State Fault Refusal :=
  .next (compareOp (.icmpLeu m a b) m a b icmpLeu s)

/-- SEL (R85). -/
def execSel (d : Code) (a : Code) (b : Code) (s : State) : Host.Outcome State Fault Refusal :=
  .next (laneOp (.sel d a b) d (fun s p => if (s.me.thread p).pred s.cur.vp.pred then s.src p [] a else s.src p [a] b) s)

/-- IADDI (R86). -/
def execIaddi (d : Code) (i : BitVec 16) (s : State) : Host.Outcome State Fault Refusal :=
  .next (laneImm (.iaddi d i) d (fun v => v + i.signExtend 32) s)

/-- ANDI (R86). -/
def execAndi (d : Code) (i : BitVec 16) (s : State) : Host.Outcome State Fault Refusal :=
  .next (laneImm (.andi d i) d (fun v => v &&& i.zeroExtend 32) s)

/-- ORI (R86). -/
def execOri (d : Code) (i : BitVec 16) (s : State) : Host.Outcome State Fault Refusal :=
  .next (laneImm (.ori d i) d (fun v => v ||| i.zeroExtend 32) s)

/-- XORI (R86). -/
def execXori (d : Code) (i : BitVec 16) (s : State) : Host.Outcome State Fault Refusal :=
  .next (laneImm (.xori d i) d (fun v => v ^^^ i.zeroExtend 32) s)

/-- MOVHI (R86). -/
def execMovhi (d : Code) (i : BitVec 16) (s : State) : Host.Outcome State Fault Refusal :=
  .next (laneImm (.movhi d i) d (fun v => i ++ v.extractLsb' 0 16) s)

/-- SHLI (R86). -/
def execShli (d : Code) (i : BitVec 5) (s : State) : Host.Outcome State Fault Refusal :=
  .next (laneImm (.shli d i) d (fun v => shiftLeft v i.toNat) s)

/-- SHRLI (R86). -/
def execShrli (d : Code) (i : BitVec 5) (s : State) : Host.Outcome State Fault Refusal :=
  .next (laneImm (.shrli d i) d (fun v => shiftRight v i.toNat) s)

/-- SHRAI (R86). -/
def execShrai (d : Code) (i : BitVec 5) (s : State) : Host.Outcome State Fault Refusal :=
  .next (laneImm (.shrai d i) d (fun v => shiftRightSigned v i.toNat) s)

/-- MOVI (R86). -/
def execMovi (d : Code) (i : BitVec 16) (s : State) : Host.Outcome State Fault Refusal :=
  .next (laneOp (.movi d i) d (fun _ _ => i.signExtend 32) s)

/-- ICMPI_EQ (R87). -/
def execIcmpiEq (x : Code) (m : PredNo) (i : BitVec 13) (s : State) : Host.Outcome State Fault Refusal :=
  .next (predOp (.icmpiEq x m i) m (fun s p => s.src p [] x == i.signExtend 32) s)

/-- ICMPI_LT (R87). -/
def execIcmpiLt (x : Code) (m : PredNo) (i : BitVec 13) (s : State) : Host.Outcome State Fault Refusal :=
  .next (predOp (.icmpiLt x m i) m (fun s p => icmpLt (s.src p [] x) (i.signExtend 32)) s)

/-- C16_IADD (R32). -/
def execC16Iadd (d : BitVec 6) (x : BitVec 5) (s : State) : Host.Outcome State Fault Refusal :=
  .next (laneC16 (.c16Iadd d x) d x false (fun _ a b => a + b) s)

/-- C16_ISUB (R32). -/
def execC16Isub (d : BitVec 6) (x : BitVec 5) (s : State) : Host.Outcome State Fault Refusal :=
  .next (laneC16 (.c16Isub d x) d x false (fun _ a b => a - b) s)

/-- C16_IMUL (R32). -/
def execC16Imul (d : BitVec 6) (x : BitVec 5) (s : State) : Host.Outcome State Fault Refusal :=
  .next (laneC16 (.c16Imul d x) d x false (fun _ a b => a * b) s)

/-- C16_AND (R32). -/
def execC16And (d : BitVec 6) (x : BitVec 5) (s : State) : Host.Outcome State Fault Refusal :=
  .next (laneC16 (.c16And d x) d x false (fun _ a b => a &&& b) s)

/-- C16_OR (R32). -/
def execC16Or (d : BitVec 6) (x : BitVec 5) (s : State) : Host.Outcome State Fault Refusal :=
  .next (laneC16 (.c16Or d x) d x false (fun _ a b => a ||| b) s)

/-- C16_XOR (R32). -/
def execC16Xor (d : BitVec 6) (x : BitVec 5) (s : State) : Host.Outcome State Fault Refusal :=
  .next (laneC16 (.c16Xor d x) d x false (fun _ a b => a ^^^ b) s)

/-- C16_SHL (R32). -/
def execC16Shl (d : BitVec 6) (x : BitVec 5) (s : State) : Host.Outcome State Fault Refusal :=
  .next (laneC16 (.c16Shl d x) d x false (fun _ a b => shiftLeft a (count b)) s)

/-- C16_SHRL (R32). -/
def execC16Shrl (d : BitVec 6) (x : BitVec 5) (s : State) : Host.Outcome State Fault Refusal :=
  .next (laneC16 (.c16Shrl d x) d x false (fun _ a b => shiftRight a (count b)) s)

/-- C16_SHRA (R32). -/
def execC16Shra (d : BitVec 6) (x : BitVec 5) (s : State) : Host.Outcome State Fault Refusal :=
  .next (laneC16 (.c16Shra d x) d x false (fun _ a b => shiftRightSigned a (count b)) s)

/-- C16_MOV (R32). -/
def execC16Mov (d : BitVec 6) (x : BitVec 5) (s : State) : Host.Outcome State Fault Refusal :=
  .next (laneOp (.c16Mov d x) (ds6Code d) (fun s p => s.s5 p false x) s)

end Sys2Proof.Machine
end

