-- ==== Sys2Proof/Machine/LaneUnary.lean ====
section
/-! DEFINITION. Conversions, one-operand instructions and special functions of family X (R96 to R101). -/

namespace Sys2Proof.Machine

open Sys2Proof

/-- Widening of one element to FP32, which is exact (R96). -/
def widen (f : Fmt) (x : Nat) : Word := word (decodeTo fp32 (f.dec x))

/-- A word's bit count, leading zeros and bit reversal (R98). -/
def popcount (a : Word) : Word := word ((List.range 32).filter fun k => a.getLsbD k).length
def leadingZeros (a : Word) : Word := word (if a = 0 then 32 else 31 - Nat.log2 a.toNat)
def reverseBits (a : Word) : Word := a.reverse

/-- The absolute value as INT32, wrapping (R98). -/
def absInt (a : Word) : Word := if a.getLsbD 31 then 0 - a else a

/-- CVT_F32_I32 (R96). -/
def execCvtF32I32 (d : Code) (a : Code) (s : State) : Host.Outcome State Fault Refusal :=
  .next (laneUn (.cvtF32I32 d a) d a (fun rm a => word (ofIntF32 rm a.toInt)) s)

/-- CVT_F32_U32 (R96). -/
def execCvtF32U32 (d : Code) (a : Code) (s : State) : Host.Outcome State Fault Refusal :=
  .next (laneUn (.cvtF32U32 d a) d a (fun rm a => word (ofIntF32 rm a.toNat)) s)

/-- CVT_I32_F32 (R96). -/
def execCvtI32F32 (d : Code) (a : Code) (s : State) : Host.Outcome State Fault Refusal :=
  .next (laneUn (.cvtI32F32 d a) d a (fun rm a => BitVec.ofInt 32 (toIntSat rm (-(2 ^ 31 : Int)) (2 ^ 31 - 1) (f32Value a))) s)

/-- CVT_U32_F32 (R96). -/
def execCvtU32F32 (d : Code) (a : Code) (s : State) : Host.Outcome State Fault Refusal :=
  .next (laneUn (.cvtU32F32 d a) d a (fun rm a => BitVec.ofInt 32 (toIntSat rm 0 (2 ^ 32 - 1) (f32Value a))) s)

/-- CVT_F32_BF16 (R96). -/
def execCvtF32Bf16 (d : Code) (a : Code) (s : State) : Host.Outcome State Fault Refusal :=
  .next (laneUn (.cvtF32Bf16 d a) d a (fun _ a => widen bf16 (lowHalf a)) s)

/-- CVT_F32_BF16H (R96). -/
def execCvtF32Bf16h (d : Code) (a : Code) (s : State) : Host.Outcome State Fault Refusal :=
  .next (laneUn (.cvtF32Bf16h d a) d a (fun _ a => widen bf16 (highHalf a)) s)

/-- CVT_F32_F16 (R96). -/
def execCvtF32F16 (d : Code) (a : Code) (s : State) : Host.Outcome State Fault Refusal :=
  .next (laneUn (.cvtF32F16 d a) d a (fun _ a => widen fp16 (lowHalf a)) s)

/-- CVT_F32_F16H (R96). -/
def execCvtF32F16h (d : Code) (a : Code) (s : State) : Host.Outcome State Fault Refusal :=
  .next (laneUn (.cvtF32F16h d a) d a (fun _ a => widen fp16 (highHalf a)) s)

/-- CVT_BF16_F32 (R96). -/
def execCvtBf16F32 (d : Code) (a : Code) (s : State) : Host.Outcome State Fault Refusal :=
  .next (laneNarrow (.cvtBf16F32 d a) d bf16 (fun s p => [f32Value (s.src p [] a)]) s)

/-- CVT_F16_F32 (R96). -/
def execCvtF16F32 (d : Code) (a : Code) (s : State) : Host.Outcome State Fault Refusal :=
  .next (laneNarrow (.cvtF16F32 d a) d fp16 (fun s p => [f32Value (s.src p [] a)]) s)

/-- CVT_E4M3_F32 (R96). -/
def execCvtE4m3F32 (d : Code) (a : Code) (s : State) : Host.Outcome State Fault Refusal :=
  .next (laneNarrow (.cvtE4m3F32 d a) d e4m3 (fun s p => [f32Value (s.src p [] a)]) s)

/-- CVT_E5M2_F32 (R96). -/
def execCvtE5m2F32 (d : Code) (a : Code) (s : State) : Host.Outcome State Fault Refusal :=
  .next (laneNarrow (.cvtE5m2F32 d a) d e5m2 (fun s p => [f32Value (s.src p [] a)]) s)

/-- CVT_F32_E4M3_BK (R96). -/
def execCvtF32E4m3Bk (d : Code) (a : Code) (k : BitVec 2) (s : State) : Host.Outcome State Fault Refusal :=
  .next (laneUn (.cvtF32E4m3Bk d a k) d a (fun _ a => widen e4m3 (fld a.toNat (8 * k.toNat) 8)) s)

/-- CVT_F32_E5M2_BK (R96). -/
def execCvtF32E5m2Bk (d : Code) (a : Code) (k : BitVec 2) (s : State) : Host.Outcome State Fault Refusal :=
  .next (laneUn (.cvtF32E5m2Bk d a k) d a (fun _ a => widen e5m2 (fld a.toNat (8 * k.toNat) 8)) s)

/-- FRND (R97). -/
def execFrnd (d : Code) (a : Code) (s : State) : Host.Outcome State Fault Refusal :=
  .next (laneUn (.frnd d a) d a (fun rm a => word (Sys2Proof.frnd rm a.toNat)) s)

/-- FCLASS (R97). -/
def execFclass (d : Code) (a : Code) (s : State) : Host.Outcome State Fault Refusal :=
  .next (laneUn (.fclass d a) d a (fun _ a => word (2 ^ Sys2Proof.fclass a.toNat)) s)

/-- FABS (R98). -/
def execFabs (d : Code) (a : Code) (s : State) : Host.Outcome State Fault Refusal :=
  .next (laneUn (.fabs d a) d a (fun _ a => a &&& 0x7FFFFFFF) s)

/-- FNEG (R98). -/
def execFneg (d : Code) (a : Code) (s : State) : Host.Outcome State Fault Refusal :=
  .next (laneUn (.fneg d a) d a (fun _ a => a ^^^ 0x80000000) s)

/-- INEG (R98). -/
def execIneg (d : Code) (a : Code) (s : State) : Host.Outcome State Fault Refusal :=
  .next (laneUn (.ineg d a) d a (fun _ a => 0 - a) s)

/-- IABS (R98). -/
def execIabs (d : Code) (a : Code) (s : State) : Host.Outcome State Fault Refusal :=
  .next (laneUn (.iabs d a) d a (fun _ a => absInt a) s)

/-- NOT (R98). -/
def execNot (d : Code) (a : Code) (s : State) : Host.Outcome State Fault Refusal :=
  .next (laneUn (.not d a) d a (fun _ a => ~~~a) s)

/-- POPC (R98). -/
def execPopc (d : Code) (a : Code) (s : State) : Host.Outcome State Fault Refusal :=
  .next (laneUn (.popc d a) d a (fun _ a => popcount a) s)

/-- CLZ (R98). -/
def execClz (d : Code) (a : Code) (s : State) : Host.Outcome State Fault Refusal :=
  .next (laneUn (.clz d a) d a (fun _ a => leadingZeros a) s)

/-- BREV (R98). -/
def execBrev (d : Code) (a : Code) (s : State) : Host.Outcome State Fault Refusal :=
  .next (laneUn (.brev d a) d a (fun _ a => reverseBits a) s)

/-- MOV (R98). -/
def execMov (d : Code) (a : Code) (s : State) : Host.Outcome State Fault Refusal :=
  .next (laneUn (.mov d a) d a (fun _ a => a) s)

/-- RCP (R99). -/
def execRcp (d : Code) (a : Code) (s : State) : Host.Outcome State Fault Refusal :=
  .next (laneUn (.rcp d a) d a (fun _ a => word (Sys2Proof.rcp a.toNat)) s)

/-- RSQ (R99). -/
def execRsq (d : Code) (a : Code) (s : State) : Host.Outcome State Fault Refusal :=
  .next (laneUn (.rsq d a) d a (fun _ a => word (Sys2Proof.rsq a.toNat)) s)

/-- SQRT (R99). -/
def execSqrt (d : Code) (a : Code) (s : State) : Host.Outcome State Fault Refusal :=
  .next (laneUn (.sqrt d a) d a (fun _ a => word (Sys2Proof.sqrt32 a.toNat)) s)

/-- EXP2 (R99). -/
def execExp2 (d : Code) (a : Code) (s : State) : Host.Outcome State Fault Refusal :=
  .next (laneUn (.exp2 d a) d a (fun _ a => word (Sys2Proof.exp2 a.toNat)) s)

/-- LOG2 (R99). -/
def execLog2 (d : Code) (a : Code) (s : State) : Host.Outcome State Fault Refusal :=
  .next (laneUn (.log2 d a) d a (fun _ a => word (Sys2Proof.log2 a.toNat)) s)

/-- SIN (R99). -/
def execSin (d : Code) (a : Code) (s : State) : Host.Outcome State Fault Refusal :=
  .next (laneUn (.sin d a) d a (fun _ a => word (Sys2Proof.sin a.toNat)) s)

/-- COS (R99). -/
def execCos (d : Code) (a : Code) (s : State) : Host.Outcome State Fault Refusal :=
  .next (laneUn (.cos d a) d a (fun _ a => word (Sys2Proof.cos a.toNat)) s)

/-- TANH (R99). -/
def execTanh (d : Code) (a : Code) (s : State) : Host.Outcome State Fault Refusal :=
  .next (laneUn (.tanh d a) d a (fun _ a => word (Sys2Proof.tanh a.toNat)) s)

/-- SIGM (R99). -/
def execSigm (d : Code) (a : Code) (s : State) : Host.Outcome State Fault Refusal :=
  .next (laneUn (.sigm d a) d a (fun _ a => word (Sys2Proof.sigm a.toNat)) s)

end Sys2Proof.Machine
end

