-- ==== Sys2Proof/Machine/Matrix.lean ====
section
/-! DEFINITION. The matrix engine and drains (R161 to R177), with the islands that supply it (R187, R203). -/

namespace Sys2Proof.Machine

open Sys2Proof

/-! ### Octets (R162) -/

/-- The positions of the wave's octet j, and those of the octet that stand in a list. -/
def octetPositions (j : Nat) : List Nat := upFrom (8 * j) 8
def inOctet (j : Nat) (ps : List Nat) : List Nat := ps.filter fun p => p / 8 == j

/-- Octet j takes part: all 8 of its threads are members of the issue group; one that a noted cause stops is still a member (R12, R433). The octet then acts
for the others (DESIGN CHOICE, log 53). -/
def State.takesPart (s : State) (j : Nat) : Bool := (octetPositions j).all s.cur.full.contains

/-- The wave's octets, by number from its first lane. -/
def State.waveOctets (s : State) : List Nat := List.range (s.me.width / 8)

/-- The octets that take part. -/
def State.partOctets (s : State) : List Nat := s.waveOctets.filter s.takesPart

/-- The absolute octet of the core for the wave's octet j. -/
def State.coreOctet (s : State) (j : Nat) : Nat := s.me.base / 8 + j

/-- ILL of R162 in one member: a tile beyond 127, or an octet with some members but not all. -/
def State.octetIll (s : State) (tile p : Nat) : Bool := 127 < tile + s.me.width / 8 - 1 || !s.takesPart (p / 8)

/-- The members of an octet all raise one cause. -/
def octetFails (s : State) (mem : List Nat) (r : Raised) : Done := { st := s, ok := [], raised := raiseAll mem r }

/-- The cause that stops an octet is one that SOFTERR goes before (R45). -/
def Raised.afterSoft : Raised → Bool
  | .trap .poison _ _ | .trap .tarnr _ _ | .trap .drain _ _ => true
  | _ => false

/-- Every member of an octet raises a cause; one with an uncorrectable error of its own raises SOFTERR where that goes before it (R45, R177). -/
def octetStops (s : State) (bad : Nat → Bool) (mem : List Nat) (r : Raised) : Done :=
  { st := s, ok := [], raised := mem.map fun p => (p, if r.afterSoft && bad p then s.trapAt .softerr 0 else r) }

/-- Octets act one after another, each with its members. -/
def eachOctet (f : State → Nat → List Nat → Done) (ps : List Nat) : State → List Nat → Done
  | s, [] => { st := s, ok := [], raised := [] }
  | s, j :: t =>
    let mem := inOctet j ps
    if mem.isEmpty then eachOctet f ps s t
    else
      let d := f s j mem
      let r := eachOctet f ps d.st t
      { st := r.st, ok := d.ok ++ r.ok, raised := d.raised ++ r.raised }

/-! ### Islands (R187, R203) -/

/-- The octets of a wave that its matrix unit cannot use now: an occupied unit (R163), or an island that is not NOMINAL. An island in NEAR
starts its switch, which takes 450 clk. -/
def State.matrixBusy (s : State) (ps : List Nat) : Option State :=
  let octets := (s.partOctets.filter fun j => !(inOctet j ps).isEmpty).map s.coreOctet
  let core := s.core s.myCore
  let cl := s.myCluster
  let mode (o : Nat) : Island := (s.cluster cl).islands.get .nominal (islandOf s.myCore o)
  let switch := octets.filter fun o => mode o == .near
  if octets.any fun o => mode o != .nominal then
    some (foldState (fun o s => s.modCluster cl fun c =>
      { c with islands := c.islands.put (islandOf s.myCore o) (.switching (s.clock + 450)) }) switch s)
  else if octets.any fun o => s.clock < core.occupied.get 0 o then some s
  else none

/-- Members of a wave occupy an octet of an island in NEAR, which holds issue for one further clk (R203). -/
def State.occupiesNear (s : State) (k : Nat) (ps : List Nat) : Bool :=
  let core := coreOfWave k
  ps.any fun p => (s.cluster (clusterOfCore core)).islands.get .nominal (islandOf core ((s.wave k).base / 8 + p / 8)) == .near

/-- An octet's unit is occupied from now on, and its island has issued matrix work (R163, R203). -/
def State.occupy (s : State) (o n : Nat) : State :=
  let s := s.modCore s.myCore fun c => { c with occupied := c.occupied.put o (s.clock + n) }
  s.modCluster s.myCluster fun c => { c with islandQuiet := c.islandQuiet.put (islandOf s.myCore o) s.clock }

/-! ### Tiles (R139) -/

/-- An accumulator element's key. -/
def tileKey (tile r n : Nat) : Nat := 128 * tile + 16 * r + n

def CoreSt.acc (c : CoreSt) (tile r n : Nat) : BitVec 36 := c.tiles.get 0 (tileKey tile r n)

/-- Writes one row of a tile; written elements lose their error mark. -/
def CoreSt.putRow (c : CoreSt) (tile r : Nat) (vals : List (BitVec 36)) : CoreSt :=
  { c with
    tiles := (List.range 16).foldl (fun t n => t.putD 0 (tileKey tile r n) (vals.getD n 0)) c.tiles
    badTiles := c.badTiles.filter fun k => !(tileKey tile r 0 ≤ k && k < tileKey tile r 0 + 16) }

/-- Whether some element of some rows of a tile holds an uncorrectable error. -/
def CoreSt.badAcc (c : CoreSt) (tile : Nat) (rows : List Nat) : Bool :=
  c.badTiles.any fun k => rows.any fun r => tileKey tile r 0 ≤ k && k < tileKey tile r 0 + 16

/-- Reading some rows of a tile corrects the single-bit errors in them (R141). -/
def State.meetAcc (s : State) (tile : Nat) (rows : List Nat) : State :=
  s.meetSites fun x =>
    match x with
    | .accElement c t r _ => c == s.myCore && t == tile && rows.contains r
    | .register _ _ _ | .slotState _ | .tarnWord _ _ | .codeSlot _ _ | .barrier _ | .fifoEntry _ _ _ | .channel _ _ | .reservoir _
    | .l2Line _ _ | .llcLine _ | .directory _ | .watchEntry _ | .rayQuery _ | .builderState _ => false

/-- ExactSum of R74 for one accumulator element. -/
def accumulate (c : BitVec 36) (a b : List FVal) : BitVec 36 :=
  BitVec.ofNat 36 (f36.round .rne (exactSum (f36.dec c.toNat :: List.zipWith FVal.mul a b)))

/-! ### MMA -/

/-- K of a type, and the octet occupancy (R163). -/
def mmaK (mtype : Nat) : Nat := let a := mtype % 16; if a ≤ 1 then 16 else if a ≤ 3 then 32 else 48
def mmaOccupancy (mtype : Nat) : Nat :=
  let a := mtype % 16
  if a < 4 then (if bit mtype 4 then 4 else 8) else ceilDiv (3 * (a - 2)) 2

/-- Element k of a dense row image (R163). -/
def rowElement (atype img k : Nat) : FVal :=
  match atype with
  | 0 => bf16.dec (fld img (16 * k) 16)
  | 1 => fp16.dec (fld img (16 * k) 16)
  | 2 => e4m3.dec (fld img (8 * k) 8)
  | 3 => e5m2.dec (fld img (8 * k) 8)
  | m => bfpElement img (m - 2) k

/-- The metadata of row r (R166). -/
def Wave.metadata (w : Wave) (atype r : Nat) : Nat :=
  if atype ≤ 1 then fld (w.w.get 0 (8 + r / 2)).toNat (16 * (r % 2)) 16 else (w.w.get 0 (8 + r)).toNat

/-- A nibble in use names its two positions out of order. -/
def badMetadata (k md : Nat) : Bool := (List.range (k / 4)).any fun g => fld md (4 * g + 2) 2 ≤ fld md (4 * g) 2

/-- The expanded row of a sparse fragment (R166). -/
def sparseRow (atype k img md : Nat) : List FVal :=
  (List.range k).map fun j =>
    let g := j / 4
    if j % 4 = fld md (4 * g) 2 then rowElement atype img (2 * g)
    else if j % 4 = fld md (4 * g + 2) 2 then rowElement atype img (2 * g + 1)
    else .zero false

/-- Row r of A for the thread at a position. -/
def State.rowOf (s : State) (a : Code) (p : Nat) : List FVal :=
  let mt := s.me.mtype.toNat
  let at_ := mt % 16
  let img := (List.range (fragmentRegs mt)).foldl (fun n j => n + (s.me.readCode p (a + BitVec.ofNat 8 j)).toNat * 2 ^ (32 * j)) 0
  if bit mt 4 then sparseRow at_ (mmaK mt) img (s.me.metadata at_ (p % 8))
  else (List.range (mmaK mt)).map (rowElement at_ img)

/-- The window formats that a type accepts for B (R164). -/
def acceptsB (atype fmt : Nat) : Bool :=
  if atype ≤ 1 then fmt == 2 || fmt == 3 else if atype ≤ 3 then 4 ≤ fmt && fmt ≤ 7 else 8 ≤ fmt && fmt ≤ 14

/-- Where the B operand of an octet lies (R164): its window and units, the index of its first element, the offset in the window's share at which its
bytes begin, and the core, offset and length of those bytes. -/
structure BRange where
  window : Window
  units : Units
  first : Nat
  low : Nat
  core : Nat
  at_ : Nat
  len : Nat
  deriving DecidableEq, Repr

/-- The range of B from its Tarn address, or FMTMIX, then TARNR (R164). -/
def State.bRange (s : State) (ta : Nat) : Except Cause BRange :=
  let mt := s.me.mtype.toNat
  let n := 16 * mmaK mt
  match (if inControl ta then none else s.myTeam.windowAt (tarnOffset ta)) with
  | none => .error .fmtmix
  | some w =>
    match unitsOf w.fmt with
    | none => .error .fmtmix
    | some u =>
      let i := w.index u (tarnOffset ta)
      if !acceptsB (mt % 16) w.fmt ∨ u.capacity w.len < i + n then .error .fmtmix
      else
        let lo := (w.unitAt u i).1
        let len := (w.unitAt u (i + n - 1)).1 + u.bytes - lo
        match s.tarnPlace s.myCore s.myTeam ta lo len with
        | none => .error .tarnr
        | some (c, at_) => .ok ⟨w, u, i, lo, c, at_, len⟩

/-- The 16 columns of B, each with its k elements (R164). -/
def State.columnsOf (s : State) (b : BRange) : List (List FVal) :=
  let k := mmaK s.me.mtype.toNat
  let bytes := (s.core b.core).tarnBytes b.at_ b.len
  (List.range 16).map fun n => (List.range k).map fun j =>
    let (o, pos) := b.window.unitAt b.units (b.first + k * n + j)
    b.units.element (leNat (slice bytes (o - b.low) b.units.bytes)) pos

/-- The codes of an A fragment (R163). -/
def State.fragmentCodes (s : State) (a : Code) : List Code :=
  (List.range (fragmentRegs s.me.mtype.toNat)).map fun n => a + BitVec.ofNat 8 n

/-- The range of B that an octet's lane-0 thread names, or what is raised before any Tarn word is read: ALIGN, FMTMIX and TARNR, with the address as
TVAL (R164, R177). -/
def State.bOperand (s : State) (z : Nat) (b : Code) : Except Raised BRange :=
  let ta := (s.src z [] b).toNat
  match s.lateFault z [b] with
  | some r => .error r
  | none =>
    if ta % 4 ≠ 0 then .error (s.trapAt .align (word ta))
    else
      match s.bRange ta with
      | .error c => .error (s.trapAt c (word ta))
      | .ok r => .ok r

/-- The single-bit errors that an MMA meets in the fragments of some members, in B and in the rows of its tile (R141). -/
def State.meetMma (s : State) (ps : List Nat) (frag : List Code) (b : BRange) (tile : Nat) : State :=
  let s := (s.meetTarn b.core b.at_ b.len).meetAcc tile (ps.map (· % 8))
  s.meetSites fun x =>
    match x with
    | .register w p c => w == s.cur.wave && ps.contains p && frag.any fun r => r.toNat == c
    | .slotState _ | .tarnWord _ _ | .accElement _ _ _ _ | .codeSlot _ _ | .barrier _ | .fifoEntry _ _ _ | .channel _ _ | .reservoir _
    | .l2Line _ _ | .llcLine _ | .directory _ | .watchEntry _ | .rayQuery _ | .builderState _ => false

/-- MMA in one octet (R165): threads whose fragment holds an error raise SOFTERR, the rows of the others are updated. -/
def mmaOctet (tile : Nat) (a b : Code) (s : State) (j : Nat) (mem : List Nat) : Done :=
  let t := tile + j
  let frag := s.fragmentCodes a
  let own (p : Nat) : Bool := frag.any fun c => (s.me.thread p).bad.contains c.toNat
  let acc := (s.core s.myCore).badAcc t ((mem.filter fun p => !own p).map (· % 8))
  match s.bOperand (8 * j) b with
  | .error r => octetStops s (fun p => acc || own p) mem r
  | .ok r =>
    match acc, (s.core r.core).tarnFault r.at_ r.len with
    | true, _ => octetFails s mem (s.trapAt .softerr 0)
    | false, some c => octetStops s own mem (s.trapAt c 0)
    | false, none =>
      let (ok, rs) := splitFront (fun p => if own p then some (s.trapAt .softerr 0) else none) mem
      let s := s.meetMma ok frag r t
      let cols := s.columnsOf r
      let s' := foldState (fun p x =>
        let row := s.rowOf a p
        x.modCore x.myCore fun c =>
          c.putRow t (p % 8) ((List.range 16).map fun n => accumulate (c.acc t (p % 8) n) row (cols.getD n []))) ok s
      { st := s'.occupy (s.coreOctet j) (mmaOccupancy s.me.mtype.toNat), ok := ok, raised := rs }

/-- The ILL and LATCH causes that the matrix rules decide for a member before shots (R162, R163, R166). -/
def State.mmaCheck (s : State) (tile : Nat) (b : Code) (p : Nat) : Option Raised :=
  let mt := s.me.mtype.toNat
  if s.octetIll tile p then some (s.trapAt .ill s.cur.first)
  else if bit mt 4 && (List.range 8).any fun r => badMetadata (mmaK mt) (s.me.metadata (mt % 16) r) then
    some (s.trapAt .ill s.cur.first)
  else (latchFault (s.me.thread (p / 8 * 8)) [b]).map fun c => s.trapAt .latch (c.zeroExtend 32)

/-- A fragment hold of the operand collectors (R167): the MMA's own when the free bit accepts its REUSE request, else none. -/
def State.collect (s : State) (octets : List Nat) (reuse : Bool) (a : Code) : State :=
  let mt := s.me.mtype
  let (b, s) := s.freeBit
  s.modWave s.cur.wave fun w =>
    { w with collector := if reuse && b then octets.map fun o => (o, a.toNat, fragmentRegs mt.toNat, mt) else [] }

/-- MMA (R165). -/
def execMma (t : BitVec 7) (r : BitVec 1) (a b : Code) (s : State) : Host.Outcome State Fault Refusal :=
  .next (s.runWith (.mma t r a b) (s.mmaCheck t.toNat b) s.matrixBusy (if s.me.mtype.getLsbD 4 then 4 else 6) fun s ps =>
    let d := eachOctet (mmaOctet t.toNat a b) ps s s.partOctets
    { d with st := d.st.collect (s.partOctets.map s.coreOctet) (r == 1#1) a })

/-! ### MVS -/

/-- The translation that the window keeps for an address of the issuing wave's space: the leaf and its level (R249). -/
def State.windowLeaf (s : State) (va : Nat) : Option (Nat × Nat) :=
  match (s.die s.myDie).swin with
  | none => none
  | some w =>
    if w.asid = s.me.space.asid ∧ w.base ≤ va ∧ va < w.base + w.len then (w.pages.find? fun x => x.1 / 65536 == va / 65536).map fun x => x.2
    else none

/-- A physical range lies in the granules of the window. -/
def StreamWin.covers (w : StreamWin) (pa len : Nat) : Bool :=
  [pa, pa + len - 1].all fun a => w.pages.any fun x => physicalAddress x.2.1 x.2.2 x.1 / 65536 == a / 65536

/-- Where the weights of a stream address lie (R169): their leaf, units and first index; or what is raised before one is read. An address
in the window keeps SWIN's translation; any other is translated, and then it is PROT (R249). -/
def State.weightSpot (s : State) (va : Nat) : Except Raised (Nat × Units × Nat) × State :=
  match s.windowLeaf va with
  | none =>
    match s.translate s.myDie s.me.space s.me.priv false va s.myCore with
    | (.error r, s) => (.error (s.refusal .read r), s)
    | (.ok _, s) => (.error (s.trapAt .prot (word va)), s)
  | some (e, level) =>
    if !readable s.me.priv e then (.error (s.trapAt .prot (word va)), s)
    else
      match unitsOf (pteFmt e) with
      | none => (.error (s.trapAt .fmtmix (word va)), s)
      | some u =>
        let i := firstIndex u e level va 4
        if u.capacity (frameSize level) < i + 256 then (.error (s.trapAt .fmtmix (word va)), s)
        else if (unitsFor u e i 256).all fun pa => (s.die s.myDie).swin.any fun w => w.covers pa u.bytes then (.ok (e, u, i), s)
        else (.error (s.trapAt .prot (word va)), s)

/-- MVS in one octet (R169): row 0 of the tile. An error in any register that a thread of the octet reads is raised in all of them. -/
def mvsOctet (tile : Nat) (a b : Code) (s : State) (j : Nat) (mem : List Nat) : Done :=
  let z := 8 * j
  let t := tile + j
  let va := (s.src64 z b).toNat
  let late := (octetPositions j).findSome? fun p => s.lateFault p (if p = z then [a] ++ pairCodes b else [a])
  let soft := late == some (s.trapAt .softerr 0) || (s.core s.myCore).badAcc t [0]
  match s.lateSoft z (pairCodes b) with
  | some r => octetFails s mem r
  | none =>
    if va % 4 ≠ 0 then octetFails s mem (s.trapAt .align (word va))
    else
      match s.weightSpot va with
      | (.error r, s) => octetFails s mem r
      | (.ok (e, u, i), s) =>
        let units := unitsFor u e i 256
        match soft, s.unitsPoison s.myDie u units, late with
        | true, _, _ => octetFails s mem (s.trapAt .softerr 0)
        | false, some pa, _ => octetFails s mem (s.trapAt .poison (lineTval pa))
        | false, none, some r => octetFails s mem r
        | false, none, none =>
          let s := foldState (fun pa s => s.touchRgn s.myDie pa false) units (s.meetAcc t [0])
          let x : List FVal := (octetPositions j).flatMap fun p => bf16Pair (s.src p [] a)
          let col (n : Nat) : List FVal := (List.range 16).map fun k => s.elementAt s.myDie u e (i + 16 * n + k)
          let s := s.modCore s.myCore fun c => c.putRow t 0 ((List.range 16).map fun n => accumulate (c.acc t 0 n) x (col n))
          { st := s.occupy (s.coreOctet j) 0, ok := mem, raised := [] }

/-- The ILL and LATCH causes of MVS before shots: an invalid latch that any thread of the octet reads is raised in all of them. -/
def State.mvsCheck (s : State) (tile : Nat) (a b : Code) (p : Nat) : Option Raised :=
  let z := p / 8 * 8
  if s.octetIll tile p then some (s.trapAt .ill s.cur.first)
  else ((octetPositions (p / 8)).findSome? fun q =>
    latchFault (s.me.thread q) (if q = z then [a] ++ pairCodes b else [a])).map fun c => s.trapAt .latch (c.zeroExtend 32)

/-- MVS (R169). -/
def execMvs (t : BitVec 7) (a b : Code) (s : State) : Host.Outcome State Fault Refusal :=
  .next (s.runWith (.mvs t a b) (s.mvsCheck t.toNat a b) s.matrixBusy 3 fun s ps =>
    eachOctet (mvsOctet t.toNat a b) ps s s.partOctets)

/-! ### MZERO, MCFG, MTBL -/

/-- ILL of R162 for the unpriced octet instructions. -/
def State.octetCheck (s : State) (tile p : Nat) : Option Raised :=
  if s.octetIll tile p then some (s.trapAt .ill s.cur.first) else none

/-- MZERO (R170). -/
def execMzero (t : BitVec 7) (s : State) : Host.Outcome State Fault Refusal :=
  .next (s.runWith (.mzero t) (s.octetCheck t.toNat) (fun _ => none) 0 fun s ps =>
    eachOctet (fun s j mem =>
      { st := s.modCore s.myCore fun c => (List.range 8).foldl (fun c r => c.putRow (t.toNat + j) r []) c, ok := mem, raised := [] })
      ps s s.partOctets)

/-- A legal MTYPE (R161). -/
def mtypeOk (v : Word) : Bool :=
  let n := v.toNat
  n < 32 && n % 16 ≤ 10 && !(bit n 4 && 4 ≤ n % 16)

/-- MCFG (R161): collector holds end (R167). -/
def execMcfg (a : Code) (s : State) : Host.Outcome State Fault Refusal :=
  .next (s.runUnit (.mcfg a) 0 (reading (.mcfg a) (once fun s p =>
    let v := s.src p [] a
    if mtypeOk v then .ok (s.modWave s.cur.wave fun w => { w with mtype := v, collector := [] })
    else .error (s.trapAt .ill s.cur.first))))

/-- A raw Tarn range of an instruction's own, as its bytes and the state once they are read: TARNR, then the causes of reading it. -/
def State.rawTarn (s : State) (ta len : Nat) : Except Raised (List Byte × State) :=
  match s.tarnPlace s.myCore s.myTeam ta (tarnOffset ta) len with
  | none => .error (s.trapAt .tarnr (word ta))
  | some (c, at_) =>
    match (s.core c).tarnFault at_ len with
    | some x => .error (s.trapAt x 0)
    | none => .ok ((s.core c).tarnBytes at_ len, s.meetTarn c at_ len)

/-- The entries of an activation table from its bytes: intercept in the high word, slope in the low word (R171). -/
def tableEntries (k : Nat) (bytes : List Byte) (acts : Tab Word64) : Tab Word64 :=
  (List.range 256).foldl (fun t i => t.putD 0 (256 * k + i) (BitVec.ofNat 64 (field bytes (8 * i) 8))) acts

/-- MTBL (R171). -/
def execMtbl (t : BitVec 2) (a : Code) (s : State) : Host.Outcome State Fault Refusal :=
  .next (s.runUnit (.mtbl t a) 0 (reading (.mtbl t a) (once fun s p =>
    let ta := (s.src p [] a).toNat
    if ta % 8 ≠ 0 then .error (s.trapAt .align (word ta))
    else
      match s.rawTarn ta 2048 with
      | .error r => .error r
      | .ok (bytes, s) => .ok (s.modCore s.myCore fun c =>
          { c with acts := tableEntries t.toNat bytes c.acts, actsLoaded := c.actsLoaded ||| (1#4 <<< t.toNat) }))))

/-! ### Drains -/

/-- A legal command word (R172). -/
def commandOk (v : Nat) : Bool :=
  fld v 8 24 == 0 && fld v 5 2 != 3 && (bit v 4 || (fld v 5 2 == 0 && !bit v 7)) && (bit v 1 || fld v 2 2 == 0)

/-- The requantisation format. -/
def quantFmt (v : Nat) : Fmt := match fld v 5 2 with | 0 => bf16 | 1 => e4m3 | _ => e5m2

/-- The activation step of R173 on FP32 bits. -/
def activate (acts : Tab Word64) (table x : Nat) : Nat :=
  match fp32.dec x with
  | .nan => fp32.nan
  | v =>
    let i := ofBool (bit x 31) * 128 + min 127 (fld x 23 8 - 64)
    let e := (acts.get 0 (256 * table + i)).toNat
    if v.isInf then fld e 32 32 else fp32.fma .rne (fld e 0 32) x (fld e 32 32)

/-- The chain of R173 for one element: the accumulator value, the bias, the command, the scale. An exact sum of two zeros of sign −0 is +0, which
the spec leaves open (log 56). -/
def chain (acts : Tab Word64) (cmd : Nat) (scale cv bias : Nat) : Word :=
  let v := if bit cmd 0 then exactSum [f36.dec cv, fp32.dec bias] else f36.dec cv
  let x := fp32.sat .rne v
  let x := if bit cmd 1 then activate acts (fld cmd 2 2) x else x
  word (if bit cmd 4 then (quantFmt cmd).sat (if bit cmd 7 then .rtz else .rne) ((fp32.dec x).mul (fp32.dec scale)) else x)

/-- The command, bias address and scale registers of MDRAIN. -/
def State.drainWords (s : State) (a : Code) : Nat × Nat × Nat :=
  let k := a.toNat - 0xE0
  ((s.me.w.get 0 k).toNat, (s.me.w.get 0 (k + 1)).toNat, (s.me.w.get 0 (k + 2)).toNat)

/-- MDRAIN in one octet (R172 to R174). -/
def mdrainOctet (tile : Nat) (a : Code) (s : State) (j : Nat) (mem : List Nat) : Done :=
  let (cmd, bias, scale) := s.drainWords a
  let ta := (bias + 64 * j) % 2 ^ 32
  let t := tile + j
  let core := s.core s.myCore
  let o := s.coreOctet j
  if bit cmd 0 && ta % 4 != 0 then octetFails s mem (s.trapAt .align (word ta))
  else
    match (if bit cmd 0 then s.rawTarn ta 64 else .ok (zeros 64, s)) with
    | .error r => octetFails s mem r
    | .ok (bytes, s) =>
      if (core.drains.find o).any fun d => d.wave == s.cur.wave then octetFails s mem (s.trapAt .drain 0)
      else
        let vals := (List.range 128).map fun i =>
          chain core.acts cmd scale (core.acc t (i / 16) (i % 16)).toNat (field bytes (4 * (i % 16)) 4)
        let bad := (List.range 128).filter fun i => core.badTiles.contains (128 * t + i)
        let s := (s.meetAcc t (List.range 8)).modCore s.myCore fun c =>
          { c with drains := c.drains.put o { wave := s.cur.wave, tile := t, vals := vals, badCols := bad, start := s.clock } }
        { st := foldState (fun p s => s.modThread s.cur.wave p fun x => { x with drainPos := 0 }) mem s, ok := mem, raised := [] }

/-- MDRAIN's ILL causes (R162, R172). -/
def State.mdrainCheck (s : State) (tile : Nat) (a : Code) (p : Nat) : Option Raised :=
  if s.octetIll tile p || !commandOk (s.drainWords a).1 then some (s.trapAt .ill s.cur.first) else none

/-- MDRAIN waits in place while another wave holds the context of an octet that takes part, also where its own wave holds another's, for which it raises
DRAIN once it need not wait (R174; the order is the model's choice, log 53). -/
def State.mdrainBusy (s : State) (ps : List Nat) : Option State :=
  let c := s.core s.myCore
  if s.partOctets.any fun j => !(inOctet j ps).isEmpty && (c.drains.find (s.coreOctet j)).any fun d => d.wave != s.cur.wave then
    some s.waits
  else none

/-- MDRAIN (R172). -/
def execMdrain (t : BitVec 7) (a : Code) (s : State) : Host.Outcome State Fault Refusal :=
  .next (s.runWith (.mdrain t a) (s.mdrainCheck t.toNat a) s.mdrainBusy 0 fun s ps =>
    eachOctet (mdrainOctet t.toNat a) ps s s.partOctets)

/-- The status word of R176 for one member. -/
def State.mstatWord (s : State) (p : Nat) : Word :=
  let c := s.core s.myCore
  let o := s.me.octetOf p
  let hold := s.me.collector.any fun h => h.1 == o
  let tbl := c.actsLoaded.toNat * 2 ^ 16 + ofBool hold * 2 ^ 7
  word (match c.drains.find o with
    | none => tbl
    | some d =>
      if d.wave = s.cur.wave then tbl + d.tile * 2 ^ 8 + 2 ^ 5 + min 16 (s.me.thread p).drainPos
      else tbl + d.tile * 2 ^ 8 + 2 ^ 6)

/-- MSTAT (R176). -/
def execMstat (d : Code) (s : State) : Host.Outcome State Fault Refusal :=
  .next (s.runUnit (.mstat d) 0 (allDone fun s ps => s.writeEach ps d s.mstatWord))

/-- DRAIN_COLUMN_READY (R175): the next column of an octet's drain becomes readable, no earlier than 12 + c clk after its MDRAIN. -/
def execDrainColumnReady (core octet : Nat) (s : State) : Host.Outcome State Fault Refusal :=
  match (s.core core).drains.find octet with
  | none => .next s
  | some d =>
    if d.ready < 16 ∧ d.start + 12 + d.ready ≤ s.clock then
      .next (s.modCore core fun c => { c with drains := c.drains.put octet { d with ready := d.ready + 1 } })
    else .next s

/-! ### Islands -/

/-- Whether an island of a cluster exists and is held NOMINAL by an ISO gang's wave (R203). -/
def State.isoIsland (s : State) (cl q : Nat) : Bool :=
  s.waves.any fun w =>
    clusterOfWave w.1 == cl && pairOfCore (coreOfWave w.1) == q / 4 &&
      bit (s.launch w.2.launch).rcd.flags 2

/-- ISLAND_ENTER_NEAR (R203): after 16,384 clk without MMA or MVS an island enters NEAR, unless an ISO gang holds it NOMINAL. That its
memory waits exceed its issue is the hardware's to see, and is what this step stands for. -/
def execIslandEnterNear (cl q : Nat) (s : State) : Host.Outcome State Fault Refusal :=
  let c := s.cluster cl
  if c.islands.get .nominal q = .nominal ∧ c.islandQuiet.get 0 q + 16384 ≤ s.clock ∧ q < 16 ∧ !s.isoIsland cl q then
    .next (s.modCluster cl fun c => { c with islands := c.islands.put q .near })
  else .next s

/-- ISLAND_SWITCH_NOMINAL (R203): the 450-clk switch ends. -/
def execIslandSwitchNominal (cl q : Nat) (s : State) : Host.Outcome State Fault Refusal :=
  match (s.cluster cl).islands.get .nominal q with
  | .switching n =>
    if n ≤ s.clock then .next (s.modCluster cl fun c => { c with islands := c.islands.put q .nominal }) else .next s
  | .nominal | .near => .next s

/-- MC_NOMINAL_DEMAND (R203): the MC starts an island's return to NOMINAL. -/
def execMcNominalDemand (cl q : Nat) (s : State) : Host.Outcome State Fault Refusal :=
  if (s.cluster cl).islands.get .nominal q = .near then
    .next (s.modCluster cl fun c => { c with islands := c.islands.put q (.switching (s.clock + 450)) })
  else .next s

/-- NTHINT (R204, R226): the hardware may follow a hint or not, which a free bit decides. An island that follows hint 2 is NOMINAL at once: the next
MMA or MVS finds it so. -/
def execNthint (h : BitVec 2) (s : State) : Host.Outcome State Fault Refusal :=
  .next (s.runUnit (.nthint h) 0 (allDone fun s _ =>
    let (b, s) := s.freeBit
    let cl := s.myCluster
    let islands := (s.me.octets.map (islandOf s.myCore)).dedup
    if !b then s
    else foldState (fun q s =>
      let m := (s.cluster cl).islands.get .nominal q
      if h = 1 ∧ m = .nominal ∧ !s.isoIsland cl q then s.modCluster cl fun c => { c with islands := c.islands.put q .near }
      else if h = 2 ∧ m ≠ .nominal then s.modCluster cl fun c => { c with islands := c.islands.put q .nominal }
      else s) islands s))

end Sys2Proof.Machine
end

