-- ==== Sys2Proof/Machine/Streams.lean ====
section
/-! DEFINITION. Streams (R274, R275, R321). -/

namespace Sys2Proof.Machine

open Sys2Proof

def State.stream (s : State) (d n : Nat) : Stream := (s.die d).streams.get {} n
def State.modStream (s : State) (d n : Nat) (f : Stream → Stream) : State :=
  s.modDie d fun x => { x with streams := x.streams.put n (f (x.streams.get {} n)) }

/-- STREAM_ENABLE (R274): the entry, whose EN a store has set, is read, and the stream is empty. It happens no later than the next use of the stream
or the next store to its entry, whether the agenda names it or not. -/
def execStreamEnable (die n : Nat) (s : State) : Host.Outcome State Fault Refusal := .next (s.settleStream die n)

/-- The issuing wave may use a stream: it is enabled, and its context is the wave's. -/
def State.mayUseStream (s : State) (n : Nat) : Bool :=
  let d := s.myDie
  let x := s.stream d n
  x.en && bit (s.viewNat d (s.streamEntry d n + 0x0B) 1) 0 && x.ctx == s.me.space.ctx

/-- The launch's task record, under which it is a producer (R275). -/
def State.producerKey (s : State) : Nat × Nat := (s.myLaunch.queue, s.myLaunch.pos)

/-- A producer may not put or end: it has sent its EOS, or it would be producer NPROD + 1 (R275). -/
def Stream.closedTo (x : Stream) (key : Nat × Nat) : Bool :=
  x.eos.contains key || (!x.producers.contains key && x.nprod ≤ x.producers.length)

def Stream.register (x : Stream) (key : Nat × Nat) : Stream :=
  if x.producers.contains key then x else { x with producers := x.producers ++ [key] }

/-- NPROD distinct producers have sent EOS (R275). -/
def Stream.ended (x : Stream) : Bool := x.nprod ≤ x.eos.length

def Stream.capacity (x : Stream) : Nat := 2 ^ x.logcap
def Stream.word (x : Stream) (i : Nat) : Nat := x.base + 4 * (i % x.capacity)

/-- The causes that a stream instruction raises in every member, once their operands are read (R321). -/
def State.streamCause (s : State) (n : Nat) (producer : Bool) : Option Raised :=
  if !s.mayUseStream n then some (s.trapAt .prot (word n))
  else if producer && (s.stream s.myDie n).closedTo s.producerKey then some (s.trapAt .eosafter (word n))
  else none

/-- One member's entry is appended by an ordinary store to its ring word. -/
def putMember (n : Nat) (a : Code) (_lead : Bool) (s : State) (p : Nat) : Except Raised State :=
  let d := s.myDie
  let x := s.stream d n
  let va := x.word x.tail
  match s.access formW true .write va with
  | (.error r, _) => .error r
  | (.ok spot, s) =>
    let t := s.touchSpot d spot
    .ok (if t.cur.blocked then t else (t.storeSpot formW p va [s.src p [] a] spot).modStream d n fun x => { x with tail := x.tail + 1 })

/-- STRM.PUT (R321): the entries of the members are appended as one step, once the ring has room for all and every store can be made. -/
def execStrmPut (sel a : Code) (s : State) : Host.Outcome State Fault Refusal :=
  let n := sel.toNat
  .next (s.runUnit (.strmPut sel a) 0 fun s ps =>
    let (ok, rs) := s.readSplit (.strmPut sel a) ps
    if ok.isEmpty then { st := s, ok := [], raised := rs }
    else
      let s := s.settleStream s.myDie n
      match s.streamCause n true with
      | some r => { st := s, ok := [], raised := rs ++ raiseAll ok r }
      | none =>
        let x := s.stream s.myDie n
        if x.capacity < x.tail + ok.length - x.head then { st := s.waits.hold, ok := [], raised := [] }
        else
          let d := together (fun s ps => inTurn (putMember n a) (s.modStream s.myDie n fun x => x.register s.producerKey) ps) s ok
          { d with raised := rs ++ d.raised })

/-- One member's entry is taken by an ordinary load of its ring word, or the member learns of the end: D and M7 (R321). The get is an acquire at DIE
scope, so that its loads do not stay open. -/
def getMember (n : Nat) (dst : Code) (lead : Bool) (s : State) (p : Nat) : Except Raised State :=
  let d := s.myDie
  let x := s.stream d n
  let flag (s : State) (b : Bool) : State := s.modThread s.cur.wave p fun t => t.setPred 7 b
  if x.tail ≤ x.head then .ok (flag (s.writeLead lead p dst 0) false)
  else
    let va := x.word x.head
    match s.loadAt formW lead p dst va true with
    | .error (.trap .poison at_ _) => .error (.trap .poison at_ (word va))
    | .error r => .error r
    | .ok t => .ok (if t.cur.blocked then t else flag ({ t with cur := s.cur }.modStream d n fun x => { x with head := x.head + 1 }) true)

/-- STRM.GET (R321). -/
def execStrmGet (dst sel : Code) (s : State) : Host.Outcome State Fault Refusal :=
  let n := sel.toNat
  .next (s.runUnit (.strmGet dst sel) 0 fun s ps =>
    let s := s.settleStream s.myDie n
    match s.streamCause n false with
    | some r => { st := s, ok := [], raised := raiseAll ps r }
    | none =>
      let x := s.stream s.myDie n
      if x.tail - x.head < ps.length ∧ !x.ended then { st := s.waits.hold, ok := [], raised := [] }
      else together (inTurn (getMember n dst)) s ps)

/-- STRM.EOS (R321). -/
def execStrmEos (sel : Code) (s : State) : Host.Outcome State Fault Refusal :=
  let n := sel.toNat
  .next (s.runUnit (.strmEos sel) 0 fun s ps =>
    let s := s.settleStream s.myDie n
    match s.streamCause n true with
    | some r => { st := s, ok := [], raised := raiseAll ps r }
    | none =>
      { st := s.modStream s.myDie n fun x => { x.register s.producerKey with eos := x.eos ++ [s.producerKey] }
        ok := ps, raised := [] })

end Sys2Proof.Machine
end

