-- ==== Sys2Proof/Machine/Dispatch.lean ====
section
/-! DEFINITION. One arm per constructor of Instr: a direct call of its meaning, or a refusal by name. -/

namespace Sys2Proof.Machine

open Sys2Proof

open Sys2Proof in /-- The meaning of an instruction or step. -/ noncomputable def exec (i : Instr) (s : State) : Host.Outcome State Fault Refusal :=
  match i with
  | .iadd d a b => Sys2Proof.Machine.execIadd d a b s
  | .isub d a b => Sys2Proof.Machine.execIsub d a b s
  | .imul d a b => Sys2Proof.Machine.execImul d a b s
  | .imulh d a b => Sys2Proof.Machine.execImulh d a b s
  | .imulhu d a b => Sys2Proof.Machine.execImulhu d a b s
  | .imad d a b => Sys2Proof.Machine.execImad d a b s
  | .imin d a b => Sys2Proof.Machine.execImin d a b s
  | .imax d a b => Sys2Proof.Machine.execImax d a b s
  | .iminu d a b => Sys2Proof.Machine.execIminu d a b s
  | .imaxu d a b => Sys2Proof.Machine.execImaxu d a b s
  | .and d a b => Sys2Proof.Machine.execAnd d a b s
  | .or d a b => Sys2Proof.Machine.execOr d a b s
  | .xor d a b => Sys2Proof.Machine.execXor d a b s
  | .andn d a b => Sys2Proof.Machine.execAndn d a b s
  | .shl d a b => Sys2Proof.Machine.execShl d a b s
  | .shrl d a b => Sys2Proof.Machine.execShrl d a b s
  | .shra d a b => Sys2Proof.Machine.execShra d a b s
  | .rotl d a b => Sys2Proof.Machine.execRotl d a b s
  | .bfx d a b => Sys2Proof.Machine.execBfx d a b s
  | .bfi d a b => Sys2Proof.Machine.execBfi d a b s
  | .iadd64 d a b => Sys2Proof.Machine.execIadd64 d a b s
  | .isub64 d a b => Sys2Proof.Machine.execIsub64 d a b s
  | .imulw d a b => Sys2Proof.Machine.execImulw d a b s
  | .imulwu d a b => Sys2Proof.Machine.execImulwu d a b s
  | .icmpEq m a b => Sys2Proof.Machine.execIcmpEq m a b s
  | .icmpNe m a b => Sys2Proof.Machine.execIcmpNe m a b s
  | .icmpLt m a b => Sys2Proof.Machine.execIcmpLt m a b s
  | .icmpLe m a b => Sys2Proof.Machine.execIcmpLe m a b s
  | .icmpLtu m a b => Sys2Proof.Machine.execIcmpLtu m a b s
  | .icmpLeu m a b => Sys2Proof.Machine.execIcmpLeu m a b s
  | .sel d a b => Sys2Proof.Machine.execSel d a b s
  | .iaddsat d a b => Sys2Proof.Machine.execIaddsat d a b s
  | .fadd d a b => Sys2Proof.Machine.execFadd d a b s
  | .fsub d a b => Sys2Proof.Machine.execFsub d a b s
  | .fmul d a b => Sys2Proof.Machine.execFmul d a b s
  | .ffma d a b => Sys2Proof.Machine.execFfma d a b s
  | .fmin d a b => Sys2Proof.Machine.execFmin d a b s
  | .fmax d a b => Sys2Proof.Machine.execFmax d a b s
  | .fcmpEq m a b => Sys2Proof.Machine.execFcmpEq m a b s
  | .fcmpLt m a b => Sys2Proof.Machine.execFcmpLt m a b s
  | .fcmpLe m a b => Sys2Proof.Machine.execFcmpLe m a b s
  | .fcmpUn m a b => Sys2Proof.Machine.execFcmpUn m a b s
  | .fcopysign d a b => Sys2Proof.Machine.execFcopysign d a b s
  | .fscale d a b => Sys2Proof.Machine.execFscale d a b s
  | .fdot2Bf16 d a b => Sys2Proof.Machine.execFdot2Bf16 d a b s
  | .fdot4E4m3 d a b => Sys2Proof.Machine.execFdot4E4m3 d a b s
  | .fdot4E5m2 d a b => Sys2Proof.Machine.execFdot4E5m2 d a b s
  | .hadd2Bf16 d a b => Sys2Proof.Machine.execHadd2Bf16 d a b s
  | .hmul2Bf16 d a b => Sys2Proof.Machine.execHmul2Bf16 d a b s
  | .hfma2Bf16 d a b => Sys2Proof.Machine.execHfma2Bf16 d a b s
  | .hmin2Bf16 d a b => Sys2Proof.Machine.execHmin2Bf16 d a b s
  | .hmax2Bf16 d a b => Sys2Proof.Machine.execHmax2Bf16 d a b s
  | .hadd2F16 d a b => Sys2Proof.Machine.execHadd2F16 d a b s
  | .hmul2F16 d a b => Sys2Proof.Machine.execHmul2F16 d a b s
  | .hfma2F16 d a b => Sys2Proof.Machine.execHfma2F16 d a b s
  | .hmin2F16 d a b => Sys2Proof.Machine.execHmin2F16 d a b s
  | .hmax2F16 d a b => Sys2Proof.Machine.execHmax2F16 d a b s
  | .pack2Bf16 d a b => Sys2Proof.Machine.execPack2Bf16 d a b s
  | .pack2F16 d a b => Sys2Proof.Machine.execPack2F16 d a b s
  | .pack4E4m3 d a b => Sys2Proof.Machine.execPack4E4m3 d a b s
  | .pack4E5m2 d a b => Sys2Proof.Machine.execPack4E5m2 d a b s
  | .bmix d a b => Sys2Proof.Machine.execBmix d a b s
  | .iaddi d imm => Sys2Proof.Machine.execIaddi d imm s
  | .andi d imm => Sys2Proof.Machine.execAndi d imm s
  | .ori d imm => Sys2Proof.Machine.execOri d imm s
  | .xori d imm => Sys2Proof.Machine.execXori d imm s
  | .movi d imm => Sys2Proof.Machine.execMovi d imm s
  | .movhi d imm => Sys2Proof.Machine.execMovhi d imm s
  | .shli d imm => Sys2Proof.Machine.execShli d imm s
  | .shrli d imm => Sys2Proof.Machine.execShrli d imm s
  | .shrai d imm => Sys2Proof.Machine.execShrai d imm s
  | .icmpiEq src m imm => Sys2Proof.Machine.execIcmpiEq src m imm s
  | .icmpiLt src m imm => Sys2Proof.Machine.execIcmpiLt src m imm s
  | .fmovi d imm => Sys2Proof.Machine.execFmovi d imm s
  | .lxPick d a b => Sys2Proof.Machine.execLxPick d a b s
  | .lxMirror d a b => Sys2Proof.Machine.execLxMirror d a b s
  | .lxRot d a b => Sys2Proof.Machine.execLxRot d a b s
  | .lxSlide d a b => Sys2Proof.Machine.execLxSlide d a b s
  | .ldB d a o => Sys2Proof.Machine.execLdB d a o s
  | .ldBs d a o => Sys2Proof.Machine.execLdBs d a o s
  | .ldH d a o => Sys2Proof.Machine.execLdH d a o s
  | .ldHs d a o => Sys2Proof.Machine.execLdHs d a o s
  | .ldW d a o => Sys2Proof.Machine.execLdW d a o s
  | .ldD d a o => Sys2Proof.Machine.execLdD d a o s
  | .ldQ d a o => Sys2Proof.Machine.execLdQ d a o s
  | .stB d a o => Sys2Proof.Machine.execStB d a o s
  | .stH d a o => Sys2Proof.Machine.execStH d a o s
  | .stW d a o => Sys2Proof.Machine.execStW d a o s
  | .stD d a o => Sys2Proof.Machine.execStD d a o s
  | .stQ d a o => Sys2Proof.Machine.execStQ d a o s
  | .ldc d a o => Sys2Proof.Machine.execLdc d a o s
  | .ldrawW d a o => Sys2Proof.Machine.execLdrawW d a o s
  | .strawW d a o => Sys2Proof.Machine.execStrawW d a o s
  | .atomAdd d a b => Sys2Proof.Machine.execAtomAdd d a b s
  | .atomSmin d a b => Sys2Proof.Machine.execAtomSmin d a b s
  | .atomSmax d a b => Sys2Proof.Machine.execAtomSmax d a b s
  | .atomUmin d a b => Sys2Proof.Machine.execAtomUmin d a b s
  | .atomUmax d a b => Sys2Proof.Machine.execAtomUmax d a b s
  | .atomAnd d a b => Sys2Proof.Machine.execAtomAnd d a b s
  | .atomOr d a b => Sys2Proof.Machine.execAtomOr d a b s
  | .atomXor d a b => Sys2Proof.Machine.execAtomXor d a b s
  | .atomXchg d a b => Sys2Proof.Machine.execAtomXchg d a b s
  | .atomCas d a b => Sys2Proof.Machine.execAtomCas d a b s
  | .atomFadd d a b => Sys2Proof.Machine.execAtomFadd d a b s
  | .atomaggAdd d a b => Sys2Proof.Machine.execAtomaggAdd d a b s
  | .ldt d a o => Sys2Proof.Machine.execLdt d a o s
  | .stt d a o => Sys2Proof.Machine.execStt d a o s
  | .tatomAdd d a b => Sys2Proof.Machine.execTatomAdd d a b s
  | .tatomCas d a b => Sys2Proof.Machine.execTatomCas d a b s
  | .bra p n o => Sys2Proof.Machine.execBra p n o s
  | .call p n o => Sys2Proof.Machine.execCall p n o s
  | .bri a t => Sys2Proof.Machine.execBri a t s
  | .calli a t => Sys2Proof.Machine.execCalli a t s
  | .ret p n => Sys2Proof.Machine.execRet p n s
  | .exit p n => Sys2Proof.Machine.execExit p n s
  | .trap p n imm => Sys2Proof.Machine.execTrap p n imm s
  | .mma t r a b => Sys2Proof.Machine.execMma t r a b s
  | .mvs t a b => Sys2Proof.Machine.execMvs t a b s
  | .mzero t => Sys2Proof.Machine.execMzero t s
  | .mcfg a => Sys2Proof.Machine.execMcfg a s
  | .mdrain t a => Sys2Proof.Machine.execMdrain t a s
  | .mtbl t a => Sys2Proof.Machine.execMtbl t a s
  | .mstat d => Sys2Proof.Machine.execMstat d s
  | .cvtF32I32 d a => Sys2Proof.Machine.execCvtF32I32 d a s
  | .cvtF32U32 d a => Sys2Proof.Machine.execCvtF32U32 d a s
  | .cvtI32F32 d a => Sys2Proof.Machine.execCvtI32F32 d a s
  | .cvtU32F32 d a => Sys2Proof.Machine.execCvtU32F32 d a s
  | .cvtF32Bf16 d a => Sys2Proof.Machine.execCvtF32Bf16 d a s
  | .cvtF32Bf16h d a => Sys2Proof.Machine.execCvtF32Bf16h d a s
  | .cvtF32F16 d a => Sys2Proof.Machine.execCvtF32F16 d a s
  | .cvtF32F16h d a => Sys2Proof.Machine.execCvtF32F16h d a s
  | .cvtBf16F32 d a => Sys2Proof.Machine.execCvtBf16F32 d a s
  | .cvtF16F32 d a => Sys2Proof.Machine.execCvtF16F32 d a s
  | .cvtE4m3F32 d a => Sys2Proof.Machine.execCvtE4m3F32 d a s
  | .cvtE5m2F32 d a => Sys2Proof.Machine.execCvtE5m2F32 d a s
  | .cvtF32E4m3Bk d a k => Sys2Proof.Machine.execCvtF32E4m3Bk d a k s
  | .cvtF32E5m2Bk d a k => Sys2Proof.Machine.execCvtF32E5m2Bk d a k s
  | .frnd d a => Sys2Proof.Machine.execFrnd d a s
  | .fclass d a => Sys2Proof.Machine.execFclass d a s
  | .fabs d a => Sys2Proof.Machine.execFabs d a s
  | .fneg d a => Sys2Proof.Machine.execFneg d a s
  | .ineg d a => Sys2Proof.Machine.execIneg d a s
  | .iabs d a => Sys2Proof.Machine.execIabs d a s
  | .not d a => Sys2Proof.Machine.execNot d a s
  | .popc d a => Sys2Proof.Machine.execPopc d a s
  | .clz d a => Sys2Proof.Machine.execClz d a s
  | .brev d a => Sys2Proof.Machine.execBrev d a s
  | .mov d a => Sys2Proof.Machine.execMov d a s
  | .rcp d a => Sys2Proof.Machine.execRcp d a s
  | .rsq d a => Sys2Proof.Machine.execRsq d a s
  | .sqrt d a => Sys2Proof.Machine.execSqrt d a s
  | .exp2 d a => Sys2Proof.Machine.execExp2 d a s
  | .log2 d a => Sys2Proof.Machine.execLog2 d a s
  | .sin d a => Sys2Proof.Machine.execSin d a s
  | .cos d a => Sys2Proof.Machine.execCos d a s
  | .tanh d a => Sys2Proof.Machine.execTanh d a s
  | .sigm d a => Sys2Proof.Machine.execSigm d a s
  | .voteAny d a => Sys2Proof.Machine.execVoteAny d a s
  | .voteAll d a => Sys2Proof.Machine.execVoteAll d a s
  | .ballot d a => Sys2Proof.Machine.execBallot d a s
  | .reduceIadd d a => Sys2Proof.Machine.execReduceIadd d a s
  | .reduceFadd d a => Sys2Proof.Machine.execReduceFadd d a s
  | .reduceFmin d a => Sys2Proof.Machine.execReduceFmin d a s
  | .reduceFmax d a => Sys2Proof.Machine.execReduceFmax d a s
  | .reduceUmin d a => Sys2Proof.Machine.execReduceUmin d a s
  | .reduceUmax d a => Sys2Proof.Machine.execReduceUmax d a s
  | .reduceAnd d a => Sys2Proof.Machine.execReduceAnd d a s
  | .reduceOr d a => Sys2Proof.Machine.execReduceOr d a s
  | .reduceXor d a => Sys2Proof.Machine.execReduceXor d a s
  | .scanIadd d a => Sys2Proof.Machine.execScanIadd d a s
  | .scanFadd d a => Sys2Proof.Machine.execScanFadd d a s
  | .bcast d a => Sys2Proof.Machine.execBcast d a s
  | .mand d src t => Sys2Proof.Machine.execMand d src t s
  | .mor d src t => Sys2Proof.Machine.execMor d src t s
  | .mxor d src t => Sys2Proof.Machine.execMxor d src t s
  | .mnot d src => Sys2Proof.Machine.execMnot d src s
  | .mmov d src => Sys2Proof.Machine.execMmov d src s
  | .mfromv d a => Sys2Proof.Machine.execMfromv d a s
  | .mtov d a => Sys2Proof.Machine.execMtov d a s
  | .srd d n => Sys2Proof.Machine.execSrd d n s
  | .swr n a => Sys2Proof.Machine.execSwr n a s
  | .swrOther n a => Sys2Proof.Machine.execSwrOther n a s
  | .c16Mov d src => Sys2Proof.Machine.execC16Mov d src s
  | .c16Iadd d src => Sys2Proof.Machine.execC16Iadd d src s
  | .c16Isub d src => Sys2Proof.Machine.execC16Isub d src s
  | .c16Imul d src => Sys2Proof.Machine.execC16Imul d src s
  | .c16And d src => Sys2Proof.Machine.execC16And d src s
  | .c16Or d src => Sys2Proof.Machine.execC16Or d src s
  | .c16Xor d src => Sys2Proof.Machine.execC16Xor d src s
  | .c16Shl d src => Sys2Proof.Machine.execC16Shl d src s
  | .c16Shrl d src => Sys2Proof.Machine.execC16Shrl d src s
  | .c16Shra d src => Sys2Proof.Machine.execC16Shra d src s
  | .c16Fadd d src => Sys2Proof.Machine.execC16Fadd d src s
  | .c16Fsub d src => Sys2Proof.Machine.execC16Fsub d src s
  | .c16Fmul d src => Sys2Proof.Machine.execC16Fmul d src s
  | .c16Fmax d src => Sys2Proof.Machine.execC16Fmax d src s
  | .c16Fmin d src => Sys2Proof.Machine.execC16Fmin d src s
  | .nop => Sys2Proof.Machine.execNop s
  | .c16Yield => Sys2Proof.Machine.execC16Yield s
  | .tcopyIn t a => Sys2Proof.Machine.execTcopyIn t a s
  | .tcopyOut t a => Sys2Proof.Machine.execTcopyOut t a s
  | .waitany a => Sys2Proof.Machine.execWaitany a s
  | .waitall a => Sys2Proof.Machine.execWaitall a s
  | .tffr d => Sys2Proof.Machine.execTffr d s
  | .tclr a => Sys2Proof.Machine.execTclr a s
  | .park a => Sys2Proof.Machine.execPark a s
  | .yield => Sys2Proof.Machine.execYield s
  | .ovlLoad n src => Sys2Proof.Machine.execOvlLoad n src s
  | .ovlLoadTab n a => Sys2Proof.Machine.execOvlLoadTab n a s
  | .ovlWait src => Sys2Proof.Machine.execOvlWait src s
  | .vfPush f a => Sys2Proof.Machine.execVfPush f a s
  | .vfPop d f => Sys2Proof.Machine.execVfPop d f s
  | .vfFree d f => Sys2Proof.Machine.execVfFree d f s
  | .barInit n a => Sys2Proof.Machine.execBarInit n a s
  | .barArrive n => Sys2Proof.Machine.execBarArrive n s
  | .barWait n => Sys2Proof.Machine.execBarWait n s
  | .barSync n => Sys2Proof.Machine.execBarSync n s
  | .barExpect n a => Sys2Proof.Machine.execBarExpect n a s
  | .xcopy c a => Sys2Proof.Machine.execXcopy c a s
  | .xchain c a => Sys2Proof.Machine.execXchain c a s
  | .xstat d c => Sys2Proof.Machine.execXstat d c s
  | .gateReq p => Sys2Proof.Machine.execGateReq p s
  | .gateWake p => Sys2Proof.Machine.execGateWake p s
  | .gateStat d p => Sys2Proof.Machine.execGateStat d p s
  | .nthint h => Sys2Proof.Machine.execNthint h s
  | .spawn a => Sys2Proof.Machine.execSpawn a s
  | .gang a => Sys2Proof.Machine.execGang a s
  | .done => Sys2Proof.Machine.execDone s
  | .join a => Sys2Proof.Machine.execJoin a s
  | .tsbSet a => Sys2Proof.Machine.execTsbSet a s
  | .tsbRet => Sys2Proof.Machine.execTsbRet s
  | .pmask => Sys2Proof.Machine.execPmask s
  | .punmask => Sys2Proof.Machine.execPunmask s
  | .strmPut src a => Sys2Proof.Machine.execStrmPut src a s
  | .strmGet d src => Sys2Proof.Machine.execStrmGet d src s
  | .strmEos src => Sys2Proof.Machine.execStrmEos src s
  | .tlSig k a => Sys2Proof.Machine.execTlSig k a s
  | .tlWait k a => Sys2Proof.Machine.execTlWait k a s
  | .tlRead d k => Sys2Proof.Machine.execTlRead d k s
  | .pref k a => Sys2Proof.Machine.execPref k a s
  | .swin a => Sys2Proof.Machine.execSwin a s
  | .rft => Sys2Proof.Machine.execRft s
  | .cclr a => Sys2Proof.Machine.execCclr a s
  | .freply c a => Sys2Proof.Machine.execFreply c a s
  | .watchArm d a => Sys2Proof.Machine.execWatchArm d a s
  | .watchOff a => Sys2Proof.Machine.execWatchOff a s
  | .watchStat d a => Sys2Proof.Machine.execWatchStat d a s
  | .xsemSig d a => Sys2Proof.Machine.execXsemSig d a s
  | .xsemWait d a => Sys2Proof.Machine.execXsemWait d a s
  | .cmpClear a => Sys2Proof.Machine.execCmpClear a s
  | .cmpDecomp a => Sys2Proof.Machine.execCmpDecomp a s
  | .cmpStat d a => Sys2Proof.Machine.execCmpStat d a s
  | .fence => Sys2Proof.Machine.execFence s
  | .rayGo d a => Sys2Proof.Machine.execRayGo d a s
  | .rayGet d a => Sys2Proof.Machine.execRayGet d a s
  | .rayPoll m a => Sys2Proof.Machine.execRayPoll m a s
  | .genPin d a => Sys2Proof.Machine.execGenPin d a s
  | .genUnpin d a => Sys2Proof.Machine.execGenUnpin d a s
  | .bldBuild a => Sys2Proof.Machine.execBldBuild a s
  | .bldBuildNft a => Sys2Proof.Machine.execBldBuildNft a s
  | .bldRefit a => Sys2Proof.Machine.execBldRefit a s
  | .bldRebal a => Sys2Proof.Machine.execBldRebal a s
  | .bldStat d a => Sys2Proof.Machine.execBldStat d a s
  | .bldQual d a => Sys2Proof.Machine.execBldQual d a s
  | .mvEmit a => Sys2Proof.Machine.execMvEmit a s
  | .mvEnd => Sys2Proof.Machine.execMvEnd s
  | .atlReq d a => Sys2Proof.Machine.execAtlReq d a s
  | .atlSmp d a => Sys2Proof.Machine.execAtlSmp d a s
  | .atlDone a => Sys2Proof.Machine.execAtlDone a s
  | .rgnWait a => Sys2Proof.Machine.execRgnWait a s
  | .notedCauseDelivery => Sys2Proof.Machine.execNotedCauseDelivery s
  | .windowEnter wave => Sys2Proof.Machine.execWindowEnter wave s
  | .shotReservation wave => Sys2Proof.Machine.execShotReservation wave s
  | .shotRingVisit cl => Sys2Proof.Machine.execShotRingVisit cl s
  | .shotReservoirFill cl => Sys2Proof.Machine.execShotReservoirFill cl s
  | .islandEnterNear cl q => Sys2Proof.Machine.execIslandEnterNear cl q s
  | .islandSwitchNominal cl q => Sys2Proof.Machine.execIslandSwitchNominal cl q s
  | .parkWriteOut wave => Sys2Proof.Machine.execParkWriteOut wave s
  | .continuationResume parked place => Sys2Proof.Machine.execContinuationResume parked place s
  | .teamAdmit launch places => Sys2Proof.Machine.execTeamAdmit launch places s
  | .tcopyComplete core tag => Sys2Proof.Machine.execTcopyComplete core tag s
  | .ovlLoadComplete core slot => Sys2Proof.Machine.execOvlLoadComplete core slot s
  | .drainColumnReady core octet => Sys2Proof.Machine.execDrainColumnReady core octet s
  | .eccScrub site => Sys2Proof.Machine.execEccScrub site s
  | .copyRecordStart cl ch => Sys2Proof.Machine.execCopyRecordStart cl ch s
  | .copyRecordComplete cl ch => Sys2Proof.Machine.execCopyRecordComplete cl ch s
  | .gateDrainDone cl pair => Sys2Proof.Machine.execGateDrainDone cl pair s
  | .gateHoldEnd cl pair => Sys2Proof.Machine.execGateHoldEnd cl pair s
  | .gateRampStart cl pair => Sys2Proof.Machine.execGateRampStart cl pair s
  | .gateRampDone cl pair => Sys2Proof.Machine.execGateRampDone cl pair s
  | .gateRampFail cl pair => Sys2Proof.Machine.execGateRampFail cl pair s
  | .gateMcWake cl pair => Sys2Proof.Machine.execGateMcWake cl pair s
  | .xinvPage die asid => Sys2Proof.Machine.execXinvPage die asid s
  | .xinvAsid die asid => Sys2Proof.Machine.execXinvAsid die asid s
  | .xinvAll die => Sys2Proof.Machine.execXinvAll die s
  | .xinvComplete die => Sys2Proof.Machine.execXinvComplete die s
  | .fqcfgWrite die v => Sys2Proof.Machine.execFqcfgWrite die v s
  | .faultRecordWrite die => Sys2Proof.Machine.execFaultRecordWrite die s
  | .prefComplete die idx => Sys2Proof.Machine.execPrefComplete die idx s
  | .timelineValueStore die k v => Sys2Proof.Machine.execTimelineValueStore die k v s
  | .storeReachHome die idx => Sys2Proof.Machine.execStoreReachHome die idx s
  | .viewUpdate die pa => Sys2Proof.Machine.execViewUpdate die pa s
  | .qtbaseWrite die v => Sys2Proof.Machine.execQtbaseWrite die v s
  | .coreenWrite die hi v => Sys2Proof.Machine.execCoreenWrite die hi v s
  | .preemptWrite die v => Sys2Proof.Machine.execPreemptWrite die v s
  | .preemptSelect die launch => Sys2Proof.Machine.execPreemptSelect die launch s
  | .pmaskTimeout launch => Sys2Proof.Machine.execPmaskTimeout launch s
  | .queueEnable die q => Sys2Proof.Machine.execQueueEnable die q s
  | .queueTailStore die q v => Sys2Proof.Machine.execQueueTailStore die q v s
  | .recordTake die q => Sys2Proof.Machine.execRecordTake die q s
  | .remapTick die => Sys2Proof.Machine.execRemapTick die s
  | .queueAging die q => Sys2Proof.Machine.execQueueAging die q s
  | .launchComplete launch => Sys2Proof.Machine.execLaunchComplete launch s
  | .completionWrite launch => Sys2Proof.Machine.execCompletionWrite launch s
  | .streamEnable die src => Sys2Proof.Machine.execStreamEnable die src s
  | .springRetry idx => Sys2Proof.Machine.execSpringRetry idx s
  | .doneTakeEffect launch => Sys2Proof.Machine.execDoneTakeEffect launch s
  | .builderJobStart die => Sys2Proof.Machine.execBuilderJobStart die s
  | .builderPublish die plan => Sys2Proof.Machine.execBuilderPublish die plan s
  | .builderJobFail die code => Sys2Proof.Machine.execBuilderJobFail die code s
  | .rayQueryComplete query => Sys2Proof.Machine.execRayQueryComplete query s
  | .rayQueryFault query => Sys2Proof.Machine.execRayQueryFault query s
  | .semaphoreStore k v => Sys2Proof.Machine.execSemaphoreStore k v s
  | .watchHoldoffEnd e => Sys2Proof.Machine.execWatchHoldoffEnd e s
  | .watchIntervalEnd e => Sys2Proof.Machine.execWatchIntervalEnd e s
  | .memoryPatrolScrub lines => Sys2Proof.Machine.execMemoryPatrolScrub lines s
  | .frameStart die v => Sys2Proof.Machine.execFrameStart die v s
  | .packetForward die => Sys2Proof.Machine.execPacketForward die s
  | .watermarkUpdate src dst => Sys2Proof.Machine.execWatermarkUpdate src dst s
  | .packetConsume die region => Sys2Proof.Machine.execPacketConsume die region s
  | .atlasRequestWalk die => Sys2Proof.Machine.execAtlasRequestWalk die s
  | .moduleBoot mix firmwareOk ratesAndBytes => Sys2Proof.Machine.execModuleBoot mix firmwareOk ratesAndBytes s
  | .freqSwitch => Sys2Proof.Machine.execFreqSwitch s
  | .powerSample meanWatts change => Sys2Proof.Machine.execPowerSample meanWatts change s
  | .thermalCut die => Sys2Proof.Machine.execThermalCut die s
  | .sensorSample readings => Sys2Proof.Machine.execSensorSample readings s
  | .reasonClear v => Sys2Proof.Machine.execReasonClear v s
  | .snapArm v => Sys2Proof.Machine.execSnapArm v s
  | .snapFire v => Sys2Proof.Machine.execSnapFire v s
  | .snapPin => Sys2Proof.Machine.execSnapPin s
  | .snapLatch => Sys2Proof.Machine.execSnapLatch s
  | .mbLog => Sys2Proof.Machine.execMbLog s
  | .mbStage => Sys2Proof.Machine.execMbStage s
  | .mbActivate => Sys2Proof.Machine.execMbActivate s
  | .mbAttest => Sys2Proof.Machine.execMbAttest s
  | .mbSnapread => Sys2Proof.Machine.execMbSnapread s
  | .mbCert => Sys2Proof.Machine.execMbCert s
  | .flitReceive port flit => Sys2Proof.Machine.execFlitReceive port flit s
  | .portRetrain port => Sys2Proof.Machine.execPortRetrain port s
  | .remoteAccessTimeout idx => Sys2Proof.Machine.execRemoteAccessTimeout idx s
  | .hostWrite bar off data => Sys2Proof.Machine.execHostWrite bar off data s
  | .hostRead bar off len => Sys2Proof.Machine.execHostRead bar off len s
  | .registerWrite pa v => Sys2Proof.Machine.execRegisterWrite pa v s
  | .illegalEncoding => Sys2Proof.Machine.execIllegalEncoding s
  | .portTrain port width peer => Sys2Proof.Machine.execPortTrain port width peer s
  | .queueDisable die q => Sys2Proof.Machine.execQueueDisable die q s
  | .byteBudgetInterval cl => Sys2Proof.Machine.execByteBudgetInterval cl s
  | .eccError site double => Sys2Proof.Machine.execEccError site double s
  | .supplyLoss alwaysOn => Sys2Proof.Machine.execSupplyLoss alwaysOn s
  | .mcNominalDemand cl q => Sys2Proof.Machine.execMcNominalDemand cl q s
  | .pcieCompletion idx data => Sys2Proof.Machine.execPcieCompletion idx data s

end Sys2Proof.Machine
end

