-- ==== Sys2Proof/Machine/Turn.lean ====
section
/-! DEFINITION. What moves in a clk: the turn of a core, in which it issues at most one unit (R131, R132, R201, R203), loads whose value stays open
(R353), and the passing of time (R131, R206, R224, R225, R374, R395, R396, R405). -/

namespace Sys2Proof

open Sys2Proof.Machine

/-- The register codes that an operand field names, read or written. -/
def Operand.codes (wide : Bool) : Operand → List Code
  | .s c | .d c | .acc c | .rw c | .r c | .setSpecial _ c | .setOther _ c | .wcmd c => [c]
  | .s2 c => pairCodes c
  | .d2 c | .r2 c | .special c _ => [c, c + 1]
  | .old c | .sw c => if wide then [c, c + 1] else [c]
  | .g4 c | .g4d c => [c, c + 1, c + 2, c + 3]
  | .g8 c => [c, c + 1, c + 2, c + 3, c + 4, c + 5, c + 6, c + 7]
  | .frag c => (List.range 16).map fun k => c + BitVec.ofNat 8 k
  | .ds6 x | .ds6d x => [ds6Code x]
  | .s5 x => (s5Code x).toList
  | .sel _ _ => []

/-- The plain stores and loads of R106. -/
def Instr.plainStore : Instr → Bool
  | .stB _ _ _ | .stH _ _ _ | .stW _ _ _ | .stD _ _ _ | .stQ _ _ _ | .strawW _ _ _ => true
  | _ => false
def Instr.plainLoad : Instr → Bool
  | .ldB _ _ _ | .ldBs _ _ _ | .ldH _ _ _ | .ldHs _ _ _ | .ldW _ _ _ | .ldD _ _ _ | .ldQ _ _ _ | .ldrawW _ _ _ => true
  | _ => false

/-- BRA, which names its predicate and no register (R119), and the compares, which write one (R87, R93). -/
def Instr.onPredicates : Instr → Bool
  | .bra _ _ _ | .icmpEq _ _ _ | .icmpNe _ _ _ | .icmpLt _ _ _ | .icmpLe _ _ _ | .icmpLtu _ _ _ | .icmpLeu _ _ _ | .fcmpEq _ _ _ | .fcmpLt _ _ _
  | .fcmpLe _ _ _ | .fcmpUn _ _ _ | .icmpiEq _ _ _ | .icmpiLt _ _ _ => true
  | _ => false

/-- The steps that open loads do not see: a store that reaches its home, and a view that rises. -/
def Instr.unseen : Instr → Bool
  | .storeReachHome _ _ | .viewUpdate _ _ => true
  | _ => false

/-- VF.PUSH, which a pop of its clk lets go on, and VF.POP (R215). -/
def Instr.isPush : Instr → Bool
  | .vfPush _ _ => true
  | _ => false
def Instr.isPop : Instr → Bool
  | .vfPop _ _ => true
  | _ => false

end Sys2Proof

namespace Sys2Proof.Machine

open Sys2Proof

/-! ### Loads that stay open (R353 point 5, R358, log 9) -/

/-- An open load obtains its value: what its die's view holds now. That of a wave that has left its slot is dropped. -/
def State.closeLoad (s : State) (x : Delayed) : State :=
  if (s.wave x.wave).uid = x.uid then
    s.modWave x.wave fun w => w.putWords x.pos x.code (MemForm.words { size := x.size, signed := x.signExt } (s.viewBytes x.die x.pa x.size))
  else s

/-- The open loads of some dies obtain their values. -/
def State.closeLoads (s : State) (f : Nat → Bool) : State :=
  if s.delayed.any fun x => f x.die then
    foldState (fun x s => s.closeLoad x) (s.delayed.filter fun x => f x.die) { s with delayed := s.delayed.filter fun x => !f x.die }
  else s

/-- A unit and an open load of its wave name no register in common. -/
def CodeUnit.apart (u : CodeUnit) (x : Delayed) : Bool :=
  let mine := (List.range (max 1 (x.size / 4))).map fun k => x.code + BitVec.ofNat 8 k
  ((if u.vp.hasC then [u.vp.c, u.vp.c + 1] else []) ++ u.instr.operands.flatMap (Operand.codes u.mp.wide)).all fun c => !mine.contains c

/-- A unit that may take effect before an earlier load of its wave has its value: a relaxed plain store, a plain load whose value stays open too, an
instruction that takes a vector prefix (R35), a compare, or a BRA, whose predicate depends on no open load, as what wrote it from a load's value has
closed that load (R80, R117, R409). -/
def CodeUnit.passes (u : CodeUnit) (open_ : Bool) : Bool :=
  match u.instr.prefixes with
  | .vector _ _ _ => true
  | .memory _ _ _ => (u.instr.plainStore || (open_ && u.instr.plainLoad)) && u.mp.ord == 0 && !u.mp.sc
  | .none => u.instr.onPredicates
  | .cas _ => false

/-- The next unit of a wave, where it does not depend on its open loads (R354). -/
noncomputable def State.independent (s : State) (k : Nat) (open_ : Bool) : Option CodeUnit :=
  match s.chooseGroup k with
  | none => none
  | some t =>
    match t.fetchChosen with
    | .stop _ _ => none
    | .bytes bs => (decodeUnit bs).filter fun u => u.passes open_ && s.delayed.all fun x => x.wave != k || u.apart x

/-- The open loads of a die read in one state what they read in another. -/
def State.readsAlike (s t : State) (d : Nat) : Bool :=
  s.delayed.all fun x => x.die != d || s.viewBytes d x.pa x.size == t.viewBytes d x.pa x.size

/-- The loads of an issue stay open. -/
def State.keepOpen (s : State) (open_ : Bool) : State :=
  if open_ && !s.cur.held then { s with delayed := s.delayed ++ s.cur.loads } else s

/-- Every member's value of a unit that loads stays open: the loads of a thread obtain their values in program order (R353 point 3). -/
def State.allOpen (s : State) (i : Instr) : Bool := !i.plainLoad || s.cur.loads.length == s.cur.full.length

/-- One issue of a wave, after the open loads of its die have their values, or before that when its unit does not depend on them and stores none of
their bytes. With `open_` the loads of the issue stay open. -/
noncomputable def State.issueOver (s : State) (k : Nat) (alone open_ : Bool) : Host.Outcome State Fault Refusal :=
  let d := dieOfWave k
  let closed := s.closeLoads (· == d)
  let early := if alone && s.delayed.any (fun x => x.die == d) && (s.delayed.all fun x => x.die != d || x.wave == k) then s.independent k open_ else none
  let run : Host.Outcome State Fault Refusal :=
    match early with
    | none => closed.issueWave k exec
    | some u =>
      match s.issueWave k exec with
      | .next t => if s.readsAlike t d && t.allOpen u.instr then .next t else closed.issueWave k exec
      | .fault r => .fault r
      | .refused r => .refused r
  andThen run fun t => .next (t.keepOpen open_)

/-! ### The turn of a core -/

/-- The waves of a core's window that may issue now, the oldest first (R132). -/
def State.windowReady (s : State) (core : Nat) : List Nat :=
  sortBy (fun k => (s.wave k).admitted) ((s.wavesOf core).filter s.mayIssue)

/-- The unit that a wave waits in, in place. -/
noncomputable def State.waitingUnit (s : State) (k : Nat) : Option Instr :=
  (s.wave k).inPlace.bind fun h => (decodeUnit h.code).map CodeUnit.instr

/-- A wave waits in place with a unit that has issued: it goes on beside what its core issues. -/
noncomputable def State.waitsIssued (s : State) (k : Nat) : Bool := (s.waitingUnit k).any fun i => !i.waitsUnissued

/-- A wave that has issued, or gone on, issues again in the next clk at the earliest; while its group occupies an octet of an island in NEAR, its core
issues one clk later still (R132, R203). -/
def State.stepped (s : State) (k uid : Nat) : State :=
  s.modWave k fun w => if w.uid = uid then { w with nextClk := s.clock + 1 } else w

/-- The unit that was just run did not issue: it was no candidate (R132). -/
def State.stayed (s : State) : Bool := s.cur.held && !s.cur.inPlace

/-- Waves that wait in place try again. -/
noncomputable def State.retry (s : State) : List Nat → Host.Outcome State Fault Refusal
  | [] => .next s
  | k :: t =>
    andThen (s.issueOver k false false) fun u => (if u.cur.held then u else u.stepped k (s.wave k).uid).retry t

/-- The waves among some whose next units are candidates, with the state in which the others have been found to be none. -/
noncomputable def State.candidates (s : State) : List Nat → List Nat × State
  | [] => ([], s)
  | k :: t =>
    match s.issueOver k false false with
    | .next u =>
      if u.stayed then u.candidates t
      else
        let (l, u) := (s.modWave k fun w => { w with cand := some (runOn s.clock w.cand) }).candidates t
        (k :: l, u)
    | .fault _ | .refused _ =>
      let (l, u) := s.candidates t
      (k :: l, u)

/-- A wave has been a candidate for 512 consecutive clk. -/
def Wave.starved (w : Wave) : Bool := match w.cand with | some (first, last) => first + 511 ≤ last | none => false

/-- The wave that a core issues among its candidates, which stand in the order of their age (R132). -/
def State.chosenWave (s : State) (l : List Nat) : Option Nat := ((l.filter fun k => (s.wave k).starved).head?).or l.head?

/-- The wave that issues in a turn of a core, and the state in which it does: of the waves that may issue, but for those in the slots of `late`. -/
noncomputable def State.issuer (s : State) (core : Nat) (late : List Nat) : Option Nat × State :=
  match (s.windowReady core).filter fun k => !s.waitsIssued k && !late.contains (slotOfWave k) with
  | [] => (none, s)
  | [k] => (some k, s)
  | ks =>
    let (l, s) := s.candidates ks
    (s.chosenWave l, s)

/-- The pushes that the partner of a core holds in place, which its pop lets go on in the same clk (R215). -/
noncomputable def State.heldPushes (s : State) (core : Nat) : List Nat :=
  (s.wavesOf (partnerCore core)).filter fun k => (s.waitingUnit k).any Instr.isPush

/-- Held pushes try again beside a pop, also those that first tried in this clk. -/
noncomputable def State.retryPushes (s : State) (core : Nat) : Host.Outcome State Fault Refusal :=
  let l := s.heldPushes core
  (foldState (fun k s => s.modWave k fun w => { w with nextClk := min w.nextClk s.clock }) l s).retry l

/-- What comes with a unit that a core has issued in the clk: neither its wave nor the core issues again in it, the core not in the next one either while
the unit's group occupied an octet of an island in NEAR, and a push that its pop lets go on does so (R132, R203, R215). Nothing, for a unit that did not
issue. -/
noncomputable def State.afterUnit (s : State) (core k uid : Nat) (near : Bool) : Host.Outcome State Fault Refusal :=
  if s.stayed then .next s
  else ((s.stepped k uid).modCore core fun c => { c with nextIssue := s.clock + (if near then 2 else 1) }).retryPushes core

/-- One issue of the chosen wave, and what comes with it. -/
noncomputable def State.issueChosen (s : State) (core : Nat) (chosen : Option Nat) (alone open_ : Bool) : Host.Outcome State Fault Refusal :=
  match chosen with
  | none => .next s
  | some k => andThen (s.issueOver k alone open_) fun t => t.afterUnit core k (s.wave k).uid (s.occupiesNear k t.cur.full)

/-- Waves that wait in place go on where their waits are over, and with a pop among them the pushes that it lets go on. -/
noncomputable def State.goOn (s : State) (core : Nat) (waiting : List Nat) : Host.Outcome State Fault Refusal :=
  andThen (s.retry waiting) fun t => if waiting.any fun k => (s.waitingUnit k).any Instr.isPop then t.retryPushes core else .next t

/-- A clk in which NEAR holds a core's issue counts in the runs of its waves (R132, R201, R203). -/
def State.holdRuns (s : State) (core : Nat) : State :=
  if (s.core core).nextIssue ≤ s.clock + 1 then s
  else
    foldState (fun k s => s.modWave k fun w =>
      { w with
        cand := w.cand.map fun r => if r.2 = s.clock then (r.1, r.2 + 1) else r
        denied := w.denied.map fun r => if r.2.1 = s.clock then (r.1, r.2.1 + 1, r.2.2) else r }) (s.wavesOf core) s

/-- A core's turn in a clk: waves that wait in place go on where their waits are over; then the core issues one unit; then a wave that shots have
been denied for long places the core's reservation. `late` lists slots whose next unit is not ready or finds its unit busy (R79, R132), and with
`open_` the loads of the issue stay open. -/
noncomputable def State.turn (s : State) (core : Nat) (late : List Nat) (open_ : Bool) : Host.Outcome State Fault Refusal :=
  if s.clock < (s.core core).nextIssue then .next s
  else
    let waiting := (s.windowReady core).filter s.waitsIssued
    andThen (s.goOn core waiting) fun s =>
      let (chosen, t) := s.issuer core late
      let t := t.modCore core fun c => { c with nextIssue := s.clock + 1 }
      andThen (t.issueChosen core chosen waiting.isEmpty open_) fun u => .next ((u.placeReservation core).holdRuns core)

/-! ### Time -/

/-- The access behind a release of die d that can take effect is performed (R355, R382, R269): a decrement, or an atlas request. It waits on while a region
cannot change its owner. -/
def State.performBehind (s : State) (d : Nat) : State :=
  match s.readyOp d with
  | none => s
  | some n =>
    let t := ({ s with outs := s.outs.del n, cur := {} }.modDie d fun x => { x with pend := x.pend.drop 1 }).raiseViews d
    let t := match s.outs.find n with
      | none => t
      | some o =>
        match o.to_ with
        | .join x e => t.performJoin o x e
        | .request p c block e => t.performRequest o p c block e
        | .threads | .unit | .block _ | .device _ _ | .host => t
    if t.cur.blocked then s else { t with cur := s.cur }

/-- The stores before a release with an access behind it reach their homes, and the accesses are performed in turn. -/
def State.settleBehind (s : State) (d : Nat) : State :=
  let l := (s.die d).pend
  if l.any fun e => e.op.isSome then foldState (fun _ s => (s.flushAll d).performBehind d) l s else s

/-- What time brings about in the module: queues (R258, R262, R263), requests to discard (R280), hold-offs (R366), accesses behind releases, and pool
space that the builders return (R302). -/
def State.settleDue (s : State) : State :=
  let s := foldState (fun d s => (s.settleBehind d).settleQueues d) s.computeDies s
  let s := foldState (fun l s => s.settleTimeout l.1) s.launches s
  (foldState (fun w s => s.settleHoldoff w.1) s.watches s).reclaimFreely

/-- Nothing happens of itself while time passes: no gate is in motion, no count is awaited, every wave stands in the window, no part of a frame runs, no
queue is served, nothing is held, no pool space waits to be returned, and nothing is about to leave. -/
def State.calm (s : State) : Bool :=
  (s.clusters.all fun c => c.2.statReads.isEmpty && c.2.gates.all fun g => g.2.st == .on || g.2.st == .gated)
    && s.weir.switchAt.isNone && s.weir.trigger.isNone && (s.waves.all fun w => w.2.inWindow)
    && (s.dies.all fun x => x.2.gfx.st != .run && (x.2.queues.all fun q => !q.2.en) && x.2.pend.all fun e => e.op.isNone)
    && (s.structs.all fun x => (s.reclaimed x.1 x.2).blocks.length == x.2.blocks.length) && s.heldRecs.isEmpty
    && (s.launches.all fun l => l.2.request.isNone) && (s.watches.all fun w => w.2.holdoff.isNone)
    && s.weir.ports.all fun q => q.2.out.isEmpty

/-- A clk ends: gates advance and GATE.STATs have their values (R206, R224, R225), free places in the windows are taken (R131), what is due happens,
finished parts of frames are signalled (R374), packets leave (R424), CLOCK counts on, and what is due at its new count happens: a change of frequency
(R395) and a snapshot (R405). -/
def State.clkEnd (s : State) : State :=
  let s := foldState (fun c s => (s.advanceGates c.1).endStatReads c.1) s.clusters s
  ((s.fillWindows.settleDue.settleFrames.sendFlits).tick 1).freqSwitch.snapLatch

/-- n clk pass. -/
def State.pass (s : State) : Nat → State
  | 0 => s
  | n + 1 => if s.calm then s.tick (n + 1) else s.clkEnd.pass n

/-! ### Actions (log 2) -/

/-- The dies have power and the module has booted (R394). -/
def State.isUp (s : State) : Bool := s.weir.powered && s.weir.ready

/-- A step of the hardware or of the outside world; one that would have to wait does not happen yet. What only an issue makes is none, and a module that
is not running boots, or loses its power. -/
noncomputable def State.eventStep (s : State) (i : Instr) : Host.Outcome State Fault Refusal :=
  if i.encoded || i.withinIssue || !(s.isUp || i.always) then .next s
  else
    andThen (exec i { (if i.unseen then s else s.closeLoads fun _ => true) with cur := {} }) fun t => .next (if t.cur.blocked then s else t)

/-- The step of an action (log 2). -/
noncomputable def State.act (s : State) : Action → Host.Outcome State Fault Refusal
  | .tick n => .next (if s.weir.powered then s.pass n else s)
  | .issue core late open_ => if s.isUp then s.turn core late open_ else .next s
  | .event i => s.eventStep i
  | .writeBack d pa => .next (if s.isUp then s.writeBack d pa else s)
  | .target mhz => .next (if s.isUp then s.newTarget mhz else s)

/-- The core whose turn comes when the agenda names none: the first that may issue in this clk. -/
def State.nextCore (s : State) : Option Nat :=
  (s.waves.find? fun w => s.mayIssue w.1 && (s.core (coreOfWave w.1)).nextIssue ≤ s.clock).map fun w => coreOfWave w.1

/-- With an empty agenda a core that may issue has its turn, or else one clk passes. A module without power does nothing but what comes from
outside. -/
noncomputable def State.ownStep (s : State) : Host.Outcome State Fault Refusal :=
  if !s.weir.powered then .fault .noPower
  else
    match s.nextCore with
    | some core => s.turn core [] false
    | none => .next (s.pass 1)

/-- The wave key of the wave that withFetchWord places: slot 0 of core 0 of cluster 0 of die 2, a shading die of the flagship. -/
def fetchWave : Nat := 4096

/-- The overlay slot that holds just an instruction's bytes at offset 0; every later byte is 0. -/
def fetchSlot (nbits w : Nat) : Ovl :=
  { st := .resident, code := (cellsOf 0 (leBytes (w % 2 ^ nbits) 4)).filter fun c => c.2 != 0 }

end Sys2Proof.Machine
end

