-- ==== Sys2Proof/Machine/Step.lean ====
section
/-! DEFINITION. One step of the machine, and the placement of an instruction where step fetches next. -/

namespace Sys2Proof.Machine

open Sys2Proof

/-- One step: the head of the agenda moves, or with an empty agenda the machine of itself (log 2). -/
noncomputable def step (s : State) : Host.Outcome State Fault Refusal :=
  match s.agenda with
  | [] => s.ownStep
  | a :: rest => State.act { s with agenda := rest } a

/-- The state with an instruction's bits at the place where step fetches its next instruction (log 6): a 16-wide wave whose threads
stand at code address 0 issues next, and slot 0 of its core holds the instruction there. -/
def State.withFetchWord (s : State) (nbits w : Nat) : State :=
  let t := { s with
    waves := s.waves.put fetchWave { uid := s.nextId, launch := s.nextId, team := s.nextId, budget := 224,
                                     threads := List.replicate 16 {} }
    launches := s.launches.put s.nextId { die := dieOfWave fetchWave, phase := .running, teamsIn := 1 }
    teams := s.teams.put s.nextId { launch := s.nextId, cores := [coreOfWave fetchWave], tarn := [0], waves := [0] }
    nextId := s.nextId + 1
    agenda := [.issue (coreOfWave fetchWave) [] false]
    weir := { s.weir with powered := true, ready := true } }
  t.modCore (coreOfWave fetchWave) fun c => { c with slot0 := fetchSlot nbits w, nextIssue := 0 }

end Sys2Proof.Machine
end

