-- ==== Sys2Proof/Safety.lean ====
section
/-! DEFINITION. What statements about the machine speak of: an issue that meets no cause before the instruction's own, what an instruction of one
wave may change, and a safe run. -/

namespace Sys2Proof.Machine

open Sys2Proof

/-- Strictly rising numbers. -/
def rising : List Nat → Bool
  | [] => true
  | [_] => true
  | a :: b :: t => decide (a < b) && rising (b :: t)

/-- A unit is being issued: its wave stands in its slot, the issue group is some of the wave's threads in rising order (R12), and nothing of the unit
has been held yet, so that it has asked for nothing and received nothing. -/
def State.issuing (s : State) : Bool :=
  (s.waves.find s.cur.wave).isSome && !s.cur.group.isEmpty && rising s.cur.group
    && s.cur.group.all (fun p => decide (p < s.me.threads.length)) && !s.cur.held && s.cur.rest.isEmpty
    && !s.cur.blocked && s.cur.need.isNone && !s.cur.away && !s.cur.led

/-- A member's sources may be read: no latch among them is invalid (R19), no register is bad, and the drain columns it takes are there (R45, R175). -/
def State.readable? (s : State) (i : Instr) (p : Nat) : Bool :=
  (latchFault (s.me.thread p) (s.sources i p)).isNone && (s.readFault s.cur.wave p (s.sources i p)).isNone
    && !s.drainEarly s.cur.wave p (s.sources i p)

/-- An issue that meets no cause before the instruction's own (R45 causes 1 to 4, SOFTERR and DRAIN) in any member. -/
def State.passes (s : State) (i : Instr) : Bool :=
  s.issuing && unitOk i s.me s.cur && (!i.privileged || s.me.priv)
    && s.cur.group.all fun p => s.masked p || s.readable? i p

/-- An instruction that acts on its own wave alone: no other wave, no memory, no other piece of the state changes; a core keeps all but the
drain contexts that its threads have read to the end. -/
structure State.OnlyWave (s t : State) : Prop where
  rest : t = { s with waves := t.waves, cores := t.cores }
  waves : ∀ k, k ≠ s.cur.wave → t.wave k = s.wave k
  cores : ∀ c, { t.core c with drains := [] } = { s.core c with drains := [] }

/-- A thread apart from its registers, latches, PC, error marks and drain position. -/
def Thread.rest (t : Thread) : Thread :=
  { t with v := [], o := [], bad := [], h0 := {}, h1 := {}, h2 := {}, h3 := {}, pc := 0, drainPos := 0 }

/-- What a unit that moves its members to the next unit leaves of its wave besides registers: the group's PCs (R12), every other PC, every thread
apart from its registers and latches, and the wave apart from its threads, W registers and collector holds. -/
structure State.GoesOn (s t : State) : Prop where
  pc : ∀ p ∈ s.cur.group, (t.me.thread p).pc = s.nextAddr
  pcOthers : ∀ p, p ∉ s.cur.group → (t.me.thread p).pc = (s.me.thread p).pc
  threads : ∀ p, (t.me.thread p).rest = (s.me.thread p).rest
  wave : t.me = { s.me with threads := t.me.threads, w := t.me.w, collector := t.me.collector }
  only : s.OnlyWave t

/-- Every register but those that a condition names holds what it held. -/
def State.KeepsRegs (s t : State) (written : Nat → Code → Bool) : Prop :=
  ∀ p c, c.toNat < 0xF8 → written p c = false → t.me.readCode p c = s.me.readCode p c

/-- The registers that a destination names: D of the members of the group, or a W register. -/
def State.writes (s : State) (d : Code) (p : Nat) (c : Code) : Bool := c == d && (isW c || s.cur.group.contains p)

/-- What an instruction with a 32-bit result that pushes the latch leaves (R17, R46): D and H0 of every unmasked member, the older latches,
the registers and latches of masked members, and everything else as it was. A W register keeps the value of the lowest unmasked member (R15). -/
structure State.LaneResult (s t : State) (d : Code) (v : Nat → Word) : Prop where
  value : ∀ p ∈ s.cur.group, s.masked p = false → d ≠ 0xFC → (isW d = true → s.lead s.cur.group = some p) → t.me.readCode p d = v p
  latch : ∀ p ∈ s.cur.group, s.masked p = false → (t.me.thread p).h0 = ⟨true, v p⟩
  older : ∀ p ∈ s.cur.group, (t.me.thread p).h1 = (s.me.thread p).h0 ∧ (t.me.thread p).h2 = (s.me.thread p).h1
    ∧ (t.me.thread p).h3 = (s.me.thread p).h2
  masked : ∀ p ∈ s.cur.group, s.masked p = true → isW d = false → d ≠ 0xFC →
    t.me.readCode p d = (if s.cur.vp.zero then 0 else s.me.readCode p d)
  regs : s.KeepsRegs t (s.writes d)
  goesOn : s.GoesOn t

/-- What an instruction with a 64-bit result leaves: the pair D, the latches pushed high word first, and the pair and the latches of masked members
(R17, R46). -/
structure State.LaneResult64 (s t : State) (d : Code) (v : Nat → Word64) : Prop where
  low : ∀ p ∈ s.cur.group, s.masked p = false → d ≠ 0xFC → (isW d = true → s.lead s.cur.group = some p) →
    t.me.readCode p d = (v p).extractLsb' 0 32
  high : ∀ p ∈ s.cur.group, s.masked p = false → d ≠ 0xFC → (isW d = true → s.lead s.cur.group = some p) →
    t.me.readCode p (d + 1) = (v p).extractLsb' 32 32
  latch : ∀ p ∈ s.cur.group, s.masked p = false →
    (t.me.thread p).h0 = ⟨true, (v p).extractLsb' 0 32⟩ ∧ (t.me.thread p).h1 = ⟨true, (v p).extractLsb' 32 32⟩
  older : ∀ p ∈ s.cur.group, (t.me.thread p).h2 = (s.me.thread p).h0 ∧ (t.me.thread p).h3 = (s.me.thread p).h1
  masked : ∀ p ∈ s.cur.group, s.masked p = true → isW d = false → d ≠ 0xFC →
    t.me.readCode p d = (if s.cur.vp.zero then 0 else s.me.readCode p d)
      ∧ t.me.readCode p (d + 1) = (if s.cur.vp.zero then 0 else s.me.readCode p (d + 1))
  maskedLatch : ∀ p ∈ s.cur.group, s.masked p = true →
    (t.me.thread p).h0 = (if s.cur.vp.zero then ⟨true, 0⟩ else if d = 0xFC then (s.me.thread p).h0 else ⟨true, s.me.readCode p d⟩)
      ∧ (t.me.thread p).h1 = (if s.cur.vp.zero then ⟨true, 0⟩ else if d = 0xFC then (s.me.thread p).h0 else ⟨true, s.me.readCode p (d + 1)⟩)
  regs : s.KeepsRegs t fun p c => s.writes d p c || s.writes (d + 1) p c
  goesOn : s.GoesOn t

/-- What an instruction that gives each member a value without a mask and pushes no latch leaves (R107, R143). A W register keeps the value of
the lowest member. -/
structure State.EachResult (s t : State) (d : Code) (v : Nat → Word) : Prop where
  value : ∀ p ∈ s.cur.group, (isW d = true → s.cur.group.head? = some p) → t.me.readCode p d = v p
  latches : ∀ p, (t.me.thread p).h0 = (s.me.thread p).h0 ∧ (t.me.thread p).h1 = (s.me.thread p).h1
    ∧ (t.me.thread p).h2 = (s.me.thread p).h2 ∧ (t.me.thread p).h3 = (s.me.thread p).h3
  regs : s.KeepsRegs t (s.writes d)
  goesOn : s.GoesOn t

/-- What an instruction that writes a predicate in each member leaves: the predicate (M0 reads true still, R14), the other predicates, and
everything else. -/
structure State.PredResult (s t : State) (m : PredNo) (v : Nat → Bool) : Prop where
  value : ∀ p ∈ s.cur.group, (t.me.thread p).pred m = (m == 0 || v p)
  others : ∀ p n, (n ≠ m ∨ p ∉ s.cur.group) → (t.me.thread p).pred n = (s.me.thread p).pred n
  registers : ∀ p c, t.me.readCode p c = s.me.readCode p c
  pc : ∀ p ∈ s.cur.group, (t.me.thread p).pc = s.nextAddr
  threads : ∀ p, { t.me.thread p with m := 0, pc := 0, drainPos := 0 } = { s.me.thread p with m := 0, pc := 0, drainPos := 0 }
  only : s.OnlyWave t

/-- The members of the group go on to the next unit and nothing else changes: their PCs, and the drain columns that they read. -/
structure State.MovesOn (u t : State) : Prop where
  pc : ∀ p ∈ u.cur.group, (t.me.thread p).pc = u.nextAddr
  pcOthers : ∀ p, p ∉ u.cur.group → (t.me.thread p).pc = (u.me.thread p).pc
  threads : ∀ p, { t.me.thread p with pc := 0, drainPos := 0 } = { u.me.thread p with pc := 0, drainPos := 0 }
  wave : t.me = { u.me with threads := t.me.threads }
  only : u.OnlyWave t

/-- An instruction whose own effect takes the state to `u`: it completes, and the members of the group go on from there. -/
def State.Completes (s : State) (i : Instr) (u : State) : Prop := ∃ t, exec i s = .next t ∧ u.MovesOn t

/-- The tables of waves, tags and gates list each key once, in rising order. -/
def State.keysRise (s : State) : Prop :=
  rising (s.waves.map Prod.fst) = true ∧ (∀ c, rising ((s.core c).tags.map Prod.fst) = true) ∧ ∀ cl, rising ((s.cluster cl).gates.map Prod.fst) = true

/-- The machine can go on: its dies have power (R399). -/
def State.alive (s : State) : Bool := s.weir.powered

/-- The lowest member of the issue group, whose operands an instruction of the whole issue reads. -/
def State.lowest (s : State) : Nat := s.cur.group.headD 0

/-- The members of the group go on, each at an address of its own, and nothing else changes. -/
structure State.GoesTo (u t : State) (pc : Nat → Word) : Prop where
  pc : ∀ p ∈ u.cur.group, (t.me.thread p).pc = pc p
  pcOthers : ∀ p, p ∉ u.cur.group → (t.me.thread p).pc = (u.me.thread p).pc
  threads : ∀ p, { t.me.thread p with pc := 0, drainPos := 0 } = { u.me.thread p with pc := 0, drainPos := 0 }
  wave : t.me = { u.me with threads := t.me.threads }
  only : u.OnlyWave t

/-- A thread that has entered its trap handler (R23): TPC, TVAL, the handler's address, and no valid latch. -/
def Thread.inTrap (t : Thread) (tvec tpc tval : Word) : Thread :=
  { t.dropLatches with tpc := tpc, tval := tval, pc := tvec, inHandler := true }

/-- A trap with one cause in every member of the issue group, whose wave has a handler that none of them is in (R23): CAUSE, each member's entry,
no collector hold or denied price (R167, R201), and the shot reservation that the wave loses. Every other thread, wave and piece of the state
is as it was; the model's counter of free values may have moved (log 1). -/
structure State.Traps (s t : State) (c : Cause) (tpc : Word) (tval : Nat → Word) : Prop where
  inTrap : ∀ p ∈ s.cur.group, t.me.thread p = (s.me.thread p).inTrap s.me.tvec tpc (tval p)
  threads : ∀ p, p ∉ s.cur.group → t.me.thread p = s.me.thread p
  wave : t.me = { s.me with threads := t.me.threads, cause := s.me.cause ||| c.mask, collector := [], denied := none }
  others : ∀ k, k ≠ s.cur.wave → t.wave k = s.wave k
  cores : ∀ n, { t.core n with reservation := none } = { s.core n with reservation := none }
  rest : t = { s with waves := t.waves, cores := t.cores, freeCtr := t.freeCtr }

/-- Some members of the issue group raise a cause at the unit's address in a state in which the others have gone on, and have a handler that they enter
(R12, R23): the others, with the drain columns that they read, and every other piece of the state are as they were. -/
structure State.TrapsSome (u t : State) (bad : Nat → Bool) (c : Cause) (tval : Nat → Word) : Prop where
  inTrap : ∀ p ∈ u.cur.group, bad p = true → t.me.thread p = (u.me.thread p).inTrap u.me.tvec u.cur.addr (tval p)
  goesOn : ∀ p, p ∉ u.cur.group ∨ bad p = false → { t.me.thread p with drainPos := 0 } = { u.me.thread p with drainPos := 0 }
  wave : t.me = { u.me with threads := t.me.threads, cause := u.me.cause ||| c.mask, collector := [], denied := none }
  others : ∀ k, k ≠ u.cur.wave → t.wave k = u.wave k
  cores : ∀ n, { t.core n with reservation := none, drains := [] } = { u.core n with reservation := none, drains := [] }
  rest : t = { u with waves := t.waves, cores := t.cores, freeCtr := t.freeCtr }

/-- The issuing wave has a trap handler that no member of the group is in. -/
def State.handles (s : State) : Bool := s.me.tvec != 0 && s.cur.group.all fun p => !(s.me.thread p).inHandler

/-- Changes the threads of the issue group, each at its position. -/
def State.mapGroup (s : State) (f : Nat → Thread → Thread) : State :=
  s.modWave s.cur.wave fun w => { w with threads :=
    (List.range w.threads.length).zipWith (fun p t => if s.cur.group.contains p then f p t else t) w.threads }

/-- Some members of the issue group go on, each at an address of its own. -/
def State.goSome (s : State) (good : Nat → Bool) (pc : Nat → Word) : State :=
  s.mapGroup fun p t => if good p then { t with pc := pc p } else t

/-- The LFSRs of the unmasked members after a conversion under stochastic rounding (R66). -/
def State.stepLfsrs (s : State) (f : Nat → Word) : State :=
  s.mapGroup fun p t => if s.masked p then t else { t with lfsr := f p }

/-- What an instruction that works in its core leaves as it was: every register, latch and predicate of every thread, every other wave and core, and
what stands in memory; the members of the group go on. -/
structure State.CoreWork (s t : State) : Prop where
  pc : ∀ p ∈ s.cur.group, (t.me.thread p).pc = s.nextAddr
  pcOthers : ∀ p, p ∉ s.cur.group → (t.me.thread p).pc = (s.me.thread p).pc
  registers : ∀ p c, t.me.readCode p c = s.me.readCode p c
  latches : ∀ p k, (t.me.thread p).latch k = (s.me.thread p).latch k
  predicates : ∀ p, (t.me.thread p).m = (s.me.thread p).m
  waves : ∀ k, k ≠ s.cur.wave → t.wave k = s.wave k
  cores : ∀ c, c ≠ s.myCore → t.core c = s.core c
  memory : t.mem = s.mem ∧ t.outside = s.outside

/-- What a latch-invalidating wait leaves (R18, R152): no valid latch in the wave, every other register and predicate as it was, and the members of the
group at the next unit. -/
structure State.Waits (s t : State) (w : Option Wait) : Prop where
  wait : t.me.wait = w
  latches : ∀ p k, ((t.me.thread p).latch k).valid = false
  pc : ∀ p ∈ s.cur.group, (t.me.thread p).pc = s.nextAddr
  pcOthers : ∀ p, p ∉ s.cur.group → (t.me.thread p).pc = (s.me.thread p).pc
  registers : ∀ p c, c.toNat < 0xF8 → t.me.readCode p c = s.me.readCode p c
  predicates : ∀ p, (t.me.thread p).m = (s.me.thread p).m
  only : s.OnlyWave t

/-- The unit waits in place (R212, R221): nothing of it happens, but that the model's counter of free values may move (log 1). -/
def State.HoldsAt (s : State) (i : Instr) : Prop :=
  ∃ t, exec i s = .next t ∧ t = { s with cur := { s.cur with held := true, inPlace := true }, freeCtr := t.freeCtr }

/-- The unit waits in place for bytes from outside the module, for which it has asked (R428, R429). -/
def State.Awaits (s : State) (i : Instr) (x : Need) : Prop :=
  ∃ t, exec i s = .next t ∧ t = { s.ask (some x) with cur := { s.cur with held := true, inPlace := true }, freeCtr := t.freeCtr }

/-- The unit is no candidate in this clk (R132): nothing of it happens, and its wave does not wait in it. -/
def State.NoCandidate (s : State) (i : Instr) : Prop :=
  ∃ t, exec i s = .next t ∧ t = { s with cur := { s.cur with held := true }, freeCtr := t.freeCtr }

/-- The unit raises one cause in every member, at its own address, and has no other effect (R23, R45). -/
def State.Raises (s : State) (i : Instr) (c : Cause) (tval : Nat → Word) : Prop :=
  ∃ t, exec i s = .next t ∧ s.Traps t c s.cur.addr tval

/-! ### Memory instructions -/

/-- The loads: form, destination, address register and offset (R106, R110). -/
def loadForm : Instr → Option (MemForm × Code × Code × BitVec 8)
  | .ldB d a o => some (formB, d, a, o)
  | .ldBs d a o => some (formBs, d, a, o)
  | .ldH d a o => some (formH, d, a, o)
  | .ldHs d a o => some (formHs, d, a, o)
  | .ldW d a o => some (formW, d, a, o)
  | .ldD d a o => some (formD, d, a, o)
  | .ldQ d a o => some (formQ, d, a, o)
  | .ldrawW d a o => some (formRaw, d, a, o)
  | _ => none

/-- The stores: form, data, address register and offset (R106, R110). -/
def storeForm : Instr → Option (MemForm × Code × Code × BitVec 8)
  | .stB d a o => some (formB, d, a, o)
  | .stH d a o => some (formH, d, a, o)
  | .stW d a o => some (formW, d, a, o)
  | .stD d a o => some (formD, d, a, o)
  | .stQ d a o => some (formQ, d, a, o)
  | .strawW d a o => some (formRaw, d, a, o)
  | _ => none

/-- The atomics but ATOMAGG.ADD: number, destination, address register and operand (R112). -/
def atomicForm : Instr → Option (Nat × Code × Code × Code)
  | .atomAdd d a b => some (0, d, a, b)
  | .atomSmin d a b => some (1, d, a, b)
  | .atomSmax d a b => some (2, d, a, b)
  | .atomUmin d a b => some (3, d, a, b)
  | .atomUmax d a b => some (4, d, a, b)
  | .atomAnd d a b => some (5, d, a, b)
  | .atomOr d a b => some (6, d, a, b)
  | .atomXor d a b => some (7, d, a, b)
  | .atomXchg d a b => some (8, d, a, b)
  | .atomCas d a b => some (9, d, a, b)
  | .atomFadd d a b => some (10, d, a, b)
  | _ => none

/-- The instructions whose members act one after another (R104, R109, R112, R147, R148), with one member's action. -/
def memberOf : Instr → Option (Bool → State → Nat → Except Raised State)
  | .ldc d a o => some (ldcMember d a o)
  | .ldt d a o => some (ldtOne d a o)
  | .stt d a o => some (sttOne d a o)
  | .tatomAdd d a b => some (tatomOne d a b fun old x _ => some (old + x))
  | .tatomCas d a b => some (tatomOne d a b fun old x c => if old = c then some x else none)
  | i =>
    match loadForm i, atomicForm i with
    | some (f, d, a, o), _ => some (loadMember f d a o)
    | none, some (op, d, a, b) => some (atomicMember op d a b)
    | none, none => none

/-- The state in which a member's load at a spot reads: region ownership has followed it, and an SC load the stores of its thread (R349, R356). -/
def State.reached (s : State) (p : Nat) (x : Spot) : State := (s.touchSpot s.myDie x).afterOwn p

/-- A member's load at a spot must wait before that. -/
def State.loadHeld (s : State) (p : Nat) (x : Spot) (o : Option OutAccess) : Bool :=
  let s := s.touchSpot s.myDie x
  s.cur.blocked || s.loadWaits p o

/-- No store of a die is on its way to its home, no watch is armed, and no die owns a region: what is in place is what the dies see (R352, R365, R384). -/
def State.quiet (s : State) : Bool := (s.dies.all fun d => d.2.pend.isEmpty && d.2.stale.isEmpty) && s.watches.isEmpty && s.rgnOwner.isEmpty

/-- One unmasked member issues the unit alone. -/
def State.alone (s : State) (p : Nat) : Bool := s.cur.group == [p] && !s.masked p

/-! ### Results of the lane instructions, from the tables of 04_lane_arithmetic.md -/

/-- A result: the destination and each member's value. -/
abbrev LaneValue := Option (Code × (State → Nat → Word))

/-- A result of the sources A and B, of D and an immediate, or of A alone. -/
def ofAB (d a b : Code) (f : Word → Word → Word) : LaneValue := some (d, fun s p => f (s.src p [] a) (s.src p [a] b))
def ofD (d : Code) (f : Word → Word) : LaneValue := some (d, fun s p => f (s.me.readCode p d))
def ofA (d a : Code) (f : Word → Word) : LaneValue := some (d, fun s p => f (s.src p [] a))

/-- A result of a C16 form: D = A = DS6 and B = S5 (R32). -/
def ofC16 (d : BitVec 6) (x : BitVec 5) (float : Bool) (f : Word → Word → Word) : LaneValue :=
  some (ds6Code d, fun s p => f (s.me.readCode p (ds6Code d)) (s.s5 p float x))

/-- The shift count, the low and the high word of a product, the smaller and the larger (R82). -/
def shiftCount (b : Word) : Nat := b.toNat % 32
def highOf (x : Int) : Word := BitVec.ofInt 32 (x.fdiv (2 ^ 32))
def satInt (x : Int) : Word :=
  if x < -(2 ^ 31) then 0x80000000 else if 2 ^ 31 ≤ x then 0x7FFFFFFF else BitVec.ofInt 32 x

/-- The integer, logic and immediate instructions (R82, R83, R85, R86), the bit operations among the float and unary ones (R91, R98),
BMIX (R95) and the integer C16 forms (R32). -/
def intResult : Instr → LaneValue
  | .iadd d a b => ofAB d a b fun x y => x + y
  | .isub d a b => ofAB d a b fun x y => x - y
  | .imul d a b => ofAB d a b fun x y => x * y
  | .imulh d a b => ofAB d a b fun x y => highOf (x.toInt * y.toInt)
  | .imulhu d a b => ofAB d a b fun x y => highOf (x.toNat * y.toNat : Nat)
  | .imad d a b => some (d, fun s p => s.src p [] a * s.src p [a] b + s.addend p d a b)
  | .imin d a b => ofAB d a b fun x y => if x.toInt ≤ y.toInt then x else y
  | .imax d a b => ofAB d a b fun x y => if x.toInt ≤ y.toInt then y else x
  | .iminu d a b => ofAB d a b fun x y => if x.toNat ≤ y.toNat then x else y
  | .imaxu d a b => ofAB d a b fun x y => if x.toNat ≤ y.toNat then y else x
  | .and d a b => ofAB d a b fun x y => x &&& y
  | .or d a b => ofAB d a b fun x y => x ||| y
  | .xor d a b => ofAB d a b fun x y => x ^^^ y
  | .andn d a b => ofAB d a b fun x y => x &&& ~~~y
  | .shl d a b => ofAB d a b fun x y => x <<< shiftCount y
  | .shrl d a b => ofAB d a b fun x y => x >>> shiftCount y
  | .shra d a b => ofAB d a b fun x y => x.sshiftRight (shiftCount y)
  | .rotl d a b => ofAB d a b fun x y => x.rotateLeft (shiftCount y)
  | .bfx d a b => ofAB d a b bfx
  | .bfi d a b => ofAB d a b bfi
  | .iaddsat d a b => ofAB d a b fun x y => satInt (x.toInt + y.toInt)
  | .sel d a b => some (d, fun s p => if (s.me.thread p).pred s.cur.vp.pred then s.src p [] a else s.src p [a] b)
  | .fcopysign d a b => ofAB d a b fun x y => y.extractLsb' 31 1 ++ x.extractLsb' 0 31
  | .bmix d a b => some (d, fun s p => bmix (s.src p [] a) (s.src p [a] b) (s.src p [a, b] s.cur.vp.c))
  | .iaddi d i => ofD d fun x => x + i.signExtend 32
  | .andi d i => ofD d fun x => x &&& i.zeroExtend 32
  | .ori d i => ofD d fun x => x ||| i.zeroExtend 32
  | .xori d i => ofD d fun x => x ^^^ i.zeroExtend 32
  | .movi d i => some (d, fun _ _ => i.signExtend 32)
  | .movhi d i => ofD d fun x => i ++ x.extractLsb' 0 16
  | .shli d i => ofD d fun x => x <<< i.toNat
  | .shrli d i => ofD d fun x => x >>> i.toNat
  | .shrai d i => ofD d fun x => x.sshiftRight i.toNat
  | .fabs d a => ofA d a fun x => 0#1 ++ x.extractLsb' 0 31
  | .fneg d a => ofA d a fun x => (~~~x.extractLsb' 31 1) ++ x.extractLsb' 0 31
  | .ineg d a => ofA d a fun x => 0 - x
  | .iabs d a => ofA d a fun x => if x.toInt < 0 then 0 - x else x
  | .not d a => ofA d a fun x => ~~~x
  | .popc d a => ofA d a popcount
  | .clz d a => ofA d a leadingZeros
  | .brev d a => ofA d a fun x => x.reverse
  | .mov d a => ofA d a fun x => x
  | .c16Mov d x => some (ds6Code d, fun s p => s.s5 p false x)
  | .c16Iadd d x => ofC16 d x false fun a b => a + b
  | .c16Isub d x => ofC16 d x false fun a b => a - b
  | .c16Imul d x => ofC16 d x false fun a b => a * b
  | .c16And d x => ofC16 d x false fun a b => a &&& b
  | .c16Or d x => ofC16 d x false fun a b => a ||| b
  | .c16Xor d x => ofC16 d x false fun a b => a ^^^ b
  | .c16Shl d x => ofC16 d x false fun a b => a <<< shiftCount b
  | .c16Shrl d x => ofC16 d x false fun a b => a >>> shiftCount b
  | .c16Shra d x => ofC16 d x false fun a b => a.sshiftRight (shiftCount b)
  | _ => none

/-- A result under the rounding mode of the unit's prefix, of A and B, and of A, B and the addend. -/
def roundAB (d a b : Code) (f : Rm → Nat → Nat → Nat) : LaneValue :=
  some (d, fun s p => word (f s.rm (s.src p [] a).toNat (s.src p [a] b).toNat))
def roundABC (d a b : Code) (f : Rm → Nat → Nat → Nat → Nat) : LaneValue :=
  some (d, fun s p => word (f s.rm (s.src p [] a).toNat (s.src p [a] b).toNat (s.addend p d a b).toNat))

/-- The same on each element of a packed pair (R93). -/
def packAB (d a b : Code) (f : Rm → Nat → Nat → Nat) : LaneValue :=
  some (d, fun s p => half2 (f s.rm) (s.src p [] a) (s.src p [a] b))
def packABC (d a b : Code) (f : Rm → Nat → Nat → Nat → Nat) : LaneValue :=
  some (d, fun s p => half3 (f s.rm) (s.src p [] a) (s.src p [a] b) (s.addend p d a b))

/-- FP32 arithmetic (R88 to R92), packed arithmetic (R93), FMOVI (R86), the conversions that do not narrow (R96), FRND and FCLASS (R97) and the
float C16 forms (R32). -/
def floatResult : Instr → LaneValue
  | .fadd d a b => roundAB d a b fp32.add
  | .fsub d a b => roundAB d a b fp32.sub
  | .fmul d a b => roundAB d a b fp32.mul
  | .ffma d a b => roundABC d a b fp32.fma
  | .fmin d a b => roundAB d a b fun _ => fp32.min
  | .fmax d a b => roundAB d a b fun _ => fp32.max
  | .fscale d a b => some (d, fun s p => word (fscale s.rm (s.src p [] a).toNat (s.src p [a] b).toInt))
  | .fdot2Bf16 d a b => roundABC d a b (dot bf16 2)
  | .fdot4E4m3 d a b => roundABC d a b (dot e4m3 4)
  | .fdot4E5m2 d a b => roundABC d a b (dot e5m2 4)
  | .hadd2Bf16 d a b => packAB d a b bf16.add
  | .hmul2Bf16 d a b => packAB d a b bf16.mul
  | .hfma2Bf16 d a b => packABC d a b bf16.fma
  | .hmin2Bf16 d a b => packAB d a b fun _ => bf16.min
  | .hmax2Bf16 d a b => packAB d a b fun _ => bf16.max
  | .hadd2F16 d a b => packAB d a b fp16.add
  | .hmul2F16 d a b => packAB d a b fp16.mul
  | .hfma2F16 d a b => packABC d a b fp16.fma
  | .hmin2F16 d a b => packAB d a b fun _ => fp16.min
  | .hmax2F16 d a b => packAB d a b fun _ => fp16.max
  | .fmovi d i => some (d, fun _ _ => widen bf16 i.toNat)
  | .cvtF32I32 d a => some (d, fun s p => word (ofIntF32 s.rm (s.src p [] a).toInt))
  | .cvtF32U32 d a => some (d, fun s p => word (ofIntF32 s.rm (s.src p [] a).toNat))
  | .cvtI32F32 d a => some (d, fun s p => BitVec.ofInt 32 (toIntSat s.rm (-(2 ^ 31)) (2 ^ 31 - 1) (fp32.dec (s.src p [] a).toNat)))
  | .cvtU32F32 d a => some (d, fun s p => BitVec.ofInt 32 (toIntSat s.rm 0 (2 ^ 32 - 1) (fp32.dec (s.src p [] a).toNat)))
  | .cvtF32Bf16 d a => ofA d a fun x => widen bf16 (x.extractLsb' 0 16).toNat
  | .cvtF32Bf16h d a => ofA d a fun x => widen bf16 (x.extractLsb' 16 16).toNat
  | .cvtF32F16 d a => ofA d a fun x => widen fp16 (x.extractLsb' 0 16).toNat
  | .cvtF32F16h d a => ofA d a fun x => widen fp16 (x.extractLsb' 16 16).toNat
  | .cvtF32E4m3Bk d a k => ofA d a fun x => widen e4m3 (x.extractLsb' (8 * k.toNat) 8).toNat
  | .cvtF32E5m2Bk d a k => ofA d a fun x => widen e5m2 (x.extractLsb' (8 * k.toNat) 8).toNat
  | .frnd d a => some (d, fun s p => word (frnd s.rm (s.src p [] a).toNat))
  | .fclass d a => ofA d a fun x => 1#32 <<< fclass x.toNat
  | .c16Fadd d x => some (ds6Code d, fun s p => fadd s.rm (s.me.readCode p (ds6Code d)) (s.s5 p true x))
  | .c16Fsub d x => some (ds6Code d, fun s p => fsub s.rm (s.me.readCode p (ds6Code d)) (s.s5 p true x))
  | .c16Fmul d x => some (ds6Code d, fun s p => fmul s.rm (s.me.readCode p (ds6Code d)) (s.s5 p true x))
  | .c16Fmax d x => ofC16 d x true fmax
  | .c16Fmin d x => ofC16 d x true fmin
  | _ => none

/-- The special functions (R99 to R101). -/
def specialResult : Instr → LaneValue
  | .rcp d a => ofA d a fun x => word (rcp x.toNat)
  | .rsq d a => ofA d a fun x => word (rsq x.toNat)
  | .sqrt d a => ofA d a fun x => word (sqrt32 x.toNat)
  | .exp2 d a => ofA d a fun x => word (exp2 x.toNat)
  | .log2 d a => ofA d a fun x => word (log2 x.toNat)
  | .sin d a => ofA d a fun x => word (sin x.toNat)
  | .cos d a => ofA d a fun x => word (cos x.toNat)
  | .tanh d a => ofA d a fun x => word (tanh x.toNat)
  | .sigm d a => ofA d a fun x => word (sigm x.toNat)
  | _ => none

/-- The narrowing conversions (R94, R96): destination, format, and each member's values, element 0 first. -/
def narrowResult : Instr → Option (Code × Fmt × (State → Nat → List FVal))
  | .pack2Bf16 d a b => some (d, bf16, fun s p => [fp32.dec (s.src p [] a).toNat, fp32.dec (s.src p [a] b).toNat])
  | .pack2F16 d a b => some (d, fp16, fun s p => [fp32.dec (s.src p [] a).toNat, fp32.dec (s.src p [a] b).toNat])
  | .pack4E4m3 d a b => some (d, e4m3, fun s p => bf16Pair (s.src p [] a) ++ bf16Pair (s.src p [a] b))
  | .pack4E5m2 d a b => some (d, e5m2, fun s p => bf16Pair (s.src p [] a) ++ bf16Pair (s.src p [a] b))
  | .cvtBf16F32 d a => some (d, bf16, fun s p => [fp32.dec (s.src p [] a).toNat])
  | .cvtF16F32 d a => some (d, fp16, fun s p => [fp32.dec (s.src p [] a).toNat])
  | .cvtE4m3F32 d a => some (d, e4m3, fun s p => [fp32.dec (s.src p [] a).toNat])
  | .cvtE5m2F32 d a => some (d, e5m2, fun s p => [fp32.dec (s.src p [] a).toNat])
  | _ => none

/-- The 64-bit integer instructions (R82). -/
def wideResult : Instr → Option (Code × (State → Nat → Word64))
  | .iadd64 d a b => some (d, fun s p => s.src64 p a + s.src64 p b)
  | .isub64 d a b => some (d, fun s p => s.src64 p a - s.src64 p b)
  | .imulw d a b => some (d, fun s p => (s.src p [] a).signExtend 64 * (s.src p [a] b).signExtend 64)
  | .imulwu d a b => some (d, fun s p => (s.src p [] a).zeroExtend 64 * (s.src p [a] b).zeroExtend 64)
  | _ => none

/-- A predicate of the sources A and B. -/
def predAB (m : PredNo) (a b : Code) (f : Word → Word → Bool) : Option (PredNo × (State → Nat → Bool)) :=
  some (m, fun s p => f (s.src p [] a) (s.src p [a] b))

/-- The compares (R84, R87, R90), the predicate operations (R124) and the votes (R145). -/
def predResult : Instr → Option (PredNo × (State → Nat → Bool))
  | .icmpEq m a b => predAB m a b fun x y => x == y
  | .icmpNe m a b => predAB m a b fun x y => x != y
  | .icmpLt m a b => predAB m a b fun x y => x.slt y
  | .icmpLe m a b => predAB m a b fun x y => x.sle y
  | .icmpLtu m a b => predAB m a b fun x y => x.ult y
  | .icmpLeu m a b => predAB m a b fun x y => x.ule y
  | .icmpiEq x m i => some (m, fun s p => s.src p [] x == i.signExtend 32)
  | .icmpiLt x m i => some (m, fun s p => (s.src p [] x).slt (i.signExtend 32))
  | .fcmpEq m a b => predAB m a b fun x y => (fp32.dec x.toNat).eq (fp32.dec y.toNat)
  | .fcmpLt m a b => predAB m a b fun x y => (fp32.dec x.toNat).lt (fp32.dec y.toNat)
  | .fcmpLe m a b => predAB m a b fun x y => (fp32.dec x.toNat).le (fp32.dec y.toNat)
  | .fcmpUn m a b => predAB m a b fun x y => (fp32.dec x.toNat).isNan || (fp32.dec y.toNat).isNan
  | .mand d x y => some (d, fun s p => (s.me.thread p).pred x && (s.me.thread p).pred y)
  | .mor d x y => some (d, fun s p => (s.me.thread p).pred x || (s.me.thread p).pred y)
  | .mxor d x y => some (d, fun s p => (s.me.thread p).pred x ^^ (s.me.thread p).pred y)
  | .mnot d x => some (d, fun s p => !(s.me.thread p).pred x)
  | .mmov d x => some (d, fun s p => (s.me.thread p).pred x)
  | .mfromv d a => some (d, fun s p => s.src p [] a != 0)
  | .voteAny d a => some (d, fun s _ => s.cur.group.any fun q => (s.me.thread q).pred a)
  | .voteAll d a => some (d, fun s _ => s.cur.group.all fun q => (s.me.thread q).pred a)
  | _ => none

/-! ### Results that push no latch (R107, R143) -/

/-- The register that a lane exchange reads A from: the position that B names when a member stands there, else its own (R144). -/
def exchanged (s : State) (a : Code) (p : Nat) (q : Int) : Word :=
  if 0 ≤ q ∧ q.toNat ∈ s.cur.group then s.src q.toNat [] a else s.src p [] a

/-- The combining tree of R76 over the values of all positions; a position outside the group holds the identity. -/
def treeOver (s : State) (a : Code) (identity : Word) (f : Word → Word → Word) : Word :=
  reduceTree f 6 ((List.range s.me.width).map fun q => if q ∈ s.cur.group then s.src q [] a else identity)

/-- The scan of R77 over the same values. -/
def scanOver (s : State) (a : Code) (identity : Word) (f : Word → Word → Word) (p : Nat) : Word :=
  (scanTree f 6 1 ((List.range s.me.width).map fun q => if q ∈ s.cur.group then s.src q [] a else identity)).getD p 0

/-- The cross-lane instructions (R144 to R146), MTOV (R124) and the reads of state of the core and cluster: SRD of a 32-bit register (R21, R125),
TFFR (R153), XSTAT (R222). -/
def eachResult : Instr → LaneValue
  | .lxPick d a b => some (d, fun s p => exchanged s a p ((s.src p [a] b).toNat % s.me.width : Nat))
  | .lxMirror d a b => some (d, fun s p => exchanged s a p (p ^^^ ((s.src p [a] b).toNat % s.me.width) : Nat))
  | .lxRot d a b => some (d, fun s p => exchanged s a p (((p : Int) + (s.src p [a] b).toInt) % (s.me.width : Int)).toNat)
  | .lxSlide d a b => some (d, fun s p =>
      let q := (p : Int) + (s.src p [a] b).toInt
      if q < (s.me.width : Int) then exchanged s a p q else s.src p [] a)
  | .reduceIadd d a => some (d, fun s _ => treeOver s a 0 fun x y => x + y)
  | .reduceFadd d a => some (d, fun s _ => treeOver s a 0x80000000 (fadd .rne))
  | .reduceFmin d a => some (d, fun s _ => treeOver s a 0x7F800000 fmin)
  | .reduceFmax d a => some (d, fun s _ => treeOver s a 0xFF800000 fmax)
  | .reduceUmin d a => some (d, fun s _ => treeOver s a 0xFFFFFFFF fun x y => if x.toNat ≤ y.toNat then x else y)
  | .reduceUmax d a => some (d, fun s _ => treeOver s a 0 fun x y => if x.toNat ≤ y.toNat then y else x)
  | .reduceAnd d a => some (d, fun s _ => treeOver s a 0xFFFFFFFF fun x y => x &&& y)
  | .reduceOr d a => some (d, fun s _ => treeOver s a 0 fun x y => x ||| y)
  | .reduceXor d a => some (d, fun s _ => treeOver s a 0 fun x y => x ^^^ y)
  | .scanIadd d a => some (d, fun s p => scanOver s a 0 (fun x y => x + y) p)
  | .scanFadd d a => some (d, fun s p => scanOver s a 0x80000000 (fadd .rne) p)
  | .bcast d a => some (d, fun s _ => s.src (s.cur.group.headD 0) [] a)
  | .mtov d a => some (d, fun s p => if (s.me.thread p).pred a then 1 else 0)
  | .srd d n => if specialWidth n.toNat = some 32 then some (d, fun s p => (s.special p n.toNat).setWidth 32) else none
  | .tffr d => some (d, fun s _ => word (((List.range 64).find? fun t => (s.core s.myCore).tags.get .idle t == .done).getD 64))
  | .xstat d c => some (d, fun s _ => (s.chan s.myCluster c.toNat).status)
  | .mstat d => some (d, fun s p => s.mstatWord p)
  | _ => none

/-- The same with 64 bits: BALLOT (R145), SRD of CLOCK and TAGS (R21), TL.READ (R322). -/
def eachResult64 : Instr → Option (Code × (State → Nat → Word64))
  | .ballot d a => some (d, fun s _ => maskOf (s.cur.group.filter fun q => (s.me.thread q).pred a))
  | .srd d n => if specialWidth n.toNat = some 64 then some (d, fun s p => s.special p n.toNat) else none
  | .tlRead d k => some (d, fun s _ => BitVec.ofNat 64 (s.timeline s.myDie k.toNat))
  | _ => none

end Sys2Proof.Machine

namespace Sys2Proof

/-- The value of the magnitude bits k of a format, with an exponent without bound (R55). -/
def Fmt.magnitude (f : Fmt) (k : Nat) : ℚ :=
  if k < 2 ^ f.frac then k * (2 : ℚ) ^ (1 - (f.bias : ℤ) - f.frac)
  else ((k % 2 ^ f.frac + 2 ^ f.frac : ℕ) : ℚ) * (2 : ℚ) ^ ((k / 2 ^ f.frac : ℕ) - (f.bias : ℤ) - f.frac)

end Sys2Proof
end

