-- ==== Sys2Proof/Certificates/Slice0/Obligations.lean ====
section
/-! DEFINITION. What is claimed of the machine: the statements for the provers. -/

open Sys2Proof Sys2Proof.Machine

/-! ### Encodings and the step -/

/-- Every well-formed instruction that has an encoding is what its own bytes decode to, whatever follows them (R26, R29 to R42). -/
def Obligations.DecodeAfterEncode : Prop :=
  ∀ (i : Instr) (rest : List Byte), i.encoded = true → i.wellFormed = true → decode (encode i ++ rest) = .ok (i, rest)

/-- The decoder reads no bytes but an encoding (R44): what it answers is well formed, and its encoding is the bytes that it took. So no bit of
an instruction is ignored, and no two instructions share their bytes. -/
def Obligations.DecodeOnlyEncodings : Prop :=
  ∀ (bs : List Byte) (i : Instr) (rest : List Byte), decode bs = .ok (i, rest) →
    i.encoded = true ∧ i.wellFormed = true ∧ bs = encode i ++ rest

/-- Words that the spec writes out for instructions of each family decode to them (R17, R38, R87, R111, R119, R124 to R126, R143, R150, R160, R164,
R192, R263, R322, R328, R361, R383). -/
def Obligations.DecodeSpecWords : Prop :=
  decodeTableWord 32 0x0504FC45 = some (.fmul 0xFC 4 5) ∧ decodeTableWord 32 0x07F80641 = some (.fadd 6 0xF8 7)
    ∧ decodeTableWord 32 0xFFF90395 = some (.icmpiLt 3 1 0x1FFF) ∧ decodeTableWord 32 0xFF020AB5 = some (.stD 10 2 0xFF)
    ∧ decodeTableWord 32 0x0A0408D3 = some (.atomCas 8 4 0x0A) ∧ decodeTableWord 32 0xFFFFA3E1 = some (.bra 3 0 0xFFFFA)
    ∧ decodeTableWord 32 0x0002A0ED = some (.trap 0 0 0x2A) ∧ decodeTableWord 32 0x50020BF9 = some (.mand 3 1 2)
    ∧ decodeTableWord 32 0x610993F9 = some (.swrOther 0x13 9) ∧ decodeTableWord 32 0x0604059F = some (.lxSlide 5 4 6)
    ∧ decodeTableWord 32 0x000805FB = some (.tcopyIn 5 8) ∧ decodeTableWord 32 0x281005F1 = some (.mma 5 0 16 40)
    ∧ decodeTableWord 32 0x100500FB = some (.vfPush 0 5) ∧ decodeTableWord 32 0x200800FB = some (.spawn 8)
    ∧ decodeTableWord 32 0x2C0409FB = some (.tlWait 9 4) ∧ decodeTableWord 32 0x00020AFD = some (.rayGo 10 2)
    ∧ decodeTableWord 32 0x3B0504FB = some (.xsemSig 4 5) ∧ decodeTableWord 32 0x3D0C00FB = some (.cmpClear 12)
    ∧ decodeTableWord 16 0xE8E2 = some (.c16Iadd 7 29) ∧ decodeTableWord 32 0xFFFFFFFF = none

/-- Prefixes and an instruction make one unit (R34, R36, R38): a unit without a prefix, with a vector prefix, with a memory prefix, and with
both in that order. -/
def Obligations.UnitOfEncoding : Prop :=
  ∀ (i : Instr) (rest : List Byte) (v m : Word) (vf : VectorFields) (mf : MemoryFields), i.encoded = true → i.wellFormed = true →
    v.extractLsb' 0 8 = 0xFF → decodePrefix v = some (.vector vf) → m.extractLsb' 0 8 = 0xFF → decodePrefix m = some (.memory mf) →
    let vp : VPrefix := ⟨true, vf.c, vf.rm, vf.zero, vf.men, vf.pred⟩
    let mp : MPrefix := ⟨true, mf.wide, mf.nt, mf.sc, mf.ord, mf.scope⟩
    let n := (encode i).length
    decodeUnit (encode i ++ rest) = some ⟨i, n, {}, {}⟩
      ∧ decodeUnit (wordBytes v ++ (encode i ++ rest)) = some ⟨i, 4 + n, vp, {}⟩
      ∧ decodeUnit (wordBytes m ++ (encode i ++ rest)) = some ⟨i, 4 + n, {}, mp⟩
      ∧ decodeUnit (wordBytes m ++ (wordBytes v ++ (encode i ++ rest))) = some ⟨i, 8 + n, vp, mp⟩
      ∧ decodeUnit (wordBytes v ++ (wordBytes m ++ (encode i ++ rest))) = none

/-- A step runs the decoded instruction. When it is a core's turn (the agenda names the core, or is empty and the core is the next that may issue),
none of its waves waits in place, no load is open, and one wave is there to issue, whose group meets bytes that decode to a unit and has no cause
noted, the step is exec of the unit's instruction on the state in which `cur` describes the unit, followed by what an issue brings with it
(R12, R26, R131, R132; the agenda is log 2's). -/
def Claim.StepRunsIssuedUnit : Prop :=
  ∀ (s s' t : State) (core k : Nat) (late : List Nat) (open_ : Bool) (bs : List Byte) (u : CodeUnit),
    ((∃ rest, s.agenda = .issue core late open_ :: rest ∧ s.isUp = true ∧ s' = { s with agenda := rest })
      ∨ (s.agenda = [] ∧ s.weir.powered = true ∧ s.nextCore = some core ∧ late = [] ∧ open_ = false ∧ s' = s)) →
    (s'.core core).nextIssue ≤ s'.clock → s'.delayed = [] → (s'.windowReady core).filter s'.waitsIssued = [] →
    (s'.windowReady core).filter (fun j => !late.contains (slotOfWave j)) = [k] →
    let q := s'.modCore core fun c => { c with nextIssue := s'.clock + 1 }
    q.chooseGroup k = some t → t.fetchChosen = .bytes bs → decodeUnit bs = some u →
    let v := (t.setUnit bs (some u)).meetIssue u.instr
    v.notedMembers = [] → v.cur.addr.toNat + v.cur.len < 2 ^ 20 →
    step s = andThen (exec u.instr v) fun w =>
      let e := (w.endIssue v u.instr).keepOpen open_
      andThen (e.afterUnit core k (s'.wave k).uid (q.occupiesNear k e.cur.full)) fun x => .next ((x.placeReservation core).holdRuns core)

/-- What an issue brings with it (R12, R79, R131, R132, R201, R203): the end of the issue changes no more than the wave's own scheduling fields, what it has
obtained from outside the module, and the starvation counts of its threads; loads stay open only where the step says so; a unit that has issued keeps
its wave from issuing again in the clk, and its core too, for one clk more while it occupied an octet in NEAR, and a push that its pop lets go on
follows it; a wave may come to hold its core's reservation; and a clk in which NEAR holds the core counts in the runs of its waves. -/
def Claim.AroundAnIssue : Prop :=
  ∀ (w before : State) (i : Instr) (uid core k : Nat) (near open_ : Bool),
    let e := w.endIssue before i
    let x := (w.stepped k uid).modCore core fun c => { c with nextIssue := w.clock + (if near then 2 else 1) }
    let h := w.holdRuns core
    (∀ j, j ≠ w.cur.wave → e.wave j = w.wave j) ∧ e = { w with waves := e.waves }
    ∧ e.me = { w.me with holdSince := e.me.holdSince, inPlace := e.me.inPlace, cand := e.me.cand, denied := e.me.denied,
                         coldWait := e.me.coldWait, answers := e.me.answers, threads := e.me.threads }
    ∧ (∀ p, { e.me.thread p with starve := 0 } = { w.me.thread p with starve := 0 })
    ∧ w.keepOpen open_ = { w with delayed := if open_ = true ∧ w.cur.held = false then w.delayed ++ w.cur.loads else w.delayed }
    ∧ (w.stayed = true → w.afterUnit core k uid near = .next w)
    ∧ (w.stayed = false → x.heldPushes core = [] → w.afterUnit core k uid near = .next x)
    ∧ h = { w with waves := h.waves } ∧ (∀ j, { h.wave j with cand := none, denied := none } = { w.wave j with cand := none, denied := none })
    ∧ ((w.core core).nextIssue ≤ w.clock + 1 → h = w)
    ∧ x = { w with waves := x.waves, cores := x.cores } ∧ (∀ j, { x.wave j with nextClk := 0 } = { w.wave j with nextClk := 0 })
    ∧ ((w.wave k).uid = uid → w.waves.find k ≠ none → (x.wave k).nextClk = w.clock + 1)
    ∧ (∀ c, { x.core c with nextIssue := 0 } = { w.core c with nextIssue := 0 })
    ∧ ∀ c, { (w.placeReservation core).core c with reservation := none } = { w.core c with reservation := none }

/-- A step of an agenda that holds something else (log 2): time passes; a step of the hardware or of the outside world is exec of it, once the open loads
that it could change have their values (log 9), and one that would have to wait does not happen yet; a cache line is written back; the MC changes the
frequency target; an empty agenda with no
core to issue lets one clk pass; and a machine without power stands still (R399). While nothing is in motion, time only counts. -/
def Claim.StepRunsEvents : Prop :=
  ∀ (s : State) (rest : List Action),
    let s' : State := { s with agenda := rest }
    (∀ n, s.agenda = .tick n :: rest → s.weir.powered = true → step s = .next (s'.pass n))
    ∧ (∀ i, s.agenda = .event i :: rest → i.encoded = false → i.withinIssue = false → (s.isUp || i.always) = true →
        let x := if i.unseen then s' else s'.closeLoads fun _ => true
        step s = andThen (exec i { x with cur := {} }) fun t => .next (if t.cur.blocked then s' else t))
    ∧ (∀ d pa, s.agenda = .writeBack d pa :: rest → s.isUp = true → step s = .next (s'.writeBack d pa))
    ∧ (∀ mhz, s.agenda = .target mhz :: rest → s.isUp = true → step s = .next (s'.newTarget mhz))
    ∧ (s.agenda = [] → s.weir.powered = true → s.nextCore = none → step s = .next (s.pass 1))
    ∧ (s.agenda = [] → s.weir.powered = false → step s = .fault .noPower)
    ∧ (s.delayed = [] → ∀ f, s.closeLoads f = s)
    ∧ (∀ n, s.calm = true → s.pass (n + 1) = s.tick (n + 1))

/-- A step runs the decoded instruction of the wave that its core issues, or what stands next in the agenda. -/
def Obligations.StepRunsDecodedInstruction : Prop := Claim.StepRunsIssuedUnit ∧ Claim.AroundAnIssue ∧ Claim.StepRunsEvents

/-- The choice of a core among its waves (R132): those that may issue stand in the order of their admission; a candidate that has been one for 512
consecutive clk goes first, the oldest of those, and else the oldest candidate; a run of clk is counted without a gap. -/
def Claim.ChoiceOfWave : Prop :=
  ∀ (s : State) (core : Nat) (l : List Nat),
    (s.windowReady core).Pairwise (fun j k => (s.wave j).admitted ≤ (s.wave k).admitted)
    ∧ (∀ k, k ∈ s.windowReady core ↔ k ∈ s.wavesOf core ∧ s.mayIssue k = true)
    ∧ (∀ k, l.Pairwise (fun i j => (s.wave i).admitted ≤ (s.wave j).admitted) → s.chosenWave l = some k →
      k ∈ l ∧ ((∃ j ∈ l, (s.wave j).starved = true) → (s.wave k).starved = true)
        ∧ ∀ j ∈ l, ((s.wave j).starved = true ∨ ∀ i ∈ l, (s.wave i).starved = false) → (s.wave k).admitted ≤ (s.wave j).admitted)
    ∧ (s.chosenWave l = none ↔ l = [])
    ∧ ∀ (w : Wave) (first last : Nat), w.cand = some (first, last) → first ≤ last →
      (w.starved = true ↔ 512 ≤ last - first + 1)
      ∧ runOn (last + 1) w.cand = (first, last + 1) ∧ ∀ n, runOn (last + 2 + n) w.cand = (last + 2 + n, last + 2 + n)

/-- The threads of an issue (R12): the group is the ready threads whose PC is the lowest among those with a starvation count of 64 or more, or
among all ready threads where none has; an issue returns the members' counts to 0 and raises those of the other ready threads by 1. A wave that
waits in place goes on with the unit that it waits in (R212), which counts as one issue. -/
def Claim.IssueGroup : Prop :=
  ∀ (s t : State) (k : Nat), s.chooseGroup k = some t →
    let w := t.me
    let starved (p : Nat) : Prop := (w.thread p).ready = true ∧ p < w.threads.length ∧ 64 ≤ (w.thread p).starve
    t.cur.wave = k
    ∧ (∀ h, w.inPlace = some h → t.cur.group = h.group ∧ t.cur.addr = h.addr ∧ t.fetchChosen = .bytes h.code)
    ∧ (w.inPlace = none →
      t.cur.group ≠ []
      ∧ (∀ p, p ∈ t.cur.group ↔ p < w.threads.length ∧ (w.thread p).ready = true ∧ (w.thread p).pc = t.cur.addr)
      ∧ ((∃ p, starved p) → (∃ p ∈ t.cur.group, starved p) ∧ ∀ p, starved p → t.cur.addr.toNat ≤ (w.thread p).pc.toNat)
      ∧ ((∀ p, ¬ starved p) → ∀ p, p < w.threads.length → (w.thread p).ready = true → t.cur.addr.toNat ≤ (w.thread p).pc.toNat)
      ∧ t.fetchChosen = t.fetch k t.cur.addr)
    ∧ ∀ i p, p < w.threads.length → ((t.endIssue t i).me.thread p).starve =
        if t.cur.part then (w.thread p).starve
        else if p ∈ t.cur.group then 0 else if (w.thread p).ready then (w.thread p).starve + 1 else (w.thread p).starve

/-- What issues: the wave that a core chooses, and the threads of its group. -/
def Obligations.IssueGroup : Prop := Claim.IssueGroup ∧ Claim.ChoiceOfWave

/-! ### Reset -/

/-- What boot leaves: two geometry, eight shading and four Basin dies and two absent entries, every timeline, pocket and reservoir at 0, every gate ON, every
COREEN bit of a
present core set, the arithmetic clock at 2,250 MHz, READY, device memory all zero and without poison marks, every copy tag IDLE, every
overlay slot EMPTY and every channel IDLE (R394, R138, R140, R195). The mix and the order of its indexes are the model's choice (log 4). -/
def Obligations.ResetLeaves : Prop :=
  let s := State.reset
  s.weir.ready = true ∧ s.weir.powered = true ∧ s.weir.mhz = 2250 ∧ s.weir.tgt = 2250 ∧ s.clock = 0 ∧ s.poison = []
    ∧ (∀ pa, s.homeByte pa = 0) ∧ (∀ d k, s.timeline d k = 0) ∧ (∀ c, (s.core c).pocket = 0) ∧ (∀ cl, (s.cluster cl).reservoir = 0)
    ∧ (∀ cl p, ((s.cluster cl).gates.get {} p).st = .on) ∧ (∀ c t, (s.core c).tags.get .idle t = .idle)
    ∧ (∀ c, (s.core c).slot0.st = .empty ∧ (s.core c).slot1.st = .empty) ∧ (∀ cl c, ((s.cluster cl).chans.get {} c).st = .idle)
    ∧ (∀ d, s.kindOf d = .shading → (s.die d).coreen0 = 0xFFFFFFFFFFFFFFFF ∧ (s.die d).coreen1 = 0xFFFFFFFF)
    ∧ (∀ d, s.kindOf d = .geometry → (s.die d).coreen0 = 0xFFFFFFFF ∧ (s.die d).coreen1 = 0)
    ∧ (∀ d, s.kindOf d = (if d < 2 then .geometry else if d < 10 then .shading else if d < 14 then .basin else .absent))
    ∧ Memory.wf s.mem = true ∧ s.waves = [] ∧ s.launches = [] ∧ s.parked = [] ∧ s.agenda = []

/-! ### Lane instructions -/

/-- The integer, logic, immediate, bit and move instructions, in their 32-bit and C16 forms (R32, R78, R82, R83, R85, R86, R91, R95, R98): each
completes, D and H0 of every unmasked member hold the result of the table, and nothing else changes but the older latches. -/
def Claim.IntegerResults : Prop :=
  ∀ (s : State) (i : Instr) (d : Code) (v : State → Nat → Word), intResult i = some (d, v) → s.passes i = true →
    ∃ t, exec i s = .next t ∧ s.LaneResult t d (v s)

/-- The FP32, packed and C16 float instructions and the conversions that do not narrow (R32, R65, R75, R86, R88, R89, R91 to R93, R96, R97). -/
def Claim.FloatResults : Prop :=
  ∀ (s : State) (i : Instr) (d : Code) (v : State → Nat → Word), floatResult i = some (d, v) → s.passes i = true →
    ∃ t, exec i s = .next t ∧ s.LaneResult t d (v s)

/-- The special functions (R99). Their values within the bounds of R99 are free (log 12). -/
def Claim.SpecialFunctionResults : Prop :=
  ∀ (s : State) (i : Instr) (d : Code) (v : State → Nat → Word), specialResult i = some (d, v) → s.passes i = true →
    ∃ t, exec i s = .next t ∧ s.LaneResult t d (v s)

/-- The float instructions and the special functions. -/
def Obligations.FloatInstructions : Prop := Claim.FloatResults ∧ Claim.SpecialFunctionResults

/-- The narrowing conversions (R64, R66, R94, R96): the elements stand side by side, element 0 lowest, each saturated under the rounding mode, or
rounded stochastically under SR; then the LFSR of every unmasked member has stepped once for each element, and else it is as it was. -/
def Obligations.NarrowingConversions : Prop :=
  ∀ (s : State) (i : Instr) (d : Code) (f : Fmt) (vals : State → Nat → List FVal), narrowResult i = some (d, f, vals) → s.passes i = true →
    let out (p : Nat) : List Nat × Word := narrow f s.rm s.sr (s.me.thread p).lfsr (vals s p)
    (∃ t, exec i s = .next t ∧ (s.stepLfsrs fun p => (out p).2).LaneResult t d fun p => word (packed f (out p).1))
    ∧ (s.sr = false → ∀ p, out p = ((vals s p).map (f.sat s.rm), (s.me.thread p).lfsr))
    ∧ (s.sr = true → ∀ p k x, (vals s p)[k]? = some x → (out p).1[k]? = some (f.roundSR (lfsrStep^[k] (s.me.thread p).lfsr) x)
        ∧ (out p).2 = lfsrStep^[(vals s p).length] (s.me.thread p).lfsr)

/-- The 64-bit integer instructions (R14, R17, R82): the pair D holds the result, and the latches are pushed high word first. -/
def Claim.WideResults : Prop :=
  ∀ (s : State) (i : Instr) (d : Code) (v : State → Nat → Word64), wideResult i = some (d, v) → s.passes i = true →
    ∃ t, exec i s = .next t ∧ s.LaneResult64 t d (v s)

/-- The compares, the predicate operations and the votes (R14, R84, R87, R90, R124, R145): each member's predicate, with a result for M0 discarded. -/
def Claim.PredicateResults : Prop :=
  ∀ (s : State) (i : Instr) (m : PredNo) (v : State → Nat → Bool), predResult i = some (m, v) → s.passes i = true →
    ∃ t, exec i s = .next t ∧ s.PredResult t m (v s)

/-- The cross-lane instructions, MTOV and the reads of state of the thread, wave, core and cluster with a 32-bit result (R76, R77, R124, R125, R143,
R144, R146, R153, R180, R222): no latch is pushed. -/
def Claim.CrossLaneResults : Prop :=
  ∀ (s : State) (i : Instr) (d : Code) (v : State → Nat → Word), eachResult i = some (d, v) → s.passes i = true →
    ∃ t, exec i s = .next t ∧ s.EachResult t d (v s)

/-- BALLOT, SRD of a 64-bit register and TL.READ (R21, R145, R322): the pair D holds the value in each member; a W pair keeps the lowest member's. -/
def Claim.CrossLaneResults64 : Prop :=
  ∀ (s : State) (i : Instr) (d : Code) (v : State → Nat → Word64), eachResult64 i = some (d, v) → s.passes i = true →
    ∃ t, exec i s = .next t ∧ s.GoesOn t
      ∧ (∀ p ∈ s.cur.group, (isW d = true → s.cur.group.head? = some p) →
          t.me.readCode p d = (v s p).extractLsb' 0 32 ∧ t.me.readCode p (d + 1) = (v s p).extractLsb' 32 32)
      ∧ (∀ p, (t.me.thread p).h0 = (s.me.thread p).h0 ∧ (t.me.thread p).h1 = (s.me.thread p).h1 ∧ (t.me.thread p).h2 = (s.me.thread p).h2
          ∧ (t.me.thread p).h3 = (s.me.thread p).h3)
      ∧ s.KeepsRegs t fun p c => s.writes d p c || s.writes (d + 1) p c

/-- The instructions whose results push no latch: predicates, cross-lane results, and reads of state. -/
def Obligations.ResultsWithoutLatch : Prop := Claim.PredicateResults ∧ Claim.CrossLaneResults ∧ Claim.CrossLaneResults64

/-- BFX and BFI bit by bit (R83). -/
def Obligations.BitFields : Prop :=
  ∀ (s : State) (d a b : Code),
    let pos (p : Nat) : Nat := (s.src p [a] b).toNat % 32
    let n (p : Nat) : Nat := min ((s.src p [a] b).toNat / 2 ^ 8 % 64) (32 - pos p)
    (s.passes (.bfx d a b) = true → ∃ t v, exec (.bfx d a b) s = .next t ∧ s.LaneResult t d v ∧
      ∀ p k, k < 32 → (v p).getLsbD k =
        if k < n p then (s.src p [] a).getLsbD (pos p + k)
        else decide (1 ≤ n p) && (s.src p [a] b).getLsbD 15 && (s.src p [] a).getLsbD (pos p + n p - 1))
    ∧ (s.passes (.bfi d a b) = true → ∃ t v, exec (.bfi d a b) s = .next t ∧ s.LaneResult t d v ∧
      ∀ p k, k < 32 → (v p).getLsbD k = (decide (pos p ≤ k ∧ k < pos p + n p) && (s.src p [] a).getLsbD (k - pos p)))

/-- What PushLatch does, and what a masked thread pushes (R17): the latches move down by one with their validity; a 64-bit result pushes its high
word and then its low word; a masked thread pushes what its destination receives, which for NWB under merge is H0 with its validity; with NWB no
register changes. -/
def Obligations.LatchPush : Prop :=
  ∀ (w old : Wave) (lead zero masked : Bool) (p : Nat) (c : Code) (v : Word) (v' : Word64), p < w.threads.length → (regOk c || c == 0xFC) = true →
    let got : Latch := if masked then (if zero then ⟨true, 0⟩ else if c = 0xFC then (old.thread p).h0 else ⟨true, old.readCode p c⟩) else ⟨true, v⟩
    let t := (w.dst old lead zero masked p c v).thread p
    let t' := (w.dst64 old lead zero false p c v').thread p
    t.h0 = got ∧ t.h1 = (w.thread p).h0 ∧ t.h2 = (w.thread p).h1 ∧ t.h3 = (w.thread p).h2
      ∧ t'.h0 = ⟨true, v'.extractLsb' 0 32⟩ ∧ t'.h1 = ⟨true, v'.extractLsb' 32 32⟩ ∧ t'.h2 = (w.thread p).h0 ∧ t'.h3 = (w.thread p).h1
      ∧ (c = 0xFC → t.v = (w.thread p).v ∧ t.o = (w.thread p).o ∧ (w.dst old lead zero masked p c v).w = w.w)

/-- Rounding is correct in every format (R55, R63): under RTZ the magnitude is the largest that does not exceed the exact one; a mode that rounds
away from zero for this sign gives the smallest that is not below it; and under RNE no other value is nearer, with an even result of a tie. -/
def Obligations.RoundingIsCorrect : Prop :=
  ∀ (f : Fmt) (neg : Bool) (m : Nat) (e : Int), 0 < f.frac →
    let x : ℚ := m * (2 : ℚ) ^ e
    let val := f.magnitude
    (let r := f.roundMag .rtz neg m e; val r ≤ x ∧ x < val (r + 1))
    ∧ (let r := f.roundMag (if neg then .rdn else .rup) neg m e; x ≤ val r ∧ ∀ k, k < r → val k < x)
    ∧ (let r := f.roundMag .rne neg m e; (∀ k, |val r - x| ≤ |val k - x|) ∧ ∀ k, k ≠ r → |val k - x| = |val r - x| → r % 2 = 0)
    ∧ f.roundMag (if neg then .rup else .rdn) neg m e = f.roundMag .rtz neg m e

/-- Special inputs of the special functions (R100). -/
def Obligations.SpecialInputs : Prop :=
  let nan : Nat := 0x7FC00000
  let inf : Nat := 0x7F800000
  let one : Nat := 0x3F800000
  let neg (x : Nat) : Nat := 0x80000000 + x
  (rcp 0 = inf ∧ rsq 0 = inf ∧ sqrt32 0 = 0 ∧ exp2 0 = one ∧ log2 0 = neg inf ∧ sin 0 = 0 ∧ cos 0 = one ∧ tanh 0 = 0 ∧ sigm 0 = 0x3F000000)
  ∧ (rcp (neg 0) = neg inf ∧ rsq (neg 0) = neg inf ∧ sqrt32 (neg 0) = neg 0 ∧ exp2 (neg 0) = one ∧ log2 (neg 0) = neg inf ∧ sin (neg 0) = neg 0
      ∧ cos (neg 0) = one ∧ tanh (neg 0) = neg 0 ∧ sigm (neg 0) = 0x3F000000)
  ∧ (rcp inf = 0 ∧ rsq inf = 0 ∧ sqrt32 inf = inf ∧ exp2 inf = inf ∧ log2 inf = inf ∧ sin inf = nan ∧ cos inf = nan ∧ tanh inf = one ∧ sigm inf = one)
  ∧ (rcp (neg inf) = neg 0 ∧ rsq (neg inf) = nan ∧ sqrt32 (neg inf) = nan ∧ exp2 (neg inf) = 0 ∧ log2 (neg inf) = nan ∧ sin (neg inf) = nan
      ∧ cos (neg inf) = nan ∧ tanh (neg inf) = neg one ∧ sigm (neg inf) = 0)
  ∧ (∀ a, 0 < a → a < inf → rcp (neg a) = neg (rcp a) ∧ rsq (neg a) = nan ∧ sqrt32 (neg a) = nan ∧ log2 (neg a) = nan)
  ∧ (∀ a, a < 2 ^ 32 → inf < a % 2 ^ 31 → rcp a = nan ∧ rsq a = nan ∧ sqrt32 a = nan ∧ exp2 a = nan ∧ log2 a = nan ∧ sin a = nan ∧ cos a = nan
      ∧ tanh a = nan ∧ sigm a = nan)
  ∧ (∀ a, a < 2 ^ 32 → a % 2 ^ 31 ≤ inf → tanh a % 2 ^ 31 ≤ one ∧ sigm a ≤ one)

/-! ### Traps -/

/-- Taking a trap (R23, R24): with a handler that no member of the group is in, every member enters it with its TPC and TVAL and no valid latch, the
cause's bit is set, and every other thread and wave goes on as it was. -/
def Claim.TrapEntry : Prop :=
  ∀ (s : State) (c : Cause) (tpc : Word) (tval : Nat → Word), s.issuing = true → s.handles = true →
    s.Traps (s.deliverAll s.cur.wave (s.cur.group.map fun p => (p, .trap c tpc (tval p)))) c tpc tval

/-- A trap with no handler, or in the handler, ends the task faulted (R23 points 4 and 5): all waves of the launch stop, and what its completion
entry will carry is status 1, the cause, and this trap's TPC and TVAL. (The premise that no acceleration structure exists keeps the settling of
its generations, R299, out of the statement.) -/
def Claim.TrapEndsTask : Prop :=
  ∀ (s : State) (k p : Nat) (w : Wave) (l : Launch) (c : Cause) (tpc tval : Word), s.waves.find k = some w → s.launches.find w.launch = some l →
    (s.waves.map Prod.fst).Nodup → l.phase = .running → w.tvec = 0 ∨ (w.thread p).inHandler = true → s.structs = [] → s.queries = [] →
    let t := s.takeTrap k p c tpc tval
    let l' := t.launch w.launch
    t.hasWaves w.launch = false ∧ l'.phase = .ended ∧ l'.status = 1 ∧ l'.endTpc = tpc ∧ l'.endTval = tval ∧ l'.causeAcc &&& c.mask = c.mask
      ∧ (∀ j v, s.waves.find j = some v → v.launch ≠ w.launch → t.wave j = v)
      ∧ t.mem = s.mem

/-- A trap enters the wave's handler, or ends its task. -/
def Obligations.Traps : Prop := Claim.TrapEntry ∧ Claim.TrapEndsTask

/-- A unit whose encoding, operand codes, budget or prefixes are not permitted raises ILL in every member, with the unit's address and its first 32
bits, before any other cause of a resident unit (R14, R24, R38, R45): for every instruction that has an encoding. -/
def Claim.IllegalUnits : Prop :=
  ∀ (s : State) (i : Instr), i.encoded = true → s.issuing = true → s.handles = true → unitOk i s.me s.cur = false → s.myLaunch.request = none →
    ∃ t, exec i s = .next t ∧ s.Traps t .ill s.cur.addr fun _ => s.cur.first

/-- Bytes that no instruction is assigned raise ILL in every member (R44): when the unit at the PC does not decode, the issue is exec of
ILLEGAL_ENCODING, which is that trap. -/
def Claim.UnassignedBytes : Prop :=
  ∀ (s : State), s.issuing = true → s.handles = true →
    (∃ t, exec .illegalEncoding s = .next t ∧ s.Traps t .ill s.cur.addr fun _ => s.cur.first)
    ∧ ∀ (s₀ t : State) (k : Nat) (bs : List Byte), s₀.chooseGroup k = some t → t.fetchChosen = .bytes bs → decodeUnit bs = none →
        s = (t.setUnit bs none).meetIssue .illegalEncoding → s.notedMembers = [] → s.cur.addr.toNat + 4 < 2 ^ 20 →
        s₀.issueWave k exec = andThen (exec .illegalEncoding s) fun w => .next (w.endIssue s .illegalEncoding)

/-- Past offset 0xFFFF of overlay 15 there is no instruction (R27): a unit that ends there and that the whole group would go on from raises ILL in it
instead, with the unit's address, and has no other effect. (That the unit itself raises it is the model's reading, log 26.) -/
def Claim.EndOfOverlays : Prop :=
  ∀ (s w : State) (run : State → Host.Outcome State Fault Refusal), s.issuing = true → s.handles = true → s.cur.addr.toNat + s.cur.len = 2 ^ 20 →
    run s = .next w → w.me.uid = s.me.uid → (∀ p ∈ s.cur.group, (w.me.thread p).ended = false ∧ (w.me.thread p).pc = s.nextAddr) →
    ∃ t, s.runWithin run = .next t ∧ s.Traps t .ill s.cur.addr fun _ => s.cur.first

/-- What is not permitted, or not assigned, raises ILL, and so does what would go on past the last overlay. -/
def Obligations.IllegalInstructions : Prop := Claim.IllegalUnits ∧ Claim.UnassignedBytes ∧ Claim.EndOfOverlays

/-- The privileged encodings are FREPLY, SWR with OTHER = 1, OVL.LOAD with TAB = 1 and BLD.BUILD with NFT = 1 (R43). In a task that is not privileged
each raises PRIV in every member with the instruction's first 32 bits (R24), changing nothing else. (On a geometry die BLD.BUILD raises ILL
before that, R45, R288; OVL.LOAD.TAB raises ILL before it for a reserved bit in its value, R159; and SWR.OTHER raises PRIV before the ILL of a value
that is no code address, which is log 53's choice.) -/
def Obligations.PrivilegedInstructions : Prop :=
  (∀ i : Instr, i.privileged = true ↔ ((∃ c a, i = .freply c a) ∨ (∃ n a, i = .swrOther n a) ∨ (∃ n a, i = .ovlLoadTab n a) ∨ ∃ a, i = .bldBuildNft a))
  ∧ ∀ (s : State) (i : Instr), i.privileged = true → s.issuing = true → s.handles = true → unitOk i s.me s.cur = true → s.me.priv = false →
      ((∃ a, i = .bldBuildNft a) → s.kindOf s.myDie ≠ .geometry) →
      (∀ n a, i = .ovlLoadTab n a → ∀ p ∈ s.cur.group, (s.src64 p a).extractLsb' 57 6 = 0) →
      ∃ t, exec i s = .next t ∧ s.Traps t .priv s.cur.addr fun _ => s.cur.first

/-- An instruction that reads an invalid latch raises LATCH (R19): TVAL is the code of the first invalid one in field order D, A, B, C, and the
instruction has no other effect. Stated for the lane, memory and atomic instructions, with every member unmasked. -/
def Obligations.InvalidLatch : Prop :=
  ∀ (s : State) (i : Instr) (before after : Nat → List Code) (c : Nat → Code),
    ((intResult i).isSome || (floatResult i).isSome || (specialResult i).isSome || (narrowResult i).isSome || (wideResult i).isSome
      || (predResult i).isSome || (loadForm i).isSome || (storeForm i).isSome || (atomicForm i).isSome) = true →
    s.issuing = true → s.handles = true → unitOk i s.me s.cur = true →
    let latch (p : Nat) (x : Code) : Latch := (s.me.thread p).latch (x.toNat - 0xF8)
    let bad (p : Nat) (x : Code) : Prop := 0xF8 ≤ x.toNat ∧ x.toNat ≤ 0xFB ∧ (latch p x).valid = false
    (∀ p ∈ s.cur.group, s.masked p = false ∧ s.sources i p = before p ++ c p :: after p ∧ bad p (c p) ∧ ∀ x ∈ before p, ¬ bad p x) →
    ∃ t, exec i s = .next t ∧ s.Traps t .latch s.cur.addr fun p => (c p).zeroExtend 32

/-- An overlay that is not resident (R24, R28): when the chosen PC lies in it, every member raises OVLMISS at that PC with the overlay's number, and
nothing is fetched. -/
def Claim.OverlayMiss : Prop :=
  ∀ (s t : State) (k : Nat), s.chooseGroup k = some t → t.me.inPlace = none → t.issuing = true → t.handles = true →
    (t.core t.myCore).resident t.me.obj (t.cur.addr.toNat / 2 ^ 16) = none →
    ∃ u, s.issueWave k exec = .next (u.endIssue t .illegalEncoding) ∧ t.Traps u .ovlmiss t.cur.addr fun _ => word (t.cur.addr.toNat / 2 ^ 16)

/-- Causes raised at a thread's next issue (R433): each member with causes noted raises the first of them at the unit's address with the noted TVAL,
keeps the rest, and leaves the group, so that it does not execute the unit; the other members stay in the group as they were. -/
def Claim.NotedCauses : Prop :=
  ∀ (s : State) (c : Nat → Cause) (v : Nat → Word) (rest : Nat → List (Cause × Word)), s.issuing = true → s.me.tvec ≠ 0 →
    (∃ p ∈ s.cur.group, (s.me.thread p).noted ≠ []) →
    (∀ p ∈ s.cur.group, (s.me.thread p).noted ≠ [] → (s.me.thread p).noted = (c p, v p) :: rest p ∧ (s.me.thread p).inHandler = false) →
    ∃ t, exec .notedCauseDelivery s = .next t
      ∧ t.cur.group = s.cur.group.filter (fun p => (s.me.thread p).noted.isEmpty)
      ∧ (∀ p ∈ s.cur.group, (s.me.thread p).noted ≠ [] →
          t.me.thread p = { (s.me.thread p).inTrap s.me.tvec s.cur.addr (v p) with noted := rest p, starve := 0 })
      ∧ (∀ p, (p ∉ s.cur.group ∨ (s.me.thread p).noted = []) → t.me.thread p = s.me.thread p)
      ∧ (∀ b, b < 32 → (t.me.cause.getLsbD b = true ↔
          s.me.cause.getLsbD b = true ∨ ∃ p ∈ s.cur.group, (s.me.thread p).noted ≠ [] ∧ (c p).mask.getLsbD b = true))
      ∧ ∀ k, k ≠ s.cur.wave → t.wave k = s.wave k

/-- The causes that a thread meets before its unit: an overlay that is not resident, and what was noted for it. -/
def Obligations.CausesAtIssue : Prop := Claim.OverlayMiss ∧ Claim.NotedCauses

/-- RFT (R23, R325): every member leaves its handler for the address in its own TPC, with its latches invalid. A member that is in no handler raises
ILL. -/
def Claim.ReturnFromTrap : Prop :=
  ∀ (s : State), s.passes .rft = true →
    ((∀ p ∈ s.cur.group, (s.me.thread p).inHandler = true) → ∃ t, exec .rft s = .next t
      ∧ (s.mapGroup fun _ x => { x.dropLatches with inHandler := false }).GoesTo t fun p => (s.me.thread p).tpc)
    ∧ (s.handles = true → s.Raises .rft .ill fun _ => s.cur.first)

/-! ### Control flow -/

/-- BRA and CALL (R27, R119): taken when M[PRED] XOR NEG holds, they go to their own address plus twice the offset, and CALL links O7 to the next
instruction's code address; not taken, they go on. A target outside the code addresses raises ILL, taken or not. -/
def Claim.Branches : Prop :=
  ∀ (s : State) (m : PredNo) (n : BitVec 1) (o : BitVec 20),
    let takes (p : Nat) : Bool := (s.me.thread p).pred m ^^ (n == 1)
    let sum : Int := s.cur.addr.toNat + 2 * o.toInt
    let pc (p : Nat) : Word := if takes p then BitVec.ofInt 32 sum else s.nextAddr
    (s.passes (.bra m n o) = true → 0 ≤ sum → sum ≤ 0xFFFFE → ∃ t, exec (.bra m n o) s = .next t ∧ s.GoesTo t pc)
    ∧ (s.passes (.call m n o) = true → 0 ≤ sum → sum ≤ 0xFFFFE → ∃ t, exec (.call m n o) s = .next t
        ∧ (∀ p ∈ s.cur.group, (t.me.thread p).pc = pc p ∧ (takes p = true → t.me.readCode p 0xF7 = s.nextAddr &&& 0xFFFFF))
        ∧ s.KeepsRegs t (fun p c => c == 0xF7 && s.cur.group.contains p && takes p)
        ∧ (∀ p, (t.me.thread p).rest = (s.me.thread p).rest ∧ ∀ k, (t.me.thread p).latch k = (s.me.thread p).latch k)
        ∧ (∀ p, p ∉ s.cur.group → (t.me.thread p).pc = (s.me.thread p).pc)
        ∧ t.me = { s.me with threads := t.me.threads } ∧ s.OnlyWave t)
    ∧ ((sum < 0 ∨ 0xFFFFE < sum) → s.handles = true →
        (s.passes (.bra m n o) = true → ∃ t, exec (.bra m n o) s = .next t ∧ s.Traps t .ill s.cur.addr fun _ => s.cur.first)
        ∧ (s.passes (.call m n o) = true → ∃ t, exec (.call m n o) s = .next t ∧ s.Traps t .ill s.cur.addr fun _ => s.cur.first))

/-- RET (R119): the members that take it go to the address in O7; one that holds no code address raises ILL, taken or not, while the others of its
group go on. -/
def Claim.Returns : Prop :=
  ∀ (s : State) (m : PredNo) (n : BitVec 1), s.passes (.ret m n) = true → (∀ p ∈ s.cur.group, 0xF7 ∉ (s.me.thread p).bad) →
    let takes (p : Nat) : Bool := (s.me.thread p).pred m ^^ (n == 1)
    let o7 (p : Nat) : Word := s.me.readCode p 0xF7
    let ok (p : Nat) : Bool := decide ((o7 p).toNat < 2 ^ 20) && !(o7 p).getLsbD 0
    ((∀ p ∈ s.cur.group, ok p) → ∃ t, exec (.ret m n) s = .next t ∧ s.GoesTo t fun p => if takes p then o7 p else s.nextAddr)
    ∧ ((∀ p ∈ s.cur.group, ¬ ok p) → s.handles = true → ∃ t, exec (.ret m n) s = .next t ∧ s.Traps t .ill s.cur.addr fun _ => s.cur.first)
    ∧ ((∃ p ∈ s.cur.group, ¬ ok p) → s.handles = true → ∃ t, exec (.ret m n) s = .next t
        ∧ (s.goSome ok fun p => if takes p then o7 p else s.nextAddr).TrapsSome t (fun p => !ok p) .ill fun _ => s.cur.first)

/-- BRA, CALL and RET. -/
def Obligations.DirectBranches : Prop := Claim.Branches ∧ Claim.Returns

/-- BRI and CALLI (R122, R123): through table n of the overlay that holds the instruction every member goes to the entry that its index names, all
with one fresh join mark, and CALLI links O7; a member whose index names no entry raises TARGET with the index, while the others of its group go. -/
def Obligations.IndirectBranches : Prop :=
  ∀ (s : State) (a : Code) (n : BitVec 4) (slot : Nat) (table : TargetTable),
    (s.core s.myCore).resident s.me.obj (s.cur.addr.toNat / 2 ^ 16) = some slot → ((s.core s.myCore).slot slot).tables[n.toNat]? = some table →
    let index (p : Nat) : Word := s.src p [] a
    let entry (p : Nat) : Word := table.entries.getD (index p).toNat 0
    let goes (t : State) (join : Word) : Prop :=
      (∀ p ∈ s.cur.group, (t.me.thread p).pc = entry p ∧ (t.me.thread p).mark = some ⟨s.nextId, join⟩) ∧ t.nextId = s.nextId + 1
        ∧ (∀ p, { (t.me.thread p).rest with mark := none } = { (s.me.thread p).rest with mark := none })
        ∧ (∀ p, p ∉ s.cur.group → (t.me.thread p).pc = (s.me.thread p).pc ∧ (t.me.thread p).mark = (s.me.thread p).mark)
    ((∀ p ∈ s.cur.group, (index p).toNat < table.entries.length) →
      (s.passes (.bri a n) = true → ∃ t, exec (.bri a n) s = .next t ∧ goes t table.join ∧ s.KeepsRegs t fun _ _ => false)
      ∧ (s.passes (.calli a n) = true → ∃ t, exec (.calli a n) s = .next t ∧ goes t (s.nextAddr &&& 0xFFFFF)
          ∧ (∀ p ∈ s.cur.group, t.me.readCode p 0xF7 = s.nextAddr &&& 0xFFFFF) ∧ s.KeepsRegs t fun p c => c == 0xF7 && s.cur.group.contains p))
    ∧ ((∀ p ∈ s.cur.group, table.entries.length ≤ (index p).toNat) → s.handles = true →
      (s.passes (.bri a n) = true → ∃ t, exec (.bri a n) s = .next t ∧ s.Traps t .target s.cur.addr index)
      ∧ (s.passes (.calli a n) = true → ∃ t, exec (.calli a n) s = .next t ∧ s.Traps t .target s.cur.addr index))
    ∧ ((∃ p ∈ s.cur.group, (index p).toNat < table.entries.length) → (∃ p ∈ s.cur.group, table.entries.length ≤ (index p).toNat) →
      s.handles = true →
      let good (p : Nat) : Bool := decide ((index p).toNat < table.entries.length)
      let went (link : Bool) : State := ({ s with nextId := s.nextId + 1 }.goSome good entry).mapGroup fun p x =>
        if good p then { x with mark := some ⟨s.nextId, if link then s.nextAddr &&& 0xFFFFF else table.join⟩
                                o := if link then x.o.putD 0 7 (s.nextAddr &&& 0xFFFFF) else x.o
                                bad := if link then x.bad.filter (· != 0xF7) else x.bad }
        else x
      (s.passes (.bri a n) = true → ∃ t, exec (.bri a n) s = .next t ∧ (went false).TrapsSome t (fun p => !good p) .target index)
      ∧ (s.passes (.calli a n) = true → ∃ t, exec (.calli a n) s = .next t ∧ (went true).TrapsSome t (fun p => !good p) .target index))

/-- EXIT (R25, R119, R121): the members that take it end, holding no mark and no noted cause, and the others go on; when no other thread of the wave
lives, the wave leaves its slot. (The premise on queries keeps the end of a ray query, R301, out of the statement.) -/
def Obligations.ThreadsEnd : Prop :=
  ∀ (s : State) (m : PredNo) (n : BitVec 1), s.passes (.exit m n) = true → s.queries = [] →
    let takes (p : Nat) : Bool := s.cur.group.contains p && ((s.me.thread p).pred m ^^ (n == 1))
    ((∃ q, q < s.me.threads.length ∧ (s.me.thread q).ended = false ∧ takes q = false) →
      ∃ t, exec (.exit m n) s = .next t
        ∧ (∀ p, (t.me.thread p).ended = ((s.me.thread p).ended || takes p))
        ∧ (∀ p, takes p = true → (t.me.thread p).mark = none ∧ (t.me.thread p).noted = [] ∧ (t.me.thread p).held = none)
        ∧ (∀ p ∈ s.cur.group, takes p = false → t.me.thread p = { s.me.thread p with pc := s.nextAddr })
        ∧ (∀ p, p ∉ s.cur.group → t.me.thread p = s.me.thread p)
        ∧ (∀ p c, t.me.readCode p c = s.me.readCode p c) ∧ t.me = { s.me with threads := t.me.threads } ∧ s.OnlyWave t)
    ∧ ((∀ q, q < s.me.threads.length → (s.me.thread q).ended = true ∨ takes q = true) →
      (∀ p ∈ s.cur.group, (s.me.thread p).ended = false) → s.myLaunch.request = none →
      ∃ t, exec (.exit m n) s = .next t ∧ t.waves.find s.cur.wave = none ∧ ∀ k, k ≠ s.cur.wave → (t.wave k).threads = (s.wave k).threads)

/-- TRAP (R24, R120): a member that takes it raises TRAPI with TPC the address of the next instruction and TVAL the immediate, and nothing else of the
thread changes; a member that does not goes on. -/
def Claim.TrapInstruction : Prop :=
  ∀ (s : State) (m : PredNo) (n : BitVec 1) (x : BitVec 8), s.passes (.trap m n x) = true → s.me.tvec ≠ 0 →
    let takes (p : Nat) : Bool := (s.me.thread p).pred m ^^ (n == 1)
    (∀ p ∈ s.cur.group, takes p = true → (s.me.thread p).inHandler = false) →
    ∃ t, exec (.trap m n x) s = .next t
      ∧ (∀ p ∈ s.cur.group, takes p = true → t.me.thread p = (s.me.thread p).inTrap s.me.tvec (s.nextAddr &&& 0xFFFFF) (x.zeroExtend 32))
      ∧ (∀ p ∈ s.cur.group, takes p = false → t.me.thread p = { s.me.thread p with pc := s.nextAddr })
      ∧ (∀ p, p ∉ s.cur.group → t.me.thread p = s.me.thread p)
      ∧ t.me.cause = (if s.cur.group.any takes then s.me.cause ||| Cause.mask .trapi else s.me.cause)
      ∧ (∀ k, k ≠ s.cur.wave → t.wave k = s.wave k) ∧ t.mem = s.mem

/-- TRAP in the handler (R23 point 5, R120): the task of a lone member that takes it there ends faulted, with the address of the next instruction and
the immediate in its completion entry. (The premises on structures and queries keep the settling of R299 and R301 out of the statement.) -/
def Claim.TrapInHandler : Prop :=
  ∀ (s : State) (m : PredNo) (n : BitVec 1) (x : BitVec 8) (p : Nat) (l : Launch), s.passes (.trap m n x) = true → s.cur.group = [p] →
    ((s.me.thread p).pred m ^^ (n == 1)) = true → s.me.tvec = 0 ∨ (s.me.thread p).inHandler = true →
    s.launches.find s.me.launch = some l → l.phase = .running → (s.waves.map Prod.fst).Nodup → s.structs = [] → s.queries = [] →
    ∃ t, exec (.trap m n x) s = .next t ∧ t.hasWaves s.me.launch = false
      ∧ (t.launch s.me.launch).phase = .ended ∧ (t.launch s.me.launch).status = 1
      ∧ (t.launch s.me.launch).endTpc = s.nextAddr &&& 0xFFFFF ∧ (t.launch s.me.launch).endTval = x.zeroExtend 32
      ∧ (t.launch s.me.launch).causeAcc &&& Cause.mask .trapi = Cause.mask .trapi
      ∧ (∀ j v, s.waves.find j = some v → v.launch ≠ s.me.launch → t.wave j = v)

/-- TRAP and RFT. -/
def Obligations.TrapAndReturn : Prop := Claim.TrapInstruction ∧ Claim.TrapInHandler ∧ Claim.ReturnFromTrap

/-- Special registers (R20, R21, R126): SWR writes TPC, LFSR or GENS of every member, or the wave's TVEC with the lowest member's value; a value of TPC
or TVEC that is no code address raises ILL in its member. SWR.OTHER writes TVEC or LFSR of the wave in the slot that W15[3:0] names, if one stands there. -/
def Obligations.SpecialRegisterWrites : Prop :=
  ∀ (s : State) (a : Code),
    let v (p : Nat) : Word := s.src p [] a
    let code (x : Word) : Bool := decide (x.toNat < 2 ^ 20) && !x.getLsbD 0
    let k := 16 * s.myCore + (s.me.readCode 0 0xEF).toNat % 16
    let slotOf (q : Nat) : Option Nat := s.cur.group.find? fun p => (s.wave k).base + q == s.me.base + p
    (s.passes (.swr 0x11 a) = true → (∀ p ∈ s.cur.group, code (v p)) → s.Completes (.swr 0x11 a) (s.mapGroup fun p t => { t with tpc := v p }))
    ∧ (s.passes (.swr 0x1C a) = true → s.Completes (.swr 0x1C a) (s.mapGroup fun p t => { t with lfsr := v p }))
    ∧ (s.passes (.swr 0x1D a) = true → s.Completes (.swr 0x1D a) (s.mapGroup fun p t => { t with gens := v p }))
    ∧ (s.passes (.swr 0x13 a) = true → (∀ p ∈ s.cur.group, code (v p)) →
        s.Completes (.swr 0x13 a) (s.modWave s.cur.wave fun w => { w with tvec := v s.lowest }))
    ∧ (s.passes (.swrOther 0x13 a) = true → (∀ p ∈ s.cur.group, code (v p)) →
        s.Completes (.swrOther 0x13 a) (s.modWave k fun w => { w with tvec := v s.lowest }))
    ∧ (s.passes (.swrOther 0x1C a) = true → s.Completes (.swrOther 0x1C a) (s.modWave k fun w =>
        let one (q : Nat) (t : Thread) : Thread := match slotOf q with | some p => { t with lfsr := v p } | none => t
        { w with threads := (List.range w.threads.length).zipWith one w.threads }))
    ∧ ((∀ p ∈ s.cur.group, ¬ code (v p)) → s.handles = true →
        (s.passes (.swr 0x11 a) = true → ∃ t, exec (.swr 0x11 a) s = .next t ∧ s.Traps t .ill s.cur.addr fun _ => s.cur.first)
        ∧ (s.passes (.swr 0x13 a) = true → ∃ t, exec (.swr 0x13 a) s = .next t ∧ s.Traps t .ill s.cur.addr fun _ => s.cur.first)
        ∧ (s.passes (.swrOther 0x13 a) = true → s.Raises (.swrOther 0x13 a) .ill fun _ => s.cur.first))
    ∧ ((∃ p ∈ s.cur.group, code (v p)) → (∃ p ∈ s.cur.group, ¬ code (v p)) → s.handles = true → s.passes (.swr 0x11 a) = true →
        ∃ t, exec (.swr 0x11 a) s = .next t
          ∧ ((s.goSome (fun p => code (v p)) fun _ => s.nextAddr).mapGroup fun p x => if code (v p) then { x with tpc := v p } else x).TrapsSome t
              (fun p => !code (v p)) .ill fun _ => s.cur.first)

/-- NOP changes nothing, and the wave goes on (R32). -/
def Claim.NoOperation : Prop := ∀ (s : State), s.passes .nop = true → s.Completes .nop s

/-- The integer instructions with a 32-bit and a 64-bit result, and NOP. -/
def Obligations.IntegerInstructions : Prop := Claim.IntegerResults ∧ Claim.WideResults ∧ Claim.NoOperation

/-! ### Memory -/

/-- A die's own order (R250, R352): right after a store of die d, each of its bytes reads on die d as the byte stored, and every other address reads as
before; no other die and no home sees it yet. (A store of decoded bytes through an RGN page changes no stored byte before it is at its home. That a store
lands in a step of its own is log 10's.) -/
def Claim.DieReadsItsLatestStore : Prop :=
  ∀ (s : State) (d : Nat) (e : PendStore) (pa : Nat),
    (s.store d e).viewByte d pa =
      (if e.tile = false ∧ e.pa ≤ pa ∧ pa < e.pa + e.data.length then e.data.getD (pa - e.pa) 0 else s.viewByte d pa)
    ∧ (∀ d', d' ≠ d → (s.store d e).viewByte d' pa = s.viewByte d' pa) ∧ (s.store d e).mem = s.mem ∧ (s.store d e).outside = s.outside

/-- A store reaches its home (R352): the home holds its bytes from then on and no other byte of memory changes; while no watch entry exists, every
other die goes on reading what it read before, until its view rises (by steps of its own, log 10). -/
def Claim.StoreReachesHome : Prop :=
  ∀ (s : State) (d agent : Nat) (pa a : Nat) (data : List Byte),
    let t := s.land (some d) agent (cellsOf pa data)
    t.homeByte a = (if pa ≤ a ∧ a < pa + data.length then data.getD (a - pa) 0 else s.homeByte a)
    ∧ (s.watches = [] → a < 2 ^ 51 → ∀ e, e ≠ d → e ∈ s.computeDies → t.viewByte e a = s.viewByte e a)
    ∧ (∀ e, (t.acquireSys e).viewByte e a = ((pendByte (t.die e).pend a).getD (t.placeByte a)))

/-- A release at SYS scope (R355): where every store of the die can reach its home, afterwards the home of every byte that the die had stored holds
the byte that the die reads there, nothing of the die waits any more, and every other die without a store of its own to that byte reads it. (It lands
the stores of the whole die, more than R355 asks of the releasing thread: log 10.) -/
def Claim.ReleaseMakesStoresVisible : Prop :=
  ∀ (s : State) (d a : Nat) (b : Byte), d ∈ s.computeDies → s.watches = [] → s.canFlush d = true →
    (∀ e ∈ (s.die d).pend, e.sem = none ∧ e.tile = false ∧ e.redo = none) → a < 2 ^ 51 →
    pendByte (s.die d).pend a = some b →
    (∀ e ∈ (s.die d).pend, e.pa + e.data.length ≤ 2 ^ 51 ∨ 2 ^ 51 ≤ e.pa) →
    let t := s.releaseSys d
    t.homeByte a = b ∧ (t.die d).pend = [] ∧ t.viewByte d a = b
    ∧ ∀ e, e ∈ s.computeDies → e ≠ d → pendByte (s.die e).pend a = none → t.viewByte e a = b

/-- Memory that nothing has written reads 0 (R394), and equal memories are equal data: whatever is written, reading a byte back gives what was put
there, every other byte reads as before, and putting back a byte's old value leaves memory as it was. -/
def Claim.ByteReadAfterWrite : Prop :=
  (∀ pa, State.reset.homeByte pa = 0)
  ∧ ∀ (s : State) (pa a : Nat) (b : Byte), (s.putHomeByte pa b).homeByte a = (if a = pa then b else s.homeByte a)
    ∧ (Memory.wf s.mem = true → ((s.putHomeByte pa b).putHomeByte pa (s.homeByte pa)).mem = s.mem)

/-- A store in its die's order, at its home, and in the views of the other dies; and a byte after a write. -/
def Obligations.StoresAndViews : Prop := Claim.DieReadsItsLatestStore ∧ Claim.StoreReachesHome ∧ Claim.ReleaseMakesStoresVisible ∧ Claim.ByteReadAfterWrite

/-- What a load of each form makes of the bytes in place (R106): little-endian, extended by zeros or by the sign. -/
def Claim.LoadedValues : Prop :=
  ∀ (s : State) (d pa : Nat),
    let b (k : Nat) : Byte := s.viewByte d (pa + k)
    let w (k : Nat) : Word := b (k + 3) ++ b (k + 2) ++ b (k + 1) ++ b k
    s.loadSpot formB d (.stored pa) = [(b 0).zeroExtend 32] ∧ s.loadSpot formBs d (.stored pa) = [(b 0).signExtend 32]
    ∧ s.loadSpot formH d (.stored pa) = [(b 1 ++ b 0).zeroExtend 32] ∧ s.loadSpot formHs d (.stored pa) = [(b 1 ++ b 0).signExtend 32]
    ∧ s.loadSpot formW d (.stored pa) = [w 0] ∧ s.loadSpot formRaw d (.stored pa) = [w 0] ∧ s.loadSpot formD d (.stored pa) = [w 0, w 4]
    ∧ s.loadSpot formQ d (.stored pa) = [w 0, w 4, w 8, w 12]

/-- A load of a member (R103, R106, R107): where its access is permitted and meets no poison mark, D and the registers after it hold what stands
there, an acquire follows, and a plain load is listed as one that may stay open (R353, log 9); an access outside the module leaves, and the wave waits for
it (R429); a mark raises POISON with the line's address (R247). A permitted access waits in place where it must: for a region's change of owner (R349),
an SC load for its thread's stores (R356), one of the host window for those to the host (R429), one outside the module for a block that its die
changes there (logs 10 and 46). -/
def Claim.LoadsComplete : Prop :=
  ∀ (s : State) (i : Instr) (f : MemForm) (d a : Code) (o : BitVec 8) (p : Nat) (x : Spot), loadForm i = some (f, d, a, o) → s.passes i = true →
    s.alone p = true →
    let va := (s.src64 p a + o.signExtend 64 * BitVec.ofNat 64 f.size).toNat
    (s.access f false .read va).1 = .ok x →
    let z := (s.access f false .read va).2
    let y := f.outAccess { (z.touchSpot s.myDie x).myAccess va 0 0 with dests := [(p, d, 0)] } x
    let r := z.reached p x
    (z.loadHeld p x y = true → s.HoldsAt i)
    ∧ (z.loadHeld p x y = false →
      (r.spotPoison s.myDie f.size x = none →
        (y = none → s.Completes i (((r.writeLeads true p d (r.loadSpot f s.myDie x)).afterLoad s.acquires s.myDie).listLoad f p d x))
        ∧ ∀ q, y = some q → s.Completes i (r.sendOut q))
      ∧ ∀ pa, r.spotPoison s.myDie f.size x = some pa → s.handles = true → s.Raises i .poison fun _ => lineTval pa)

/-- LDC (R109, R118): a raw 32-bit load from the constant window, whose base need be no multiple of 4, for an offset that is a multiple of 4 and a word
wholly below CLEN; a word beyond it, or on a page that the task may not read, raises PROT with the offset. Its bytes are read as `rangeRead` says: inside
the module what the die reads, from outside the module those that the unit has asked for and waits for in place (R429, log 46). -/
def Claim.ConstantLoads : Prop :=
  ∀ (s : State) (d a : Code) (o : BitVec 8) (p : Nat), s.passes (.ldc d a o) = true → s.alone p = true →
    let off := (s.src p [] a + o.signExtend 32 * 4).toNat
    let va := s.me.constBase + off
    let q := s.translateRange s.myDie s.me.space (fun e => readable s.me.priv e && notControl e) va 4 (some s.myCore)
    (off % 4 = 0 → off + 4 ≤ s.me.clen →
      (∀ m, q.1 = .ok m → (∀ y ∈ m, pteFmt y.2.2 < 15) →
        let r := q.2.rangeRead (m.map fun y => (y.1, y.2.1, 0)) va 4
        ((∀ y ∈ m, y.2.1 < 2 ^ 51) → r.2.cur.blocked = false → (∀ k, k < 4 → r.2.poisonedAt s.myDie (rangePa m (va + k)) = false) →
          r.1 = .ok (some ((upFrom va 4).map fun k => r.2.viewByte s.myDie (rangePa m k))))
        ∧ (∀ bs, r.1 = .ok (some bs) → s.Completes (.ldc d a o) (r.2.writeLeads true p d [word (leNat bs)]))
        ∧ (r.1 = .ok none → (r.2.cur.need = none → s.HoldsAt (.ldc d a o)) ∧ ∀ x, r.2.cur.need = some x → s.Awaits (.ldc d a o) x)
        ∧ ∀ w, r.1 = .error w → s.handles = true → s.Raises (.ldc d a o) .poison fun _ => w)
      ∧ ∀ k, q.1 = .error (.prot k) → s.handles = true →
        ∃ t, exec (.ldc d a o) s = .next t ∧ s.Traps t .prot s.cur.addr fun _ => word off)
    ∧ (off % 4 = 0 → s.me.clen < off + 4 → s.handles = true → ∃ t, exec (.ldc d a o) s = .next t ∧ s.Traps t .prot s.cur.addr fun _ => word off)
    ∧ (off % 4 ≠ 0 → s.handles = true → ∃ t, exec (.ldc d a o) s = .next t ∧ s.Traps t .align s.cur.addr fun _ => word off)

/-- The loads and LDC: values and completion. -/
def Obligations.Loads : Prop := Claim.LoadedValues ∧ Claim.LoadsComplete ∧ Claim.ConstantLoads

/-- A store of a member (R103, R107): where its access is permitted, its data reach what the access acts on (`storeSpot`), at the address that A and the
offset give. A store to a control register may end its own wave (R254, R279): there the state that it leaves is to have the wave still. A permitted
one that must wait waits in place: for a region's change of owner (R349), at control space for a full queue (R240) and for what the store follows (R353,
R355). (That an SC store is its store followed by a wait for it, and what it waits for, are logs 10 and 46.) -/
def Claim.StoresComplete : Prop :=
  ∀ (s : State) (i : Instr) (f : MemForm) (d a : Code) (o : BitVec 8) (p : Nat) (x : Spot), storeForm i = some (f, d, a, o) → s.passes i = true →
    s.alone p = true →
    let va := (s.src64 p a + o.signExtend 64 * BitVec.ofNat 64 f.size).toNat
    (s.access f true .write va).1 = .ok x →
    let r := (s.access f true .write va).2.touchSpot s.myDie x
    let u := if r.cur.blocked then r else r.storeSpot f p va (s.dataWords f p d) x
    (u.cur.blocked = false → ((∃ pa, x = .control pa) → u.issuing = true ∧ u.cur = s.cur) → s.Completes i u)
    ∧ (u.cur.blocked = true → s.HoldsAt i)

/-- A store to a plain page of device memory that is no region's and that is not sequentially consistent (R103, R106, R352): its bytes, little-endian,
are what its die reads from then on at the address stored to; every other byte of memory reads as before on every die, and no home changes yet. -/
def Claim.StoreFrame : Prop :=
  ∀ (s : State) (i : Instr) (f : MemForm) (d a : Code) (o : BitVec 8) (p pa : Nat), storeForm i = some (f, d, a, o) → s.passes i = true →
    s.alone p = true → s.isSc = false →
    let va := (s.src64 p a + o.signExtend 64 * BitVec.ofNat 64 f.size).toNat
    (s.access f true .write va).1 = .ok (.stored pa) → pa < 2 ^ 51 → s.rgnOwner.find (pa / 65536) = none →
    let ws := s.dataWords f p d
    ∃ t, exec i s = .next t
      ∧ (∀ k, t.viewByte s.myDie k =
          if pa ≤ k ∧ k < pa + f.size then ((ws.getD ((k - pa) / 4) 0).extractLsb' (8 * ((k - pa) % 4)) 8) else s.viewByte s.myDie k)
      ∧ (∀ e k, e ≠ s.myDie → t.viewByte e k = s.viewByte e k) ∧ t.mem = s.mem ∧ t.outside = s.outside
      ∧ (∀ q c, t.me.readCode q c = s.me.readCode q c) ∧ (∀ q, (t.me.thread q).m = (s.me.thread q).m)

/-- Stores complete, and change their own bytes alone. -/
def Obligations.Stores : Prop := Claim.StoresComplete ∧ Claim.StoreFrame

/-- Alignment (R24, R46, R118): an access whose address is no multiple of its size raises ALIGN with the low word of the address and has no effect. What
holds of a member alone holds of a member of any group: its access raises that cause (MembersInTurn says what the others do). -/
def Obligations.MisalignedAccesses : Prop :=
  (∀ (s : State) (i : Instr) (p : Nat) (va size : Nat), s.passes i = true → s.alone p = true → s.handles = true →
    ((∃ f d a o, (loadForm i = some (f, d, a, o) ∨ storeForm i = some (f, d, a, o)) ∧ size = f.size
        ∧ va = (s.src64 p a + o.signExtend 64 * BitVec.ofNat 64 f.size).toNat)
      ∨ ∃ op d a b, atomicForm i = some (op, d, a, b) ∧ size = (if s.cur.mp.wide then 8 else 4) ∧ va = (s.src64 p a).toNat) →
    va % size ≠ 0 → ∃ t, exec i s = .next t ∧ s.Traps t .align s.cur.addr fun _ => word va)
  ∧ ∀ (s : State) (i : Instr) (p : Nat) (lead : Bool), s.readable? i p = true →
    (∀ f d a o, loadForm i = some (f, d, a, o) → let va := (s.src64 p a + o.signExtend 64 * BitVec.ofNat 64 f.size).toNat
      va % f.size ≠ 0 → loadMember f d a o lead s p = .error (.trap .align s.cur.addr (word va)))
    ∧ (∀ f d a o, storeForm i = some (f, d, a, o) → let va := (s.src64 p a + o.signExtend 64 * BitVec.ofNat 64 f.size).toNat
      va % f.size ≠ 0 → storeMember f d a o lead s p = .error (.trap .align s.cur.addr (word va)))
    ∧ ∀ op d a b, atomicForm i = some (op, d, a, b) → let va := (s.src64 p a).toNat
      va % (if s.cur.mp.wide then 8 else 4) ≠ 0 → atomicMember op d a b lead s p = .error (.trap .align s.cur.addr (word va))

/-- An atomic of a member (R111, R112): where its access is permitted and meets no poison mark, it is performed at the home and D takes the old
value; an access outside the module leaves with its operation; a mark raises POISON with the line's address (R247). A permitted one waits in place for a
region's change of owner (R349) and while stores that it follows cannot have taken effect (R353, R355, R357; a releasing one for its die's, logs 10
and 46). -/
def Claim.AtomicsComplete : Prop :=
  ∀ (s : State) (i : Instr) (op : Nat) (d a b : Code) (p : Nat) (x : Spot), atomicForm i = some (op, d, a, b) → s.passes i = true →
    s.alone p = true →
    let va := (s.src64 p a).toNat
    let wide := s.cur.mp.wide
    let size := if wide then 8 else 4
    let r := (s.atomicSpot op wide va).2
    let t := r.touchSpot s.myDie x
    let y := r.atomicArgs p b
    (s.atomicSpot op wide va).1 = .ok x →
    (∀ pa, r.spotPoison s.myDie size x = some pa → s.handles = true → s.Raises i .poison fun _ => lineTval pa)
    ∧ (r.spotPoison s.myDie size x = none →
      ((t.cur.blocked || t.atomicWaits p size x) = true → s.HoldsAt i)
      ∧ ((t.cur.blocked || t.atomicWaits p size x) = false →
        ((∀ pa, x ≠ .outside pa) →
          let z := t.atomicAt p op wide y.1 y.2 x
          s.Completes i (z.2.writeOld true p d (BitVec.ofNat 64 z.1)))
        ∧ ∀ pa, x = .outside pa → s.Completes i (t.sendAtomic p op va pa y.1 y.2 [(p, d, 0)])))

/-- What an atomic does to its 32-bit or 64-bit location (R111 to R113): the new value of each operation, and that the location takes no value when the
compare of a CAS fails; every other byte of memory stays. Stated where no store waits, no watch is armed and no region is owned. -/
def Obligations.AtomicResults : Prop :=
  ∀ (s : State) (d agent pa op : Nat) (wide : Bool) (b₀ c₀ : Word64), s.quiet = true → op ≤ 10 → (wide = true → op ≠ 10) → pa + 8 ≤ 2 ^ 51 →
    let n := if wide then 64 else 32
    let old : BitVec n := BitVec.ofNat n (leNat ((upFrom pa (n / 8)).map s.homeByte))
    let b : BitVec n := b₀.setWidth n
    let c : BitVec n := c₀.setWidth n
    let new : BitVec n := match op with
      | 0 => old + b
      | 1 => if b.toInt ≤ old.toInt then b else old
      | 2 => if old.toInt ≤ b.toInt then b else old
      | 3 => if b.toNat ≤ old.toNat then b else old
      | 4 => if old.toNat ≤ b.toNat then b else old
      | 5 => old &&& b
      | 6 => old ||| b
      | 7 => old ^^^ b
      | 8 => b
      | 9 => if old = c then b else old
      | _ => BitVec.ofNat n (fp32.add .rne old.toNat b.toNat)
    let r := s.atomicHome d agent pa false op wide b₀ c₀
    r.1 = old.toNat ∧ ∀ k, r.2.homeByte k = if pa ≤ k ∧ k < pa + n / 8 then new.extractLsb' (8 * (k - pa)) 8 else s.homeByte k

/-- ATOMAGG.ADD (R115). A member alone acts as ATOM.ADD does; a group of members whose accesses to one address are all permitted is one add of the wrapped sum
at the home, and each receives the old value plus the operands of the members below it; outside the module one request leaves for all of them. What
waits, waits in place (logs 10 and 46). -/
def Claim.AggregatedAdd : Prop :=
  (∀ (s : State) (d a b : Code) (p : Nat) (x : Spot), s.passes (.atomaggAdd d a b) = true → s.alone p = true →
    let va := (s.src64 p a).toNat
    let wide := s.cur.mp.wide
    let size := if wide then 8 else 4
    let r := (s.atomicSpot 11 wide va).2
    let t := r.touchSpot s.myDie x
    (s.atomicSpot 11 wide va).1 = .ok x → r.spotPoison s.myDie size x = none →
    ((t.cur.blocked || t.atomicWaits p size x) = true → s.HoldsAt (.atomaggAdd d a b))
    ∧ ((t.cur.blocked || t.atomicWaits p size x) = false →
      ((∀ pa, x ≠ .outside pa) →
        let z := t.atomicAt p 0 wide (r.atomicArgs p b).1 0 x
        s.Completes (.atomaggAdd d a b) (z.2.writeOld true p d (BitVec.ofNat 64 z.1)))
      ∧ ∀ pa, x = .outside pa → s.Completes (.atomaggAdd d a b) (t.sendAtomic p 0 va pa (r.atomicArgs p b).1 0 [(p, d, 0)])))
  ∧ (∀ (s r : State) (d a b : Code) (va : Nat) (x : Spot) (l : List (Nat × Nat × Spot × Word64)), s.passes (.atomaggAdd d a b) = true →
    aggCheck a b s s.cur.group = (l, [], r) → (∀ y ∈ l, y.2.1 = va ∧ y.2.2.1 = x) →
    let p := s.lowest
    let wide := s.cur.mp.wide
    let t := r.touchSpot s.myDie x
    let g := l.map fun y => (y.1, y.2.2.2)
    let below (k : Nat) : Word64 := ((g.take k).map Prod.snd).sum
    let waits := t.cur.blocked || t.atomicWaits p (if wide then 8 else 4) x
    (waits = true → s.HoldsAt (.atomaggAdd d a b))
    ∧ (waits = false →
      ((∀ pa, x ≠ .outside pa) →
        let z := t.atomicAt p 0 wide (below g.length) 0 x
        let u := foldState (fun y u => u.writeOld (p == y.1) y.1 d (BitVec.ofNat 64 z.1 + y.2)) (prefixSums 0 g) z.2
        s.Completes (.atomaggAdd d a b) u
        ∧ ∀ k y, g[k]? = some y → d ≠ 0xFC → (isW d = true → k = 0) →
            u.me.readCode y.1 d = (BitVec.ofNat 64 z.1 + below k).extractLsb' 0 32
            ∧ (wide = true → u.me.readCode y.1 (d + 1) = (BitVec.ofNat 64 z.1 + below k).extractLsb' 32 32))
      ∧ ∀ pa, x = .outside pa → s.Completes (.atomaggAdd d a b)
          (t.sendAtomic p 0 va pa (below g.length) 0 ((prefixSums 0 g).map fun y => (y.1, leadDest (p == y.1) d, y.2)))))
  ∧ ∀ (g : List (Nat × Word64)) (k : Nat) (x : Nat × Word64), g[k]? = some x →
      (prefixSums 0 g)[k]? = some (x.1, ((g.take k).map Prod.snd).sum) ∧ g.foldl (fun n y => n + y.2) 0 = (g.map Prod.snd).sum

/-- The atomics complete, ATOMAGG.ADD among them. -/
def Obligations.Atomics : Prop := Claim.AtomicsComplete ∧ Claim.AggregatedAdd

/-- FENCE (R116): below SYS scope, and RLX there, it has no effect; at SYS a release of each member enters the die's order behind the stores there, and an
acquire raises the die's view. A sequentially consistive fence releases at once, and waits in place before that until every store of its die can reach
its home, those to other devices having been acknowledged there (R116, R428; that it waits for the whole die is logs 10 and 46, when a device's store is
acknowledged log 45). -/
def Obligations.Fences : Prop :=
  ∀ (s : State), s.passes .fence = true →
    let d := s.myDie
    let marked := foldState (fun p s => s.store d { agent := s.agent p, pa := 0, data := [], rel := true }) s.cur.group s
    (s.cur.mp.scope ≠ 4 ∨ (s.cur.mp.ord = 0 ∧ s.cur.mp.sc = false) → s.Completes .fence s)
    ∧ (s.isSc = true → s.canFlush d = false → s.HoldsAt .fence)
    ∧ (s.cur.mp.scope = 4 →
      (s.cur.mp.ord = 1 → s.cur.mp.sc = false → s.Completes .fence (s.acquireSys d))
      ∧ (s.cur.mp.ord = 2 → s.cur.mp.sc = false → s.Completes .fence marked)
      ∧ (s.cur.mp.ord = 3 → s.cur.mp.sc = false → s.Completes .fence (marked.acquireSys d))
      ∧ (s.cur.mp.sc = true → s.canFlush d = true → s.Completes .fence ((s.releaseSys d).acquireSys d)))
    ∧ (marked.die d).pend = (s.die d).pend ++ s.cur.group.map fun p => { agent := s.agent p, pa := 0, data := [], rel := true }

/-- The members of a memory or Tarn access act one after another in rising lane order (R104): when none raises a cause, the state is that of all of
their accesses in turn, and the whole group goes on. Every member reads the W registers that stand before the instruction (R103): a second member
does not read what the first one's result writes. Where some members raise a cause, the others have completed and only those trap. -/
def Obligations.MembersInTurn : Prop :=
  (∀ (s : State) (i : Instr) (f : Bool → State → Nat → Except Raised State), memberOf i = some f → s.passes i = true →
    let d := eachMember f true s s.cur.group
    d.raised = [] → d.st.cur = { s.cur with loads := d.st.cur.loads } → d.st.issuing = true → s.Completes i d.st)
  ∧ (∀ (s t u : State) (f : Bool → State → Nat → Except Raised State) (p q : Nat), f true s p = .ok t → (s.waves.find s.cur.wave).isSome = true →
    t.cur.wave = s.cur.wave → (t.waves.find s.cur.wave).isSome = true → t.cur.blocked = false → t.cur.away = false →
    let before : State := t.modWave s.cur.wave fun w => { w with w := s.me.w }
    f false before q = .ok u → u.cur.blocked = false → before.me.w = s.me.w
      ∧ (eachMember f true s [p, q]).st = u.modWave u.cur.wave fun w => { w with w := t.me.w })
  ∧ (∀ (s : State) (i : Instr) (f : MemForm) (d a : Code) (o : BitVec 8), storeForm i = some (f, d, a, o) → s.passes i = true →
    let r := eachMember (storeMember f d a o) true s s.cur.group
    r.raised = [] → r.st.cur = s.cur → r.st.issuing = true → s.Completes i r.st)
  ∧ ∀ (s : State) (i : Instr) (f : Bool → State → Nat → Except Raised State) (c : Cause) (tval : Nat → Word),
    (memberOf i = some f ∨ ∃ g d a o, storeForm i = some (g, d, a, o) ∧ f = storeMember g d a o) → s.passes i = true →
    let r := eachMember f true s s.cur.group
    let bad (p : Nat) : Bool := r.raised.any (·.1 == p)
    r.raised ≠ [] → (∀ x ∈ r.raised, x.2 = .trap c s.cur.addr (tval x.1)) → r.st.cur = { s.cur with loads := r.st.cur.loads } →
    r.st.issuing = true → r.st.handles = true →
    ∃ t, exec i s = .next t ∧ (r.st.goSome (fun p => !bad p) fun _ => s.nextAddr).TrapsSome t bad c tval

/-! ### The Tarn -/

/-- Where a plain Tarn access stands (R135, R136): below the control range and outside every enabled window, an offset within the share names the bytes
of the team's share on this core, and one beyond it raises TARNR. -/
def Claim.TarnAddresses : Prop :=
  ∀ (s : State) (c b ta : Nat) (t : Team), ta < 0x7FFF00 → t.windowAt ta = none → t.tarnBase c = some b →
    s.tarnSpot c t ta = if ta + 4 ≤ t.tarnLen then .ok (.raw c (b + ta)) else .error .tarnr

/-- LDT, STT and the Tarn atomics of a member (R137, R147, R148): at an aligned address within the share or in the control range they read or write
4 bytes, an element of a window or a control word, and no other byte of any Tarn changes. A read corrects the single-bit errors that it meets (R141). -/
def Claim.TarnAccesses : Prop :=
  ∀ (s : State) (d a b : Code) (o : BitVec 8) (p : Nat), s.alone p = true →
    let core := s.myCore
    let at_ (c k : Nat) : Word := word (leNat ((s.core c).tarnBytes k 4))
    let lda := (s.src p [] a + o.signExtend 32 * 4).toNat
    let sta := (s.src p [d] a + o.signExtend 32 * 4).toNat
    let ata := (s.src p [] a).toNat
    let word4 (v : Word) : List Byte := leBytes v.toNat 4
    (s.passes (.ldt d a o) = true → lda % 4 = 0 →
      (∀ c k, s.tarnSpot core s.myTeam lda = .ok (.raw c k) → (s.core c).tarnFault k 4 = none →
        s.Completes (.ldt d a o) ((s.meetTarn c k 4).writeLead true p d (at_ c k)))
      ∧ (∀ j, s.tarnSpot core s.myTeam lda = .ok (.control j) → s.Completes (.ldt d a o) (s.writeLead true p d (s.myTeam.readControl j)))
      ∧ (∀ c k u pos, s.tarnSpot core s.myTeam lda = .ok (.element c k u pos) → (s.core c).tarnFault k u.bytes = none →
          s.Completes (.ldt d a o)
            ((s.meetTarn c k u.bytes).writeLead true p d (word (decodeTo fp32 (u.element (leNat ((s.core c).tarnBytes k u.bytes)) pos))))))
    ∧ (s.passes (.stt d a o) = true → sta % 4 = 0 →
      (∀ c k, s.tarnSpot core s.myTeam sta = .ok (.raw c k) →
        s.Completes (.stt d a o) (s.modCore c fun x => x.writeTarn k (word4 (s.src p [] d))))
      ∧ (∀ j, s.tarnSpot core s.myTeam sta = .ok (.control j) →
          s.Completes (.stt d a o) (s.modTeam s.me.team fun t => t.writeControl j (s.src p [] d)))
      ∧ (∀ c k u pos, s.tarnSpot core s.myTeam sta = .ok (.element c k u pos) →
          s.Completes (.stt d a o) (s.modCore c fun x =>
            x.writeTarn k (leBytes (u.encode (leNat ((s.core c).tarnBytes k u.bytes)) pos [fp32.dec (s.src p [] d).toNat]) u.bytes))))
    ∧ (∀ c k, s.tarnSpot core s.myTeam ata = .ok (.raw c k) → ata % 4 = 0 → (s.core c).tarnFault k 4 = none →
        let old (u : State) : State := if d = 0xFC then u else u.writeLead true p d (at_ c k)
        let z := s.meetTarn c k 4
        (s.passes (.tatomAdd d a b) = true → s.Completes (.tatomAdd d a b)
          (old (z.modCore c fun x => x.writeTarn k (word4 (at_ c k + s.src p [a] b)))))
        ∧ (s.passes (.tatomCas d a b) = true → s.Completes (.tatomCas d a b)
          (old (if at_ c k = s.src p [a, b] s.cur.vp.c then z.modCore c fun x => x.writeTarn k (word4 (s.src p [a] b)) else z))))
    ∧ ∀ (x : CoreSt) (k n : Nat) (data : List Byte), (x.writeTarn k data).tarn.get 0 n =
        if k ≤ n ∧ n < k + data.length then data.getD (n - k) 0 else x.tarn.get 0 n

/-- Where a Tarn access stands, and what LDT, STT and the Tarn atomics do there. -/
def Obligations.Tarn : Prop := Claim.TarnAddresses ∧ Claim.TarnAccesses

/-! ### The matrix engine -/

/-- MMA (R162 to R165): for octets whose eight threads are all members, whose fragments, B operands and tiles can be read, and whose price the pocket
holds, each row of each octet's tile becomes the sum of R74 over its row of A and the columns of the octet's B; no element of another tile changes, and
the pocket pays 6 shots once for the unit, or 4 in a sparse mode. -/
def Claim.MatrixMultiply : Prop :=
  ∀ (s : State) (t : BitVec 7) (r : BitVec 1) (a b : Code) (range : Nat → BRange), s.passes (.mma t r a b) = true →
    s.cur.group = s.partOctets.flatMap octetPositions → (∀ p ∈ s.cur.group, s.mmaCheck t.toNat b p = none) → s.matrixBusy s.cur.group = none →
    let price := if s.me.mtype.getLsbD 4 then 4 else 6
    s.cannotPay price = false →
    (∀ j ∈ s.partOctets, s.bOperand (8 * j) b = .ok (range j) ∧ (s.core (range j).core).tarnFault (range j).at_ (range j).len = none
      ∧ (s.core s.myCore).badAcc (t.toNat + j) (List.range 8) = false) →
    (∀ p ∈ s.cur.group, ∀ n, n < fragmentRegs s.me.mtype.toNat → (a + BitVec.ofNat 8 n).toNat ∉ (s.me.thread p).bad) →
    ∃ u, exec (.mma t r a b) s = .next u ∧ s.CoreWork u
      ∧ (∀ j ∈ s.partOctets, ∀ x n, x < 8 → n < 16 → (u.core s.myCore).acc (t.toNat + j) x n =
          accumulate ((s.core s.myCore).acc (t.toNat + j) x n) (s.rowOf a (8 * j + x)) ((s.columnsOf (range j)).getD n []))
      ∧ (∀ k, (∀ j ∈ s.partOctets, k < 128 * (t.toNat + j) ∨ 128 * (t.toNat + j) + 128 ≤ k) →
          (u.core s.myCore).tiles.get 0 k = (s.core s.myCore).tiles.get 0 k)
      ∧ (u.core s.myCore).pocket = (s.core s.myCore).pocket - price

/-- Where an MMA's B operand lies (R164): at a multiple of 4 in an enabled window of a format that the type accepts, as many elements as the columns need,
all of them within the team's share. An address that is no multiple of 4 raises ALIGN and one in no such window FMTMIX, before a word is read. -/
def Claim.MatrixOperand : Prop :=
  ∀ (s : State) (z : Nat) (b : Code) (w : Window) (u : Units) (core at_ : Nat),
    let ta := (s.src z [] b).toNat
    let type := s.me.mtype.toNat
    let n := 16 * mmaK type
    s.lateFault z [b] = none →
    (ta % 4 ≠ 0 → s.bOperand z b = .error (.trap .align s.cur.addr (word ta)))
    ∧ (ta % 4 = 0 → inControl ta = false → s.myTeam.windowAt (tarnOffset ta) = none → s.bOperand z b = .error (.trap .fmtmix s.cur.addr (word ta)))
    ∧ (ta % 4 = 0 → inControl ta = false → s.myTeam.windowAt (tarnOffset ta) = some w → unitsOf w.fmt = some u →
      let i := w.index u (tarnOffset ta)
      let low := (w.unitAt u i).1
      let len := (w.unitAt u (i + n - 1)).1 + u.bytes - low
      (acceptsB (type % 16) w.fmt = true → i + n ≤ u.capacity w.len → s.tarnPlace s.myCore s.myTeam ta low len = some (core, at_) →
        s.bOperand z b = .ok ⟨w, u, i, low, core, at_, len⟩)
      ∧ ((acceptsB (type % 16) w.fmt = false ∨ u.capacity w.len < i + n) → s.bOperand z b = .error (.trap .fmtmix s.cur.addr (word ta))))

/-- MVS (R168, R169): row 0 of the octet's tile takes the products of the octet's BF16 vector with the sixteen columns of weights that the stream
address of its lane-0 thread names; the price is 3 shots. Reading the weights recalls region ownership of their pages (R349), and waits in place for it
(log 10); `q` is the state after that. -/
def Claim.MatrixVector : Prop :=
  ∀ (s z : State) (t : BitVec 7) (a b : Code) (j e i : Nat) (u : Units), s.passes (.mvs t a b) = true →
    s.cur.group = octetPositions j → s.partOctets = [j] → (∀ p ∈ s.cur.group, s.mvsCheck t.toNat a b p = none) → s.matrixBusy s.cur.group = none →
    let va := (s.src64 (8 * j) b).toNat
    let tile := t.toNat + j
    s.cannotPay 3 = false → (∀ p ∈ s.cur.group, s.lateFault p (if p = 8 * j then [a] ++ pairCodes b else [a]) = none) → va % 4 = 0 →
    (s.pay 3).weightSpot va = (.ok (e, u, i), z) → z.unitsPoison s.myDie u (unitsFor u e i 256) = none →
    (s.core s.myCore).badAcc tile [0] = false →
    let q := foldState (fun pa x => x.touchRgn s.myDie pa false) (unitsFor u e i 256) (z.meetAcc tile [0])
    (q.cur.blocked = true → s.HoldsAt (.mvs t a b)) ∧ (q.cur.blocked = false → ∃ x, exec (.mvs t a b) s = .next x ∧ q.CoreWork x
      ∧ (∀ n, n < 16 → (x.core s.myCore).acc tile 0 n =
          accumulate ((q.core s.myCore).acc tile 0 n) ((octetPositions j).flatMap fun p => bf16Pair (q.src p [] a))
            ((List.range 16).map fun k => q.elementAt s.myDie u e (i + 16 * n + k)))
      ∧ (∀ k, (k < 128 * tile ∨ 128 * tile + 16 ≤ k) → (x.core s.myCore).tiles.get 0 k = (q.core s.myCore).tiles.get 0 k)
      ∧ (x.core s.myCore).pocket = (q.core s.myCore).pocket ∧ ((s.pay 3).core s.myCore).pocket = (s.core s.myCore).pocket - 3)

/-- MVS in several octets (R168, R169): while no die owns a region, each octet's row 0 takes the products of its own vector and its own weights, and the
unit pays its 3 shots once. -/
def Claim.MatrixVectors : Prop :=
  ∀ (s : State) (t : BitVec 7) (a b : Code) (e i : Nat → Nat) (u : Nat → Units), s.passes (.mvs t a b) = true → s.rgnOwner = [] →
    s.cur.group = s.partOctets.flatMap octetPositions → (∀ p ∈ s.cur.group, s.mvsCheck t.toNat a b p = none) → s.matrixBusy s.cur.group = none →
    s.cannotPay 3 = false →
    (∀ j ∈ s.partOctets,
      let va := (s.src64 (8 * j) b).toNat
      va % 4 = 0 ∧ (s.pay 3).weightSpot va = (.ok (e j, u j, i j), s.pay 3)
        ∧ s.unitsPoison s.myDie (u j) (unitsFor (u j) (e j) (i j) 256) = none
        ∧ (∀ p ∈ octetPositions j, s.lateFault p (if p = 8 * j then [a] ++ pairCodes b else [a]) = none)
        ∧ (s.core s.myCore).badAcc (t.toNat + j) [0] = false) →
    ∃ x, exec (.mvs t a b) s = .next x ∧ s.CoreWork x
      ∧ (∀ j ∈ s.partOctets, ∀ n, n < 16 → (x.core s.myCore).acc (t.toNat + j) 0 n =
          accumulate ((s.core s.myCore).acc (t.toNat + j) 0 n) ((octetPositions j).flatMap fun p => bf16Pair (s.src p [] a))
            ((List.range 16).map fun k => s.elementAt s.myDie (u j) (e j) (i j + 16 * n + k)))
      ∧ (∀ k, (∀ j ∈ s.partOctets, k < 128 * (t.toNat + j) ∨ 128 * (t.toNat + j) + 16 ≤ k) →
          (x.core s.myCore).tiles.get 0 k = (s.core s.myCore).tiles.get 0 k)
      ∧ (x.core s.myCore).pocket = (s.core s.myCore).pocket - 3

/-- MMA, its B operand, and MVS. -/
def Obligations.MatrixProducts : Prop := Claim.MatrixMultiply ∧ Claim.MatrixOperand ∧ Claim.MatrixVector ∧ Claim.MatrixVectors

/-- MZERO, MCFG, MTBL and NTHINT (R161, R170, R171, R204): the tile of each octet becomes 0; MTYPE takes a legal value, and another raises ILL; an activation
table takes 256 entries of 8 bytes from the Tarn; a hint changes no register, tile or byte. -/
def Claim.MatrixState : Prop :=
  ∀ (s : State),
    (∀ (t : BitVec 7), s.passes (.mzero t) = true → s.cur.group = s.partOctets.flatMap octetPositions →
      (∀ p ∈ s.cur.group, s.octetIll t.toNat p = false) → ∃ u, exec (.mzero t) s = .next u ∧ s.CoreWork u
        ∧ ∀ k, (u.core s.myCore).tiles.get 0 k =
            if ∃ j ∈ s.partOctets, 128 * (t.toNat + j) ≤ k ∧ k < 128 * (t.toNat + j) + 128 then 0 else (s.core s.myCore).tiles.get 0 k)
    ∧ (∀ (a : Code), s.passes (.mcfg a) = true →
        let v := s.src s.lowest [] a
        let legal : Prop := v.toNat < 32 ∧ v.toNat % 16 ≤ 10 ∧ (v.getLsbD 4 = true → v.toNat % 16 < 4)
        (legal → s.Completes (.mcfg a) (s.modWave s.cur.wave fun w => { w with mtype := v, collector := [] }))
        ∧ (¬ legal → s.handles = true → ∃ u, exec (.mcfg a) s = .next u ∧ s.Traps u .ill s.cur.addr fun _ => s.cur.first))
    ∧ (∀ (n : BitVec 2) (a : Code) (bytes : List Byte) (z : State), s.passes (.mtbl n a) = true → (s.src s.lowest [] a).toNat % 8 = 0 →
        s.rawTarn (s.src s.lowest [] a).toNat 2048 = .ok (bytes, z) →
        ∃ u, exec (.mtbl n a) s = .next u ∧ (∀ p ∈ s.cur.group, (u.me.thread p).pc = s.nextAddr)
          ∧ (∀ k, (u.core s.myCore).acts.get 0 k =
              if k / 256 = n.toNat then BitVec.ofNat 64 (leNat (slice bytes (8 * (k % 256)) 8)) else (s.core s.myCore).acts.get 0 k)
          ∧ (u.core s.myCore).actsLoaded = (s.core s.myCore).actsLoaded ||| (1#4 <<< n.toNat) ∧ u.mem = s.mem)
    ∧ ∀ (h : BitVec 2), s.passes (.nthint h) = true → ∃ u, exec (.nthint h) s = .next u ∧ s.CoreWork u ∧ u.cores = s.cores

/-- MDRAIN (R172 to R175): in octets that hold no context it takes one for each octet's tile, whose 128 values are the accumulators through the chain of
R173, none readable yet; each thread's first DRN read takes column 0. While another wave holds one of the contexts the unit waits in place. -/
def Claim.Drains : Prop :=
  ∀ (s : State) (t : BitVec 7) (a : Code) (bias : Nat → List Byte), s.passes (.mdrain t a) = true →
    s.cur.group = s.partOctets.flatMap octetPositions → (∀ p ∈ s.cur.group, s.octetIll t.toNat p = false) → commandOk (s.drainWords a).1 = true →
    let cmd := (s.drainWords a).1
    let ta (j : Nat) := ((s.drainWords a).2.1 + 64 * j) % 2 ^ 32
    let core := s.core s.myCore
    ((∀ j ∈ s.partOctets, core.drains.find (s.coreOctet j) = none ∧ (bit cmd 0 = false → bias j = zeros 64)
        ∧ (bit cmd 0 = true → ta j % 4 = 0 ∧ ∃ z, s.rawTarn (ta j) 64 = .ok (bias j, z))) →
      ∃ u, exec (.mdrain t a) s = .next u ∧ u.mem = s.mem ∧ (∀ p ∈ s.cur.group, (u.me.thread p).drainPos = 0 ∧ (u.me.thread p).pc = s.nextAddr)
        ∧ (∀ k, (∀ j ∈ s.partOctets, k ≠ s.coreOctet j) → (u.core s.myCore).drains.find k = core.drains.find k)
        ∧ ∀ j ∈ s.partOctets, ∃ d, (u.core s.myCore).drains.find (s.coreOctet j) = some d ∧ d.wave = s.cur.wave ∧ d.tile = t.toNat + j ∧ d.ready = 0
          ∧ d.start = s.clock ∧ ∀ x n, x < 8 → n < 16 → d.vals[16 * x + n]? =
            some (chain core.acts cmd (s.drainWords a).2.2 (core.acc (t.toNat + j) x n).toNat (leNat (slice (bias j) (4 * n) 4))))
    ∧ ((∃ j ∈ s.partOctets, ∃ d, core.drains.find (s.coreOctet j) = some d ∧ d.wave ≠ s.cur.wave) → s.HoldsAt (.mdrain t a))

/-- The matrix engine's state, and drains. -/
def Obligations.MatrixStateAndDrains : Prop := Claim.MatrixState ∧ Claim.Drains

/-! ### Copies, waits and overlays -/

/-- TCOPY.IN and TCOPY.OUT (R138, R149, R150): with a descriptor that is legal, aligned, mapped and inside the share, and a tag that is not BUSY, the tag
becomes BUSY and the copy is in flight, or DONE at once for a length of 0. A BUSY tag holds the unit in place. -/
def Claim.TarnCopies : Prop :=
  ∀ (s : State) (i : Instr) (tag : BitVec 6) (a : Code) (isIn : Bool) (r : List (Nat × Nat × Nat)) (c off : Nat),
    i = (if isIn then .tcopyIn tag a else .tcopyOut tag a) → s.passes i = true →
    let desc := s.group s.lowest a 4
    let len := desc / 2 ^ 96 % 2 ^ 20
    let ta := desc / 2 ^ 64 % 2 ^ 32
    let va := desc % 2 ^ 64
    let tags (u : State) (k : Nat) : TagState := (u.core s.myCore).tags.get .idle k
    (tags s tag.toNat ≠ .busy → desc / 2 ^ 116 = 0 → len ≤ 393216 → va % 16 = 0 → ta % 16 = 0 → len % 16 = 0 →
      let q := s.translateRange s.myDie s.me.space (copyAllows s.me.priv isIn) va len (some s.myCore)
      q.1 = .ok r → q.2.tarnPlace s.myCore s.myTeam ta (tarnOffset ta) len = some (c, off) →
      ∃ u, exec i s = .next u ∧ (∀ p ∈ s.cur.group, (u.me.thread p).pc = s.nextAddr)
        ∧ (∀ p x, x.toNat < 0xF8 → u.me.readCode p x = s.me.readCode p x)
        ∧ (∀ k, tags u k = if k = tag.toNat then (if len = 0 then .done else .busy) else tags s k)
        ∧ (len ≠ 0 → ∃ m, (u.core s.myCore).copies = (s.core s.myCore).copies ++ [m] ∧ m.tag = tag.toNat ∧ m.isIn = isIn ∧ m.tarnCore = c
            ∧ m.tarnOff = off ∧ m.len = len ∧ m.va = va ∧ ∀ x ∈ m.units, x ∈ copyUnits r va off (len / 16)))
    ∧ (tags s tag.toNat = .busy → s.HoldsAt i)

/-- Each 16-byte unit of a copy (R151): inwards the Tarn's bytes become what the die reads, outwards the die reads the Tarn's bytes, and nothing else
of either changes, once the access has recalled region ownership (R384); and TCOPY_COMPLETE makes the tag DONE (R138). -/
def Claim.CopyUnits : Prop :=
  (∀ (s : State) (c : TCopy) (at_ pa k : Nat), k < 16 →
    let t := s.moveUnit c (at_, pa)
    let r := s.touchRgn c.die pa false
    (c.isIn = true → (t.core c.tarnCore).tarn.get 0 (at_ + k) = r.viewByte c.die (pa + k) ∧ t.mem = r.mem ∧ t.dies = r.dies
      ∧ ∀ n, (n < at_ ∨ at_ + 16 ≤ n) → (t.core c.tarnCore).tarn.get 0 n = (r.core c.tarnCore).tarn.get 0 n)
    ∧ (c.isIn = false → t.viewByte c.die (pa + k) = (r.core c.tarnCore).tarn.get 0 (at_ + k) ∧ t.cores = r.cores
      ∧ ∀ n, (n < pa ∨ pa + 16 ≤ n) → t.viewByte c.die n = r.viewByte c.die n))
  ∧ ∀ (s : State) (core tag : Nat) (c : TCopy), (s.core core).copies.find? (fun x => x.tag == tag) = some c →
      ∃ t, exec (.tcopyComplete core tag) s = .next t ∧ (t.core core).tags.get .idle tag = .done
        ∧ (t.core core).copies = (s.core core).copies.filter (fun x => x.tag != tag)
        ∧ ∀ k p r, (t.wave k).readCode p r = (s.wave k).readCode p r

/-- TCOPY: its start, its units and its end. -/
def Obligations.Copies : Prop := Claim.TarnCopies ∧ Claim.CopyUnits

/-- WAITANY and WAITALL (R18, R152): the wave waits for the tags that the lowest member's mask names, and not at all where the mask is 0 or the
condition already holds; its latches become invalid whether it waits or not. -/
def Claim.TagWaits : Prop :=
  ∀ (s : State) (a : Code),
    let mask := s.src64 s.lowest a
    let done (k : Nat) : Prop := (s.core s.myCore).tags.get .idle k = .done
    let ends (i : Instr) (w : Wait) (holds : Prop) : Prop := s.passes i = true →
      (holds → ∃ t, exec i s = .next t ∧ s.Waits t none) ∧ (¬ holds → ∃ t, exec i s = .next t ∧ s.Waits t (some w))
    ends (.waitany a) (.tags true mask) (mask = 0 ∨ ∃ k, k < 64 ∧ mask.getLsbD k = true ∧ done k)
      ∧ ends (.waitall a) (.tags false mask) (∀ k, k < 64 → mask.getLsbD k = true → done k)

/-- TCLR, PARK and YIELD (R18, R138, R153, R154, R157): the DONE tags of the mask become IDLE and no other tag changes; PARK arms the wave with a
non-zero threshold and disarms it with 0; YIELD leaves the issue window. PARK and YIELD invalidate the wave's latches. -/
def Claim.TagsAndYields : Prop :=
  ∀ (s : State) (a : Code),
    let latches (t : State) : Prop := ∀ p k, ((t.me.thread p).latch k).valid = false
    let goes (t : State) : Prop := (∀ p ∈ s.cur.group, (t.me.thread p).pc = s.nextAddr) ∧ (∀ p c, c.toNat < 0xF8 → t.me.readCode p c = s.me.readCode p c)
      ∧ ∀ k, k ≠ s.cur.wave → t.wave k = s.wave k
    (s.passes (.tclr a) = true → ((s.core s.myCore).tags.map Prod.fst).Nodup → ∃ t, exec (.tclr a) s = .next t ∧ goes t ∧ ∀ k, (t.core s.myCore).tags.get .idle k =
        if (s.core s.myCore).tags.get .idle k = .done ∧ (s.src64 s.lowest a).getLsbD k = true then .idle else (s.core s.myCore).tags.get .idle k)
    ∧ (s.passes (.park a) = true → ∃ t, exec (.park a) s = .next t ∧ goes t ∧ latches t
        ∧ t.me.park = if s.src s.lowest [] a = 0 then none else some (s.src s.lowest [] a))
    ∧ ∀ i, (i = .yield ∨ i = .c16Yield) → s.passes i = true → ∃ t, exec i s = .next t ∧ goes t ∧ latches t ∧ t.me.inWindow = false

/-- The end of waits (R152, R191, R322, R362): what makes a condition true ends the waits that it satisfies, at that instant and for good, and disarms
their waves (R154); no other wave is changed, and no register. -/
def Claim.WaitsEnd : Prop :=
  ∀ (s : State) (k : Nat) (w : Wave), (s.waves.map Prod.fst).Nodup → s.waves.find k = some w →
    let t := s.settleWaits
    (∀ x, w.wait = some x → s.waitOver (coreOfWave k) w.team x = true → t.wave k = { w with wait := none, park := none })
    ∧ ((w.wait = none ∨ ∃ x, w.wait = some x ∧ s.waitOver (coreOfWave k) w.team x = false) → t.wave k = w)
    ∧ t.mem = s.mem ∧ t.cores = s.cores ∧ t.teams = s.teams

/-- Waits on tags and the end of waits, TCLR, PARK and YIELD. -/
def Obligations.WaitsAndYields : Prop := Claim.TagWaits ∧ Claim.WaitsEnd ∧ Claim.TagsAndYields

/-- Overlays (R28, R140, R158 to R160): OVL.LOAD of an overlay whose table entry is valid and whose pages are mapped makes its slot LOADING, or does
nothing where the slot already holds it; an invalid entry raises OVLMISS; OVL.LOAD.TAB writes the object's table entry; OVL.WAIT waits in place while
its slot is LOADING. -/
def Claim.OverlayLoads : Prop :=
  ∀ (s : State) (n : BitVec 4) (k : BitVec 1) (a : Code),
    let table := (s.objCopy s.myDie s.me.obj).ovltab
    let entry := table.get 0 n.toNat
    let slot := (s.core s.myCore).slot k.toNat
    (s.passes (.ovlLoad n k) = true → entry.getLsbD 63 = true →
      let q := s.planLoad s.myDie s.me.space s.me.priv s.me.obj n.toNat (entry.toNat / 2 ^ 8 % 2 ^ 49 * 256) ((entry.toNat % 2 ^ 8 + 1) * 256)
        (some s.myCore)
      ∀ l, q.1 = .ok l → s.Completes (.ovlLoad n k)
        (if slot.st = .resident ∧ slot.obj = s.me.obj ∧ slot.n = n.toNat then q.2
         else q.2.modCore s.myCore fun c => c.setSlot k.toNat { st := .loading, pend := some l }))
    ∧ (s.passes (.ovlLoad n k) = true → entry.getLsbD 63 = false → s.handles = true →
        ∃ t, exec (.ovlLoad n k) s = .next t ∧ s.Traps t .ovlmiss s.cur.addr fun _ => word n.toNat)
    ∧ (s.passes (.ovlLoadTab n a) = true → (s.src64 s.lowest a).extractLsb' 57 6 = 0 →
        s.Completes (.ovlLoadTab n a) (s.modDie s.myDie fun x =>
          { x with objs := x.objs.put s.me.obj { s.objCopy s.myDie s.me.obj with ovltab := table.put n.toNat (s.src64 s.lowest a) } }))
    ∧ (s.passes (.ovlWait k) = true → (slot.st ≠ .loading → s.Completes (.ovlWait k) s)
        ∧ (slot.st = .loading → s.HoldsAt (.ovlWait k)))

/-- OVL_LOAD_COMPLETE (R159, R432): the slot is RESIDENT with the overlay's number, and its code bytes are what a load of the die reads in the image's
pages. -/
def Claim.OverlayArrives : Prop :=
  ∀ (s : State) (core n : Nat) (l : OvlLoad), n < 2 → ((s.core core).slot n).pend = some l →
    ∃ t, exec (.ovlLoadComplete core n) s = .next t
      ∧ ((t.core core).slot n).st = .resident ∧ ((t.core core).slot n).obj = l.obj ∧ ((t.core core).slot n).n = l.n
      ∧ (∀ k, ((t.core core).slot n).code.get 0 k =
          if k < l.len then s.seenByte (dieOfCore core) (rangeLeaf l.map (l.va + k)) (rangePa l.map (l.va + k)) else 0)
      ∧ (∀ j, j < l.ntab → (((t.core core).slot n).tables.getD j {}).join =
          word (leNat ((upFrom (l.tabVa + 72 * j + 4) 4).map fun a => s.seenByte (dieOfCore core) (rangeLeaf l.tabMap a) (rangePa l.tabMap a))))
      ∧ (t.core core).slot (1 - n) = (s.core core).slot (1 - n) ∧ t.waves = s.waves ∧ t.mem = s.mem

/-- Overlays: their instructions, and the end of a load. -/
def Obligations.Overlays : Prop := Claim.OverlayLoads ∧ Claim.OverlayArrives

/-! ### The cluster -/

/-- Vertical FIFOs (R192 to R194, R213 to R215): a push appends one entry with the members' values at their positions, a pop gives each member the value
of its position, VF.FREE the number of entries that were free when the clk began; a push to a full FIFO, and a pop from one that holds no entry of an
earlier clk, wait in place; and a team that does not hold the FIFOs, or the wrong core of the pair, raises FIFO with the FIFO's number. On a
geometry die they raise ILL. -/
def Obligations.VerticalFifos : Prop :=
  ∀ (s : State) (f : BitVec 1) (a : Code),
    let n := f.toNat
    let q := s.fifo n
    (s.kindOf s.myDie = .geometry → s.handles = true → ∀ i, (i = .vfPush f a ∨ i = .vfPop a f ∨ i = .vfFree a f) → s.passes i = true →
      s.Raises i .ill fun _ => s.cur.first)
    ∧ (s.kindOf s.myDie ≠ .geometry →
    let key := s.fifoKey n
    let early := (s.cluster s.myCluster).fifoStart key s.clock
    let lower : Bool := s.myCore % 2 == 0
    let mayPush : Bool := s.holdsFifos && (lower == (n == 0))
    let mayPop : Bool := s.holdsFifos && (lower != (n == 0))
    (s.passes (.vfPush f a) = true →
      (mayPush = true → q.length < 16 → s.Completes (.vfPush f a) (s.setFifo n 0 (q ++ [
        { width := s.me.width, vals := (List.range s.me.width).map fun p => if s.cur.group.contains p then s.src p [] a else 0 }])))
      ∧ (mayPush = true → 16 ≤ q.length → s.HoldsAt (.vfPush f a))
      ∧ (mayPush = false → s.handles = true → s.Raises (.vfPush f a) .fifo fun _ => word n))
    ∧ (s.passes (.vfPop a f) = true →
      (mayPop = true → s.popReady n = true → ∀ e rest, q = e :: rest → e.bad = false →
        ∃ t, exec (.vfPop a f) s = .next t ∧ ((s.meetFifo n).setFifo n 1 rest).EachResult t a fun p => e.vals.getD p 0)
      ∧ (mayPop = true → s.popReady n = false → s.HoldsAt (.vfPop a f))
      ∧ (mayPop = false → s.handles = true → s.Raises (.vfPop a f) .fifo fun _ => word n))
    ∧ (s.passes (.vfFree a f) = true →
      (s.holdsFifos = true → ∃ t, exec (.vfFree a f) s = .next t ∧ s.EachResult t a fun _ => word (16 - early.1))
      ∧ (s.holdsFifos = false → s.handles = true → s.Raises (.vfFree a f) .fifo fun _ => word n))
    ∧ (s.popReady n = true ↔ early.2 < early.1 ∧ q ≠ [])
    ∧ ((∀ x, (s.cluster s.myCluster).fifoClk.find key = some x → x.1 ≠ s.clock) → early = (q.length, 0))
    ∧ ∀ pops l, ((s.setFifo n pops l).cluster s.myCluster).fifoStart key s.clock = (early.1, early.2 + pops) ∧ (s.setFifo n pops l).fifo n = l)

/-- Named barriers (R190, R191, R216, R217): the effect of each instruction on the team's barrier and where its wave waits; a failing row raises BARRIER
in every member with the barrier's number and changes nothing. A wait leaves no valid latch (R18). -/
def Obligations.Barriers : Prop :=
  ∀ (s : State) (b : BitVec 4) (a : Code),
    let x := s.myTeam.barrier b.toNat
    let n := (s.src s.lowest [] a).toNat
    let wid := s.me.wid
    let arrived : Barrier := { x with
      part := sortedInsert x.part wid, token := x.token.put wid (x.phase + 1)
      phase := if x.left ≤ 1 then x.phase + 1 else x.phase, left := if x.left ≤ 1 then x.exp else x.left - 1 }
    let target := if x.part.contains wid then x.token.get 0 wid else x.phase + 1
    let initOk : Bool := decide (1 ≤ n ∧ n ≤ 4095 ∧ x.left = x.exp) && !s.barrierWaited s.me.team b.toNat
    let expectOk : Bool := decide (n ≤ 65535 ∧ x.exp ≠ 0 ∧ x.left + n ≤ 65535)
    let raises (i : Instr) : Prop := s.handles = true → s.Raises i .barrier fun _ => word b.toNat
    (s.passes (.barInit b a) = true →
      (initOk = true → s.Completes (.barInit b a) (s.setMyBarrier b.toNat { x with exp := n, left := n, part := [], token := [] }))
      ∧ (initOk = false → raises (.barInit b a)))
    ∧ (s.passes (.barExpect b a) = true →
      (expectOk = true → s.Completes (.barExpect b a) (s.setMyBarrier b.toNat { x with left := x.left + n })) ∧ (expectOk = false → raises (.barExpect b a)))
    ∧ (s.passes (.barArrive b) = true →
      (x.exp ≠ 0 → s.Completes (.barArrive b) (s.setMyBarrier b.toNat arrived)) ∧ (x.exp = 0 → raises (.barArrive b)))
    ∧ (s.passes (.barWait b) = true →
      (x.exp ≠ 0 → ∃ t, exec (.barWait b) s = .next t ∧
        s.Waits t (if (x.phase - target).toNat < 2 ^ 31 then none else some (.barrier b.toNat target)))
      ∧ (x.exp = 0 → raises (.barWait b)))
    ∧ (s.passes (.barSync b) = true →
      (x.exp ≠ 0 → ∃ t, exec (.barSync b) s = .next t ∧
        (s.setMyBarrier b.toNat arrived).Waits t (if x.left ≤ 1 then none else some (.barrier b.toNat (x.phase + 1))))
      ∧ (x.exp = 0 → raises (.barSync b)))

/-- Copy channels (R195, R218 to R221): XCOPY gives a channel that nobody holds on its command, XCHAIN the record at its pointer, or stops it at a pointer
of 0; error code and count are cleared; a pointer that is no multiple of 64 raises ALIGN; and a channel in RUN holds the instruction in place. -/
def Claim.CopyChannels : Prop :=
  ∀ (s : State) (c : BitVec 2) (a : Code),
    let x := s.chan s.myCluster c.toNat
    let head := (s.src64 s.lowest a).toNat
    let taken (st : ChanState) (w : ChanWork) : State := s.modChan s.myCluster c.toNat fun y => { y with
      st := st, work := w, code := 0, done := 0, space := s.me.space, priv := s.me.priv, team := s.me.team, launch := s.me.launch, core := s.myCore }
    let holds (i : Instr) : Prop := ∃ t, exec i s = .next t ∧ t.cur = { s.cur with held := true, inPlace := true }
      ∧ t = { s with cur := t.cur, clusters := t.clusters, freeCtr := t.freeCtr }
      ∧ ∀ cl k, { t.chan cl k with holders := [] } = { s.chan cl k with holders := [] }
    (s.passes (.xcopy c a) = true →
      (x.st ≠ .run → x.holders = [] → s.Completes (.xcopy c a) (taken .run (.command (commandRec (s.group s.lowest a 8)))))
      ∧ (x.st = .run → holds (.xcopy c a)))
    ∧ (s.passes (.xchain c a) = true →
      (head % 64 ≠ 0 → s.handles = true → s.Raises (.xchain c a) .align fun _ => word head)
      ∧ (head % 64 = 0 → x.st = .run → holds (.xchain c a))
      ∧ (head % 64 = 0 → x.st ≠ .run → x.holders = [] →
          s.Completes (.xchain c a) (if head = 0 then taken .idle .none else taken .run (.atRecord head))))

/-- Transfer records (R196 to R199): a channel that reaches a record with OWN = 0 goes idle; one that reaches another, or has a command, starts to move its
units where both ranges are there; fields that break a rule halt it with code 1, or with 2 for an address or length that is no multiple of its unit (that
SRC and DST are among these, and that the lower code is reported, is log 34's), with OWN as it was; and when the units have moved the count rises, the record
gives its ownership up, and the channel goes on to NEXT or idle. A record whose Tarn
share is gone halts with code 5. -/
def Claim.TransferRecords : Prop :=
  ∀ (s : State) (cl ch : Nat), (s.chan cl ch).st = .run →
    let c := s.chan cl ch
    let d := dieOfCluster cl
    let moves (z : State) (at_ : Option (Nat × Nat)) (r : XferRec) : Prop :=
      ∀ ms md z₁ z₂ src dst, r.check = none → z.copyRange d c r.srcTarn false r.src r.len = (.ok ms, z₁) →
        z₁.copyRange d c r.dstTarn true r.dst r.dstLen = (.ok md, z₂) → z₂.copyPlace c r.srcTarn ms r.src r.len = some src →
        z₂.copyPlace c r.dstTarn md r.dst r.dstLen = some dst →
        ∃ t rest, exec (.copyRecordStart cl ch) s = .next t ∧ (t.chan cl ch).st = .run ∧ (t.chan cl ch).work = .moving at_ r rest
          ∧ rest.Sublist (r.units c.lfsr src dst)
          ∧ (t.chan cl ch).lfsr = if r.rm = 2 then lfsrAfter c.lfsr r.dstLen else c.lfsr
    let unitRule (r : XferRec) : Prop := r.src % 16 = 0 ∧ r.dst % 16 = 0 ∧ r.len % (if r.conv = 1 ∨ r.conv = 2 then 32 else 16) = 0
    let fieldRule (r : XferRec) : Prop := r.bad = false ∧ r.cmd / 256 % 2 ^ 24 = 0 ∧ r.conv < 5 ∧ r.rm ≠ 3 ∧ (r.rm ≠ 0 → r.conv = 1 ∨ r.conv = 2) ∧ r.next % 64 = 0
    (∀ r : XferRec, (r.check = some 1 ↔ ¬ fieldRule r) ∧ (r.check = some 2 ↔ fieldRule r ∧ ¬ unitRule r) ∧ (r.check = none ↔ fieldRule r ∧ unitRule r))
    ∧ (∀ va pa e n s', c.work = .atRecord va → s.translate d c.space c.priv false va = (.ok (pa, e, n), s') → notControl e = true →
      let z := s'.touchRgn d pa false
      let r := parseRec (z.viewBytes d pa 64)
      (r.ctrl % 2 = 0 → ∃ t, exec (.copyRecordStart cl ch) s = .next t ∧ (t.chan cl ch).st = .idle ∧ (t.chan cl ch).work = .none ∧ t.mem = z.mem)
      ∧ (∀ code, r.ctrl % 2 = 1 → r.check = some code → ∃ t, exec (.copyRecordStart cl ch) s = .next t
          ∧ t.chan cl ch = { z.chan cl ch with st := .halt, code := code } ∧ t.mem = z.mem ∧ ∀ k a, t.viewByte k a = z.viewByte k a)
      ∧ (r.ctrl % 2 = 1 → moves z (some (va, pa + 8)) r))
    ∧ (∀ r, c.work = .command r → moves s none r)
    ∧ (∀ r code, c.work = .command r → r.check = some code → ∃ t, exec (.copyRecordStart cl ch) s = .next t
        ∧ t.chan cl ch = { c with st := .halt, code := code } ∧ t.mem = s.mem)
    ∧ (∀ at_ r l, c.work = .moving at_ r l → s.shareGone c r = true → ∃ t, exec (.copyRecordComplete cl ch) s = .next t
        ∧ t.chan cl ch = { c with st := .halt, code := 5 } ∧ t.mem = s.mem)
    ∧ (∀ at_ r, c.work = .moving at_ r [] → s.shareGone c r = false → s.unacknowledged cl ch = false → r.ctrl / 2 % 4 = 0 →
      ∃ t, exec (.copyRecordComplete cl ch) s = .next t
        ∧ (t.chan cl ch).done = c.done + 1 ∧ (t.chan cl ch).last = 0 ∧ (t.chan cl ch).st = (if r.next = 0 then .idle else .run)
        ∧ (t.chan cl ch).work = (if r.next = 0 then .none else .atRecord r.next)
        ∧ ∀ va pa, at_ = some (va, pa) → t.viewByte d pa = 0)

/-- The copy engine: its instructions and its records. -/
def Obligations.CopyEngine : Prop := Claim.CopyChannels ∧ Claim.TransferRecords

/-- The gate of a pair's upper core (R205, R207, R208, R210, R223, R224): every transition that the table of R205 gives, and what a wake does in each
state, with ON at reset; the order of the events of one clk (by core index, then the MC, then what time brings, which is log 36's reading); the places in
the wake order; and the state of a core that has ramped or failed to. -/
def Claim.GateSteps : Prop :=
  ∀ (s : State) (cl pair : Nat),
    let g := s.gate cl pair
    let to_ (x : Gate) : State := s.setGate cl pair x
    let ramping : Nat := ((s.cluster cl).gates.filter fun x => x.2.st == .ramp).length
    let quiet : Bool := s.upCount cl pair == 0 && !s.upWork cl pair
    let woken : State := if g.failed then s else match g.st with
      | .on | .wakeq | .ramp => s
      | .drain => to_ { g with st := .on }
      | .hold => if g.pend then s else to_ { g with pend := true, wakeAt := s.ref }
      | .gated => s.enterWakeq cl pair s.ref
    let rank := s.myCore % 8
    (∀ (p : BitVec 2), s.kindOf s.myDie ≠ .geometry → cl = s.myCluster → pair = p.toNat →
      (g.open_ s.clock rank = true →
        (s.passes (.gateReq p) = true → s.Completes (.gateReq p)
          ((if g.st = .on ∧ g.failed = false then to_ { g with st := .drain, since := s.ref, clk := s.clock } else s).stampGate cl pair rank))
        ∧ (s.passes (.gateWake p) = true → s.Completes (.gateWake p) (woken.stampGate cl pair rank)))
      ∧ (g.open_ s.clock rank = false → ∀ i, (i = .gateReq p ∨ i = .gateWake p) → s.passes i = true → s.NoCandidate i))
    ∧ (g.open_ s.clock rank = true ↔ g.evClk ≠ s.clock ∨ g.evRank ≤ rank)
    ∧ (State.reset.gate cl pair).st = .on
    ∧ (g.open_ s.clock 8 = true → exec (.gateMcWake cl pair) s = .next (woken.stampGate cl pair 8))
    ∧ (g.open_ s.clock 8 = false → exec (.gateMcWake cl pair) s = .next s)
    ∧ (g.st = .drain → quiet = true → exec (.gateDrainDone cl pair) s =
        .next (to_ { g with st := .hold, since := s.ref, clk := s.clock, pend := false, evClk := s.clock, evRank := 9 }))
    ∧ (g.st = .hold → g.since + 400 ≤ s.ref → exec (.gateHoldEnd cl pair) s = .next ((if g.pend then s.enterWakeq cl pair g.wakeAt
        else to_ { g with st := .gated, since := s.ref, clk := s.clock }).stampGate cl pair 9))
    ∧ (g.st = .wakeq → s.firstWaking cl = some pair → ramping < 2 → ∃ t stuck, exec (.gateRampStart cl pair) s = .next t
        ∧ t.gate cl pair = { g with st := .ramp, since := s.ref, clk := s.clock, stuck := stuck, evClk := s.clock, evRank := 9 }
        ∧ (∀ q, q ≠ pair → t.gate cl q = s.gate cl q) ∧ t = { s with clusters := t.clusters, freeCtr := t.freeCtr })
    ∧ (g.st = .ramp → g.stuck = false → g.since + 250 ≤ s.ref → s.ref ≤ g.wakeAt + 900 →
        ∃ t, exec (.gateRampDone cl pair) s = .next t ∧ (t.gate cl pair).st = .on
          ∧ t.core (8 * cl + 2 * pair + 1) = {} ∧ ∀ c, c ≠ 8 * cl + 2 * pair + 1 → t.core c = s.core c)
    ∧ (g.st = .ramp → (g.stuck = true ∧ g.wakeAt + 900 ≤ s.ref ∨ g.wakeAt + 900 < s.ref) →
        (∃ t, exec (.gateRampFail cl pair) s = .next t ∧ (t.gate cl pair).st = .gated
          ∧ (t.gate cl pair).failed = true ∧ t.weir.log = s.weir.log ++ [.gateFailed cl pair])
        ∧ (g.wakeAt + 900 < s.ref → exec (.gateRampDone cl pair) s = .next s))
    ∧ (((s.cluster cl).gates.map Prod.fst).Nodup → ∀ wakeAt, let t := s.enterWakeq cl pair wakeAt
        (∃ k, t.gate cl pair = { g with st := .wakeq, since := s.ref, clk := s.clock, pend := false, wakeAt := wakeAt, qpos := k }
          ∧ k = 1 + ((s.cluster cl).gates.filter fun x => x.1 != pair && (x.2.st == .ramp || x.2.st == .wakeq)
              && (!(x.2.st == .wakeq && x.2.clk == s.clock) || decide (x.1 < pair))).length)
        ∧ (∀ q, q ≠ pair → { t.gate cl q with qpos := 0 } = { s.gate cl q with qpos := 0 }) ∧ t = { s with clusters := t.clusters })

/-- GATE.STAT (R225): its fields, with a DRAIN whose conditions hold already in HOLD; and the value as it stands at the end of its clk. VF.* and GATE.* have no
meaning on a geometry die (R186). -/
def Claim.GateStatus : Prop :=
  ∀ (s : State) (p : BitVec 2) (d : Code),
    let cl := s.myCluster
    let pair := p.toNat
    let g := s.gate cl pair
    let quiet : Bool := s.upCount cl pair == 0 && !s.upWork cl pair
    (s.kindOf s.myDie = .geometry → s.handles = true → ∀ i, (i = .gateReq p ∨ i = .gateWake p ∨ i = .gateStat d p) → s.passes i = true →
      s.Raises i .ill fun _ => s.cur.first)
    ∧ (s.kindOf s.myDie ≠ .geometry → s.passes (.gateStat d p) = true → s.upCount cl pair ≤ 16 → ∃ t v r, exec (.gateStat d p) s = .next t
      ∧ (s.modCluster cl fun c => { c with statReads := c.statReads ++ [r] }).EachResult t d (fun _ => v)
      ∧ r = { wave := s.cur.wave, uid := s.me.uid, ps := s.cur.group, code := d, pair := pair }
      ∧ v.extractLsb' 0 3 = (match g.st with
          | .on => 0 | .drain => if quiet then 2 else 1 | .hold => 2 | .gated => 3 | .wakeq => 4 | .ramp => 5)
      ∧ v.getLsbD 4 = g.failed ∧ (v.extractLsb' 8 5).toNat = s.upCount cl pair ∧ v.getLsbD 13 = s.upWork cl pair
      ∧ (g.st = .hold → v.getLsbD 3 = g.pend ∧ (v.extractLsb' 16 8).toNat = (400 - (s.ref - g.since) + 9) / 10)
      ∧ (g.st = .drain → quiet = true → v.getLsbD 3 = false ∧ (v.extractLsb' 16 8).toNat = 40)
      ∧ (g.st = .ramp → (v.extractLsb' 16 8).toNat = (250 - (s.ref - g.since) + 9) / 10)
      ∧ ((g.st = .wakeq ∨ g.st = .ramp) → g.qpos < 16 → (v.extractLsb' 24 4).toNat = g.qpos))
    ∧ ∀ r q, (s.cluster cl).statReads = [r] → (s.wave r.wave).uid = r.uid → (s.waves.find r.wave).isSome = true → q ∈ r.ps →
        (isW r.code = true → r.ps.head? = some q) → regOk r.code = true → q < (s.wave r.wave).threads.length →
        ((s.endStatReads cl).wave r.wave).readCode q r.code = s.gateNow cl r.pair

/-- The gate of a pair's upper core. -/
def Obligations.GateTransitions : Prop := Claim.GateSteps ∧ Claim.GateStatus

/-- The shot ring, the issue window, the voltage islands, drain columns and the arithmetic clock (R131, R175, R200, R201, R203, R396): what each of their
steps does under its condition. (The clauses on shots speak of a cluster without ISO gangs, whose share of shots is R267's.) -/
def Obligations.ClusterSteps : Prop :=
  ∀ (s : State) (cl : Nat),
    let c := s.cluster cl
    let core := 8 * cl + s.clock % 8
    let island (t : State) (q : Nat) : Island := (t.cluster cl).islands.get .nominal q
    (s.isoShares cl = [] → ∃ t, exec (.shotReservoirFill cl) s = .next t
      ∧ (t.cluster cl).reservoir = min 256 (c.reservoir + (c.frac + s.rate cl * (s.ref - c.lastFill) * 256) / 25600)
      ∧ (t.cluster cl).frac = (c.frac + s.rate cl * (s.ref - c.lastFill) * 256) % 25600 ∧ (t.cluster cl).lastFill = s.ref ∧ t.cores = s.cores)
    ∧ (s.isoShares cl = [] → c.visited ≠ some s.clock → s.unpowered core = false →
      ∃ t n, exec (.shotRingVisit cl) s = .next t ∧ (t.core core).pocket = (s.core core).pocket + n ∧ (t.cluster cl).reservoir = c.reservoir - n
        ∧ (∀ k, k ≠ core → t.core k = s.core k)
        ∧ (s.oldestReservation cl = none → n = min c.reservoir (32 - (s.core core).pocket))
        ∧ (∀ k w a, s.oldestReservation cl = some (k, w, a) → k ≠ core → n = 0)
        ∧ (∀ w a t₀ t₁ price, s.oldestReservation cl = some (core, w, a) → (s.wave w).denied = some (t₀, t₁, price) →
            n = min c.reservoir (price - (s.core core).pocket)))
    ∧ (∀ w, (s.core (coreOfWave w)).reservation = none → s.longDenied w = true → w ∈ s.wavesOf (coreOfWave w) →
      (∀ k ∈ s.wavesOf (coreOfWave w), k ≠ w → s.longDenied k = true → (s.wave w).admitted < (s.wave k).admitted) →
      exec (.shotReservation w) s = .next (s.modCore (coreOfWave w) fun x => { x with reservation := some (w, s.clock) }))
    ∧ (∀ w, w ∈ s.wavesOf (coreOfWave w) → (s.wave w).inWindow = false → s.standsReady w = true → (s.wave w).yieldTo = [] →
      (∀ k ∈ s.wavesOf (coreOfWave w), k ≠ w → (s.wave k).inWindow = false → s.standsReady k = true → (s.wave w).admitted < (s.wave k).admitted) →
      ((s.wavesOf (coreOfWave w)).filter fun k => (s.wave k).inWindow).length < 8 →
      ∃ t, exec (.windowEnter w) s = .next t ∧ (t.wave w).inWindow = true ∧ ∀ k, k ≠ w → (t.wave k).inWindow = (s.wave k).inWindow)
    ∧ (∀ w j, w ∈ s.wavesOf (coreOfWave w) → (s.wave w).inWindow = false → s.standsReady w = true → (s.wave w).yieldTo = [] →
      (∀ k ∈ s.wavesOf (coreOfWave w), k ≠ w → (s.wave k).inWindow = false → s.standsReady k = true → (s.wave w).admitted < (s.wave k).admitted) →
      8 ≤ ((s.wavesOf (coreOfWave w)).filter fun k => (s.wave k).inWindow).length →
      j ∈ s.wavesOf (coreOfWave w) → (s.wave j).inWindow = true → (s.wave j).coldWait = true →
      (∀ k ∈ s.wavesOf (coreOfWave w), k ≠ j → (s.wave k).inWindow = true → (s.wave k).coldWait = true →
        s.clock - (s.wave j).admitted < s.clock - (s.wave k).admitted) →
      ∃ t, exec (.windowEnter w) s = .next t ∧ (t.wave w).inWindow = true ∧ (t.wave j).inWindow = false
        ∧ ∀ k, k ≠ w → k ≠ j → (t.wave k).inWindow = (s.wave k).inWindow)
    ∧ (∀ q, q < 16 → island s q = .nominal → c.islandQuiet.get 0 q + 16384 ≤ s.clock → s.isoIsland cl q = false →
      ∃ t, exec (.islandEnterNear cl q) s = .next t ∧ island t q = .near ∧ ∀ k, k ≠ q → island t k = island s k)
    ∧ (∀ q, island s q = .near → ∃ t, exec (.mcNominalDemand cl q) s = .next t ∧ island t q = .switching (s.clock + 450)
        ∧ ∀ k, k ≠ q → island t k = island s k)
    ∧ (∀ q n, island s q = .switching n → n ≤ s.clock → ∃ t, exec (.islandSwitchNominal cl q) s = .next t ∧ island t q = .nominal
        ∧ ∀ k, k ≠ q → island t k = island s k)
    ∧ (∀ k o d, (s.core k).drains.find o = some d → d.ready < 16 → d.start + 12 + d.ready ≤ s.clock → ∃ t, exec (.drainColumnReady k o) s = .next t
        ∧ (t.core k).drains.find o = some { d with ready := d.ready + 1 } ∧ ∀ j, j ≠ o → (t.core k).drains.find j = (s.core k).drains.find j)
    ∧ (∀ n, s.weir.switchAt = some n → n ≤ s.clock → ∃ t, exec .freqSwitch s = .next t ∧ t.weir.mhz = s.weir.tgt ∧ t.weir.switchAt = none
        ∧ t.weir.fclock = BitVec.ofNat 64 n)

/-! ### Tasks, streams and timelines -/

/-- SPAWN and GANG (R259, R315): W14 names a device-fed queue of the die that the context may use; the 128 bytes at the address, with ATTEMPT 0 and the GANG
flag as the instruction says, go to the queue's tail. A number above 4,095 raises ILL, an address that is no multiple of 128 ALIGN, a queue that it
may not use PROT, and an empty free-segment list QOVF. In `r` the page has been translated, and its region's ownership has moved (R349). -/
def Claim.Spawning : Prop :=
  ∀ (s : State) (gang : Bool) (a : Code),
    let i : Instr := if gang then .gang a else .spawn a
    let va := (s.src64 s.lowest a).toNat
    let n := (s.me.w.get 0 14).toNat
    s.passes i = true →
    (4096 ≤ n → s.handles = true → s.Raises i .ill fun _ => s.cur.first)
    ∧ (n < 4096 → va % 128 ≠ 0 → s.handles = true → s.Raises i .align fun _ => word va)
    ∧ ∀ pa e len z, n < 4096 → va % 128 = 0 → s.translate s.myDie s.me.space s.me.priv false va s.myCore = (.ok (pa, e, len), z) → notControl e = true →
      let q := z.queue s.myDie n
      let mayUse : Bool := q.en && !q.hostq && (q.ctx == z.me.space.ctx || z.me.priv)
      let r := z.rangeRead [(va, pa, e)] va 128
      (mayUse = false → s.handles = true → s.Raises i .prot fun _ => word n)
      ∧ (mayUse = true → pteFmt e ≠ 0 → s.handles = true → s.Raises i .fmtmix fun _ => word va)
      ∧ (mayUse = true → pteFmt e = 0 →
        (∀ w, r.1 = .error w → s.handles = true → s.Raises i .poison fun _ => word va)
        ∧ (r.1 = .ok none → (r.2.cur.need = none → s.HoldsAt i) ∧ ∀ y, r.2.cur.need = some y → s.Awaits i y)
        ∧ (∀ bs, r.1 = .ok (some bs) →
          let img := spawnRecord bs gang r.2.me.override
          let x := r.2.enqueue s.myDie n img
          (x.1 = none → s.handles = true → s.Raises i .qovf fun _ => word n)
          ∧ ∀ slot, x.1 = some slot → s.Completes i x.2 ∧ (x.2.queue s.myDie n).tail = (r.2.queue s.myDie n).tail + 1
              ∧ img.length = 128 ∧ field img 0x22 2 = 0 ∧ bit (field img 0x21 1) 4 = gang)
        ∧ (pa < 2 ^ 51 → r.2.cur.blocked = false → (∀ k, k < 128 → r.2.seenPoison s.myDie e (pa + k) = false) →
            r.1 = .ok (some ((upFrom pa 128).map (r.2.seenByte s.myDie e)))))

/-- JOIN, TSB.SET, TSB.RET, DONE, PMASK and PUNMASK (R271, R280, R316 to R320). JOIN never waits in place (R314): its decrement is performed now, or
follows as soon as what it must follow has taken effect (`startJoin`, log 46). TSB.RET waits in place while a store that its release covers cannot reach
its home (R317); that it lands all of its die's stores is log 10. The premise of PUNMASK, that no request to discard is pending, keeps the discard that
it may release (R280) out of the statement. -/
def Claim.TaskInstructions : Prop :=
  ∀ (s : State) (a : Code),
    let va := (s.src64 s.lowest a).toNat
    let v := s.src s.lowest [] a
    let legal : Bool := v.extractLsb' 12 19 == 0#19 && (v.getLsbD 31 || v.extractLsb' 0 12 == 0#12)
    (s.passes (.join a) = true → va % 32 ≠ 0 → s.handles = true → s.Raises (.join a) .align fun _ => word va)
    ∧ (s.passes (.join a) = true → ∀ pa e z, s.joinTarget s.myDie s.me.space s.me.priv va s.myCore = (.ok (pa, e), z) →
      let t := z.touchRgn s.myDie pa (pteRgn e)
      let r := if t.cur.blocked then z else t
      let x : Decrement := { die := s.myDie, space := r.me.space, priv := r.me.priv, queue := r.myLaunch.queue, task := r.myLaunch.recPa
                             tpc := s.cur.addr, core := coreRegister s.myCore }
      let o : OutAccess := { r.myAccess va pa 32 with dests := s.cur.group.map fun q => (q, 0xFC, 0) }
      (r.seenPoisonIn s.myDie e pa 32 ≠ none → s.handles = true → s.Raises (.join a) .poison fun _ => word va)
      ∧ (r.seenPoisonIn s.myDie e pa 32 = none → s.Completes (.join a) (r.startJoin (o.ofJoin x e) x e)))
    ∧ (s.passes (.tsbSet a) = true →
      (legal = true → s.Completes (.tsbSet a) (s.modWave s.cur.wave fun w =>
        { w with override := if v.getLsbD 31 then some (v.extractLsb' 0 12) else none }))
      ∧ (legal = false → s.handles = true → s.Raises (.tsbSet a) .ill fun _ => s.cur.first))
    ∧ (s.passes .tsbRet = true →
      let retires : Bool := s.myLaunch.rcd.tsb && !s.myLaunch.tileRetired
      (retires = true → s.heldBack s.myDie s.myAgents [] = true → s.HoldsAt .tsbRet)
      ∧ (retires = true → s.heldBack s.myDie s.myAgents [] = false →
          s.Completes .tsbRet ((s.releaseSys s.myDie).retireTile s.me.launch (s.holdsPoison s.me.launch)))
      ∧ (retires = false → s.Completes .tsbRet s))
    ∧ (s.passes .done = true → s.Completes .done (s.modLaunch s.me.launch fun l => { l with doneAt := some (l.doneAt.getD s.clock) }))
    ∧ (s.passes .pmask = true → s.Completes .pmask (s.modWave s.cur.wave fun w => { w with pmask := min 255 (w.pmask + 1) }))
    ∧ (s.passes .punmask = true → s.myLaunch.request = none → s.Completes .punmask (s.modWave s.cur.wave fun w => { w with pmask := w.pmask - 1 }))

/-- The instructions on tasks. -/
def Obligations.Tasks : Prop := Claim.Spawning ∧ Claim.TaskInstructions

/-- Streams (R274, R275, R321): a put appends the member's word by an ordinary store, a get takes the oldest by an ordinary load and sets M7, or gives 0 and
clears M7 after the end; both wait in place without room or data; an EOS registers its producer as ended; a stream that is not the context's
raises PROT, a producer that has ended EOSAFTER, and a poisoned ring word POISON. A ring word outside the module is read in place (R430, log 46). In `z`
the entry has been read, if a store had set its EN (log 47). -/
def Claim.StreamUse : Prop :=
  ∀ (s : State) (n a : Code),
    let d := s.myDie
    let z := s.settleStream d n.toNat
    let x := z.stream d n.toNat
    let key := s.producerKey
    let closed := x.closedTo key
    (∀ i, (i = .strmPut n a ∨ i = .strmGet a n ∨ i = .strmEos n) → s.passes i = true → s.handles = true →
      (z.mayUseStream n.toNat = false → ∃ t, exec i s = .next t ∧ z.Traps t .prot s.cur.addr fun _ => word n.toNat)
      ∧ (z.mayUseStream n.toNat = true → closed = true → (i = .strmPut n a ∨ i = .strmEos n) →
          ∃ t, exec i s = .next t ∧ z.Traps t .eosafter s.cur.addr fun _ => word n.toNat))
    ∧ (z.mayUseStream n.toNat = true →
      (s.passes (.strmEos n) = true → closed = false →
        s.Completes (.strmEos n) (z.modStream d n.toNat fun x => { x.register key with eos := x.eos ++ [key] }))
      ∧ (∀ p spot, s.passes (.strmPut n a) = true → s.alone p = true → closed = false → x.tail + 1 - x.head ≤ x.capacity →
        let r := (z.modStream d n.toNat fun x => x.register key).access formW true .write (x.word x.tail)
        r.1 = .ok spot → (∀ pa, spot ≠ .control pa) →
          let t := r.2.touchSpot d spot
          let u := if t.cur.blocked then t else
            (t.storeSpot formW p (x.word x.tail) [s.src p [] a] spot).modStream d n.toNat fun x => { x with tail := x.tail + 1 }
          (u.cur.blocked = true → s.HoldsAt (.strmPut n a)) ∧ (u.cur.blocked = false → s.Completes (.strmPut n a) u))
      ∧ (s.passes (.strmPut n a) = true → closed = false → x.capacity < x.tail + s.cur.group.length - x.head → s.HoldsAt (.strmPut n a))
      ∧ (∀ p spot, s.passes (.strmGet a n) = true → s.alone p = true → x.head < x.tail →
        let va := x.word x.head
        let q := z.access formW false .read va
        let fin (t : State) : State :=
          ({ t with cur := s.cur }.modStream d n.toNat fun x => { x with head := x.head + 1 }).modThread s.cur.wave p fun t => t.setPred 7 true
        q.1 = .ok spot →
          let r := q.2.reached p spot
          let y := formW.outAccess { (q.2.touchSpot d spot).myAccess va 0 0 with dests := [(p, a, 0)] } spot
          let poisons : Prop := s.handles = true → ∃ t, exec (.strmGet a n) s = .next t ∧ z.Traps t .poison s.cur.addr fun _ => word va
          (q.2.loadHeld p spot y = true → s.HoldsAt (.strmGet a n))
          ∧ (q.2.loadHeld p spot y = false →
            (r.spotPoison d 4 spot ≠ none → poisons)
            ∧ (r.spotPoison d 4 spot = none →
              (y = none → s.Completes (.strmGet a n)
                (fin (((r.writeLeads true p a (r.loadSpot formW d spot)).afterLoad s.acquires d).listLoad formW p a spot)))
              ∧ ∀ o, y = some o →
                (r.me.answers.find o.addr = none → s.Awaits (.strmGet a n) ⟨o.va, o.addr, o.size⟩)
                ∧ (r.me.answers.find o.addr = some none → poisons)
                ∧ ∀ data, r.me.answers.find o.addr = some (some data) →
                    s.Completes (.strmGet a n) (fin ((r.writeLeads true p a (o.words data)).afterLoad s.acquires d)))))
      ∧ (∀ p, s.passes (.strmGet a n) = true → s.alone p = true → x.tail ≤ x.head → x.ended = true →
        s.Completes (.strmGet a n) ((z.writeLead true p a 0).modThread s.cur.wave p fun t => t.setPred 7 false))
      ∧ (s.passes (.strmGet a n) = true → x.tail - x.head < s.cur.group.length → x.ended = false → s.HoldsAt (.strmGet a n)))

/-- Enabling a stream (R274): a store of the die that sets EN makes its entry due to be read; the entry is read no later than the stream's next use, and
the stream is then empty. Without such a store STREAM_ENABLE changes nothing, whatever EN reads. (That a store makes the entry due, and that it is read
by then, is log 47's reading.) -/
def Claim.StreamEnables : Prop :=
  ∀ (s : State) (die k : Nat),
    (∀ e : PendStore, k < 256 → e.covers (s.streamEntry die k + 0x0B) = true → (e.data.getD (s.streamEntry die k + 0x0B - e.pa) 0).getLsbD 0 = true →
      ((s.store die e).stream die k).due = true)
    ∧ ((s.stream die k).due = true → ∃ t, exec (.streamEnable die k) s = .next t ∧ t = { s with dies := t.dies }
      ∧ (let b := s.viewBytes die (s.streamEntry die k) 32
         t.stream die k = { en := true, base := field b 0 8, logcap := field b 8 1, nprod := field b 9 1, ctx := field b 0x0A 1 })
      ∧ ∀ j, j ≠ k → t.stream die j = s.stream die j)
    ∧ ((s.stream die k).due = false → exec (.streamEnable die k) s = .next s)

/-- The instructions on streams, and how a stream comes to be enabled. -/
def Obligations.StreamInstructions : Prop := Claim.StreamUse ∧ Claim.StreamEnables

/-- Timelines and prefetch (R248, R252, R256, R322, R323): a signal never lowers a timeline, and one of a timeline that the context does not own raises PROT;
TL.WAIT waits for its value, without dropping a latch; PREF signals when its lines are there, or at once when it brings none in. -/
def Obligations.Timelines : Prop :=
  ∀ (s : State) (k a : Code),
    let d := s.myDie
    let v := s.src64 s.lowest a
    let raised (s t : State) (die k v : Nat) : Prop := ∀ j, t.timeline die j = if j = k then max (s.timeline die k) v else s.timeline die j
    (s.passes (.tlSig k a) = true →
      (s.ownsTimeline d k.toNat s.me.space.ctx = true → ∃ t, exec (.tlSig k a) s = .next t ∧ raised s t d k.toNat v.toNat
        ∧ (∀ p ∈ s.cur.group, (t.me.thread p).pc = s.nextAddr) ∧ t.mem = s.mem ∧ (∀ p c, t.me.readCode p c = s.me.readCode p c))
      ∧ (s.ownsTimeline d k.toNat s.me.space.ctx = false → s.handles = true → s.Raises (.tlSig k a) .prot fun _ => word k.toNat))
    ∧ (s.passes (.tlWait k a) = true →
      let reads := readsLatch (s.sources (.tlWait k a) s.lowest)
      (v.toNat ≤ s.timeline d k.toNat → s.Completes (.tlWait k a)
        (s.modWave s.cur.wave fun w => { w with wait := none, waitSince := s.clock, waitReads := reads, park := none }))
      ∧ (s.timeline d k.toNat < v.toNat → s.Completes (.tlWait k a)
        (s.modWave s.cur.wave fun w => { w with wait := some (.timeline k.toNat v), waitSince := s.clock, waitReads := reads })))
    ∧ (s.passes (.pref k a) = true →
      let g := s.group s.lowest a 4
      let r := s.anyPrefetched d s.me.space (some s.myCore) ((granulesOf (fld g 0 64) (fld g 64 32)).filter (· < 2 ^ 57))
      (r.1 = true → s.Completes (.pref k a) (r.2.modDie d fun x =>
        { x with prefs := x.prefs ++ [{ ctx := s.me.space.ctx, tl := k.toNat, tlval := fld g 96 32 }] }))
      ∧ (r.1 = false → s.Completes (.pref k a) (r.2.signal d s.me.space.ctx k.toNat (fld g 96 32))))
    ∧ (∀ die j (w : BitVec 64), j < 256 → ∃ t, exec (.timelineValueStore die j w) s = .next t ∧ raised s t die j w.toNat)
    ∧ ∀ die j x, (s.die die).prefs[j]? = some x → x.tlval < 2 ^ 64 → ∃ t, exec (.prefComplete die j) s = .next t
        ∧ (t.die die).prefs = listDel (s.die die).prefs j
        ∧ (if s.ownsTimeline die x.tl x.ctx then raised s t die x.tl x.tlval else ∀ i, t.timeline die i = s.timeline die i)

/-! ### Die memory, the fault queue, semaphores and watches -/

/-- Invalidations, the fault queue, stores on their way and views (R239, R240, R242, R352, R355, R427): what each step of a die does under its condition.
(Which store may reach its home next, that a release without bytes stands among them, and that a view rises store by store, each whole and none past a
later one to the same byte, are logs 10 and 19; that the window stays until an invalidation names it is log 35.) -/
def Obligations.DieMemorySteps : Prop :=
  ∀ (s : State) (d : Nat),
    let x := s.die d
    (x.invals.length < 16 →
      (∀ asid, exec (.xinvPage d asid) s = .next (s.modDie d fun y => { y with invals := x.invals ++ [.page (asid % 65536) x.xinva.toNat] }))
      ∧ (∀ asid, exec (.xinvAsid d asid) s = .next (s.modDie d fun y => { y with invals := x.invals ++ [.asid (asid % 65536)] }))
      ∧ exec (.xinvAll d) s = .next (s.modDie d fun y => { y with invals := x.invals ++ [.all] }))
    ∧ (∀ i rest, x.invals = i :: rest → s.usedBy d i = false → ∃ t, exec (.xinvComplete d) s = .next t ∧ (t.die d).invals = rest
        ∧ (t.die d).xinvDone = x.xinvDone + 1 ∧ (∀ e ∈ (t.die d).tlb, e ∈ x.tlb ∧ i.names e = false)
        ∧ (∀ e ∈ x.tlb, i.names e = false → e ∈ (t.die d).tlb) ∧ t.mem = s.mem
        ∧ (∀ w, (t.die d).swin = some w ↔ x.swin = some w ∧ i.meetsWindow w = false)
        ∧ ∀ c, (t.core c).tlb = (if dieOfCore c = d then (s.core c).tlb.filter fun e => !i.names e else (s.core c).tlb))
    ∧ (∀ v : BitVec 64, ∃ t, exec (.fqcfgWrite d v) s = .next t ∧ (t.die d).fqLen = v.toNat % 65536 ∧ (t.die d).fqTl = v.toNat / 65536 % 256
        ∧ ((t.die d).fqEn = true ↔ v.getLsbD 31 = true ∧ ∃ k, 6 ≤ k ∧ k ≤ 15 ∧ v.toNat % 65536 = 2 ^ k))
    ∧ (∀ f, x.fqEn = true → x.fqtail - x.fqhead ≠ BitVec.ofNat 64 x.fqLen → x.awaiting < 1024 → x.faults.find? (fun f => f.seq.isNone) = some f →
        x.fqtail.toNat + 1 < 2 ^ 64 → ∃ t, exec (.faultRecordWrite d) s = .next t ∧ (t.die d).fqtail = x.fqtail + 1
        ∧ x.fqtail.toNat + 1 ≤ t.timeline d x.fqTl
        ∧ ∀ k, k < 64 → t.viewByte d (x.fqbase.toNat + 64 * (x.fqtail.toNat % x.fqLen) + k) = (faultRecord f x.fqtail.toNat).getD k 0)
    ∧ (∀ e rest, x.pend = e :: rest → e.rel = false → e.sem = none → e.poisoned = false → e.tile = false → e.redo = none → e.op = none →
        e.pa + e.data.length ≤ 2 ^ 51 → s.watches = [] → ∃ t, exec (.storeReachHome d 0) s = .next t ∧ (t.die d).pend = rest
        ∧ ∀ a, t.homeByte a = if e.pa ≤ a ∧ a < e.pa + e.data.length then e.data.getD (a - e.pa) 0 else s.homeByte a)
    ∧ (∀ e rest, x.pend = e :: rest → e.rel = true → e.data = [] → e.sem = none → e.op = none → e.sc = false → e.pa < 2 ^ 51 →
        exec (.storeReachHome d 0) s = .next ((s.modDie d fun y => { y with pend := rest }).raiseViews d))
    ∧ (∀ i e o, x.pend[i]? = some e → mayReachHome x.pend i = true → 2 ^ 51 ≤ e.pa → s.lingers e = true → e.out = some o → o.sent = none →
        s.awaited d e = false → e.rel = false → e.redo = none →
        ∃ t n, exec (.storeReachHome d i) s = .next t ∧ (t.die d).pend = x.pend.set i { e with out := some { o with sent := some n } } ∧ t.mem = s.mem
        ∧ ∀ k, k < e.data.length → t.outside.find (e.pa + k) = some (e.data.getD k 0))
    ∧ (∀ i e, x.pend[i]? = some e → (mayReachHome x.pend i = false ∨ (s.lingers e = true ∧ e.out = none)) → exec (.storeReachHome d i) s = .next s)
    ∧ (∀ pa b, x.stale.find? (fun y => y.pa == pa) = some b → ∃ t, exec (.viewUpdate d pa) s = .next t ∧ t = { s with dies := t.dies }
        ∧ (t.die d).pend = x.pend ∧ (t.die d).stale = rises x.stale [b.ver] ∧ (t.die d).stale.Sublist x.stale
        ∧ (∀ y ∈ (t.die d).stale, y.ver ≠ b.ver ∧ ∀ z ∈ x.stale, z.ver = y.ver → z ∈ (t.die d).stale)
        ∧ ∀ y ∈ (t.die d).stale, ∀ z ∈ x.stale, z.pa = y.pa → z ∉ (t.die d).stale → z.ver < y.ver)

/-- The stream window, CCLR, FREPLY and the cross-die semaphores (R249, R324, R326, R327, R351, R360 to R362): FREPLY answers the outstanding fault whose
number the record at its address holds, whose bytes it waits for in place where they stand outside the module (log 46); a number of no semaphore raises
PROT with it; a wait that is satisfied acquires at SYS. -/
def Claim.DieInstructions : Prop :=
  ∀ (s : State) (c : BitVec 2) (a b : Code),
    let d := s.myDie
    let g := s.group s.lowest a 4
    let base := fld g 0 64
    let len := fld g 64 32
    let va := (s.src64 s.lowest a).toNat
    let k := s.src s.lowest [] a
    let v := s.src s.lowest [a] b
    (s.passes (.cclr a) = true →
      s.Completes (.cclr a) (s.modWave s.cur.wave fun w => { w with cause := w.cause &&& ~~~(k &&& 0x7FFFFF) }))
    ∧ (s.passes (.swin a) = true → fld g 96 32 = 0 → base % 65536 = 0 → len % 65536 = 0 →
      let limit := if s.kindOf d = .geometry then 25165824 else 201326592
      (limit < len → s.handles = true → s.Raises (.swin a) .prot fun _ => word len)
      ∧ ∀ m r, len ≤ limit → s.leavesOf d s.me.space (some s.myCore) (granulesOf base len) = (.ok m, r) →
          ((∀ y ∈ m, windowAllows s.me.priv y.2.1 = true) → s.Completes (.swin a) (r.modDie d fun x =>
            { x with swin := if len = 0 then none else some { asid := r.me.space.asid, base := base, len := len, pages := m } }))
          ∧ ∀ y, m.find? (fun y => !windowAllows s.me.priv y.2.1) = some y → s.handles = true → s.Raises (.swin a) .prot fun _ => word y.1)
    ∧ (s.passes (.freply c a) = true → va % 64 = 0 → ∀ got r, s.loadBytes (va + 0x20) 8 = (.ok got, r) →
      (got = none → (r.cur.need = none → s.HoldsAt (.freply c a)) ∧ ∀ y, r.cur.need = some y → s.Awaits (.freply c a) y)
      ∧ ∀ bs, got = some bs →
        let hit := (r.die d).faults.find? fun f => f.seq == some (leNat bs)
        (hit = none → s.Completes (.freply c a) r)
        ∧ ∀ f, hit = some f → let u := r.reply d c.toNat f
            u.issuing = true → u.cur = s.cur → s.Completes (.freply c a) u
              ∧ (f.replay = none → f.region = none → c = 0 → ∀ t ∈ f.threads, (u.wave t.2.1).uid = t.1 → ((u.wave t.2.1).thread t.2.2.1).held = none))
    ∧ (∀ i, (i = .xsemSig a b ∨ i = .xsemWait a b) → s.passes i = true → s.semCount ≤ k.toNat → s.handles = true → s.Raises i .prot fun _ => k)
    ∧ (k.toNat < s.semCount →
      (s.passes (.xsemSig a b) = true →
        s.Completes (.xsemSig a b) (s.store d { agent := 0, pa := 0, data := [], rel := true, sem := some (k.toNat, v) }))
      ∧ (s.passes (.xsemWait a b) = true →
        let reads := readsLatch (s.sources (.xsemWait a b) s.lowest)
        (v.toNat ≤ (s.semaphore k.toNat).toNat → s.Completes (.xsemWait a b)
          ((s.modWave s.cur.wave fun w => { w with wait := none, waitSince := s.clock, waitReads := reads, park := none }).acquireSys d))
        ∧ ((s.semaphore k.toNat).toNat < v.toNat → s.Completes (.xsemWait a b)
          (s.modWave s.cur.wave fun w => { w with wait := some (.semaphore k.toNat v), waitSince := s.clock, waitReads := reads }))))
    ∧ ∀ j (w : BitVec 64), j < s.semCount → ∃ t, exec (.semaphoreStore j w) s = .next t
        ∧ ∀ i, t.semaphore i = if i = j then word w.toNat else s.semaphore i

/-- A signal adds its signed amount to its semaphore, kept within 0 and 2^32 - 1 (R361). -/
def Claim.SemaphoreSignals : Prop :=
  ∀ (s : State) (k j : Nat) (x : Word),
    (((s.signalSem k x).semaphore k).toNat : Int) = max 0 (min (2 ^ 32 - 1) (((s.semaphore k).toNat : Int) + x.toInt))
    ∧ (j ≠ k → (s.signalSem k x).semaphore j = s.semaphore j)

/-- Instructions on a die's memory and on the cross-die semaphores. -/
def Obligations.DieAndSemaphores : Prop := Claim.DieInstructions ∧ Claim.SemaphoreSignals

/-- Watch entries (R363 to R366, R369 to R371): WATCH.ARM gives the lowest free entry, armed over the physical run of its range, or 0xFFFFFFFF where none is
free; WATCH.OFF frees its entry; both wait in place until their die's stores can be delivered; WATCH.STAT tells an entry's state; an index of no
entry, or of another context's, raises PROT; and a hold-off and an interval end at their times. -/
def Obligations.WatchEntries : Prop :=
  ∀ (s : State) (d a : Code),
    let va := (s.src64 s.lowest a).toNat
    let e := s.src s.lowest [] a
    (∀ r, s.passes (.watchArm d a) = true → va % 64 = 0 → s.watchDescriptor va = (.ok none, r) →
      (r.cur.need = none → s.HoldsAt (.watchArm d a)) ∧ ∀ y, r.cur.need = some y → s.Awaits (.watchArm d a) y)
    ∧ (s.passes (.watchArm d a) = true → va % 64 = 0 → ∀ b r pa u, s.watchDescriptor va = (.ok (some b), r) → r.cur.blocked = false → watchFieldsOk b (parseWatch b) = true →
      r.watchedRun (parseWatch b) = (.ok pa, u) → u.watchQueueOk (parseWatch b) = true →
      ((∀ n, n < 1024 → u.watches.find n ≠ none) → ∃ t, exec (.watchArm d a) s = .next t ∧ u.EachResult t d fun _ => 0xFFFFFFFF)
      ∧ ∀ n, n < 1024 → u.watches.find n = none → (∀ j, j < n → u.watches.find j ≠ none) →
        (s.canFlush s.myDie = false → s.HoldsAt (.watchArm d a))
        ∧ (s.canFlush s.myDie = true →
          let z := u.flushAll s.myDie
          ∃ t w, exec (.watchArm d a) s = .next t ∧ ({ z with watches := z.watches.put n w } : State).EachResult t d (fun _ => word n)
            ∧ w.armed = true ∧ w.flooded = false ∧ w.pa = pa ∧ w.base = field b 0 8 ∧ w.len = field b 8 4 ∧ w.space = z.me.space
            ∧ w.uid = z.me.uid ∧ w.pos = s.lowest ∧ w.trig = 0 ∧ w.pending = none))
    ∧ (s.passes (.watchOff a) = true →
      (s.watchRefused e = false → s.watches.find e.toNat = none → s.Completes (.watchOff a) s)
      ∧ (s.watchRefused e = false → s.watches.find e.toNat ≠ none → s.canFlush s.myDie = false → s.HoldsAt (.watchOff a))
      ∧ (s.watchRefused e = false → s.watches.find e.toNat ≠ none → s.canFlush s.myDie = true →
        ∃ t, exec (.watchOff a) s = .next t ∧ t.watches.find e.toNat = none ∧ ∀ p ∈ s.cur.group, (t.me.thread p).pc = s.nextAddr)
      ∧ (s.watchRefused e = true → s.handles = true → s.Raises (.watchOff a) .prot fun _ => e))
    ∧ (s.passes (.watchStat d a) = true →
      (s.watchRefused e = true → s.handles = true → s.Raises (.watchStat d a) .prot fun _ => e)
      ∧ (s.watchRefused e = false → ∃ t v, exec (.watchStat d a) s = .next t ∧ s.EachResult t d (fun _ => v)
        ∧ (s.watches.find e.toNat = none → v = 0)
        ∧ ∀ w, s.watches.find e.toNat = some w → v.getLsbD 31 = w.armed ∧ v.getLsbD 30 = w.flooded ∧ v.getLsbD 29 = w.pending.isSome
          ∧ v.getLsbD 28 = true ∧ ((w.armed = false ∨ (s.ref - w.armedAt) / 10000 = w.interval) → v.toNat % 2 ^ 16 = min 65535 w.trig)
          ∧ (w.armed = true → (s.ref - w.armedAt) / 10000 ≠ w.interval → v.toNat % 2 ^ 16 = 0)))
    ∧ ∀ n w, s.watches.find n = some w →
      (∀ h, w.holdoff = some h → h ≤ s.ref → ∃ t, exec (.watchHoldoffEnd n) s = .next t ∧ (t.watch n).holdoff = none)
      ∧ (w.armed = true → (s.ref - w.armedAt) / 10000 ≠ w.interval → ∃ t, exec (.watchIntervalEnd n) s = .next t
        ∧ t.watches.find n = some { w with trig := 0, interval := (s.ref - w.armedAt) / 10000 })

/-- Codec tiles (R383, R384, R391, R392): CMP.CLEAR and CMP.DECOMP rewrite every tile of their range at its home and release; a length of 0 does nothing, and
an illegal range raises ILL, ALIGN or PROT; where there are tiles to rewrite they wait in place for what the rewriting must follow (log 10). A tile that
CMP.CLEAR has rewritten has mode 1; CMP.STAT answers mode, stored length and surface of a tile; RGN.WAIT goes on when its region is done and its own blocks
have been requested, and waits in place before that (R390; whose blocks count is log 42). -/
def Obligations.CodecTiles : Prop :=
  ∀ (s : State) (d a : Code),
    let g := s.group s.lowest a 4
    let base := fld g 0 64
    let len := fld g 64 32
    let die := s.myDie
    let va := (s.src64 s.lowest a).toNat
    let r := (s.src s.lowest [] a).toNat
    (∀ clear : Bool, let i : Instr := if clear then .cmpClear a else .cmpDecomp a
      s.passes i = true →
      (fld g 96 32 ≠ 0 → s.handles = true → s.Raises i .ill fun _ => s.cur.first)
      ∧ (fld g 96 32 = 0 → base % 256 ≠ 0 → s.handles = true → s.Raises i .align fun _ => word base)
      ∧ (fld g 96 32 = 0 → base % 256 = 0 → len % 256 ≠ 0 → s.handles = true → s.Raises i .align fun _ => word len)
      ∧ ∀ m q, fld g 96 32 = 0 → base % 256 = 0 → len % 256 = 0 →
        s.translateRange die s.me.space (fun e => writable s.me.priv e && pteRgn e && !pteDev e) base len (some s.myCore) = (.ok m, q) →
        (∀ k, k < len / 256 → (q.surfaceAt (rangePa m (base + 256 * k))).isSome = false →
          (∀ j, j < k → (q.surfaceAt (rangePa m (base + 256 * j))).isSome = true) → s.handles = true → s.Raises i .prot fun _ => word (base + 256 * k))
        ∧ ((∀ k, k < len / 256 → (q.surfaceAt (rangePa m (base + 256 * k))).isSome = true) →
          let tiles := (List.range (len / 256)).map fun k => rangePa m (base + 256 * k)
          let waits := q.heldBack die s.myAgents (tiles.map fun pa => (pa, 256))
          let u := (foldState (fun pa z => z.rewriteByCmp die (agentOf s.me.uid s.lowest) clear pa) tiles (q.flushBefore die s.myAgents [])).releaseSys die
          (len = 0 → s.Completes i q)
          ∧ (len ≠ 0 → waits = true → s.HoldsAt i)
          ∧ (len ≠ 0 → waits = false → (u.cur.blocked = false → s.Completes i u) ∧ (u.cur.blocked = true → s.HoldsAt i))))
    ∧ (∀ agent pa x n, pa % 256 = 0 → s.surfaceAt pa = some (x, n) → s.watches = [] → s.rgnOwner.find (pa / 65536) = none → (s.die die).pend = [] →
      (s.rewriteByCmp die agent true pa).homeByte (x.modeAt n) = 1)
    ∧ (∀ p pa e n q, s.passes (.cmpStat d a) = true → s.alone p = true → s.translate die s.me.space s.me.priv false va s.myCore = (.ok (pa, e, n), q) →
      (pteDev e || controlFrame e) = false → q.poisonedAt die pa = false →
      ∃ v, s.Completes (.cmpStat d a) (q.writeLead true p d v)
        ∧ ((q.regionOf pa ≠ .device ∨ q.surfaceAt pa = none) → v = 0)
        ∧ ∀ x j, q.regionOf pa = .device → q.surfaceAt pa = some (x, j) → v.getLsbD 31 = true
          ∧ v.extractLsb' 0 8 = q.homeByte (x.modeAt j) ∧ (v.extractLsb' 8 12).toNat = storedLength (q.homeByte (x.modeAt j)).toNat
          ∧ (v.extractLsb' 20 11).toNat = q.surfaceIndex pa)
    ∧ (s.passes (.rgnWait a) = true → s.kindOf die ≠ .geometry →
      (s.currentFrame die = none → s.Completes (.rgnWait a) s)
      ∧ ∀ f, s.currentFrame die = some f →
        ((f.desc.regions ≤ r ∨ r ∉ f.owned) → s.handles = true → s.Raises (.rgnWait a) .prot fun _ => word r)
        ∧ (r < f.desc.regions → r ∈ f.owned →
          let finished : Bool := f.st == .done || (s.regionDone die r && f.requested.contains r
            && !s.heldRecs.any fun x => x.die == die && x.region == some r)
          (finished = true → s.Completes (.rgnWait a) s) ∧ (finished = false → s.HoldsAt (.rgnWait a))))

/-! ### Rays and acceleration structures -/

/-- Rays (R300, R304, R305, R311, R312, R328, R329): RAY.GO starts a query for 2 shots and gives its handle, or waits in place where the ray unit has no room;
RAY.GET waits in place while its query walks and then takes the result, RAY.POLL tells whether it has ended; a handle of no query raises PROT; and
a walking query ends as its walk does. -/
def Claim.RayQueries : Prop :=
  ∀ (s : State) (d a : Code) (m : PredNo) (p : Nat), s.alone p = true →
    let va := (s.src64 p a).toNat
    let h := s.src p [] a
    let gens := (s.me.thread p).gens
    (s.passes (.rayGo d a) = true → s.rayRoom s.myCluster 1 = false → s.HoldsAt (.rayGo d a))
    ∧ (s.passes (.rayGo d a) = true → s.cannotPay 2 = false → s.rayRoom s.myCluster 1 = true → va % 64 = 0 → isW d = false →
      ∀ pa e n r hdr e' n' r' pin, (s.pay 2).translate s.myDie s.me.space s.me.priv true va s.myCore = (.ok (pa, e, n), r) → pteRgn e = false →
      r.regionOf pa = .device → pteFmt e = 0 →
      r.translate s.myDie s.me.space s.me.priv false (field (r.viewBytes s.myDie pa 64) 0x20 8 % 2 ^ 57) s.myCore = (.ok (hdr, e', n'), r') →
      r'.pinOf s.myDie s.me.launch hdr gens = some pin →
      ∃ t q, exec (.rayGo d a) s = .next t ∧ t.queries.find r'.nextId = some q ∧ q.uid = s.me.uid ∧ q.pos = p ∧ q.statePa = pa ∧ q.gen = gens
        ∧ q.handle = t.me.readCode p d ∧ q.handle.getLsbD 31 = true ∧ (t.me.thread p).pc = s.nextAddr
        ∧ (t.core s.myCore).pocket = (s.core s.myCore).pocket - 2)
    ∧ (s.queryOf s.me.uid p h = none → s.handles = true →
      (s.passes (.rayGet d a) = true → s.Raises (.rayGet d a) .prot fun _ => h) ∧ (s.passes (.rayPoll m a) = true → s.Raises (.rayPoll m a) .prot fun _ => h))
    ∧ (∀ n q, s.queryOf s.me.uid p h = some (n, q) →
      (s.passes (.rayPoll m a) = true → s.Completes (.rayPoll m a) (s.modThread s.cur.wave p fun t => t.setPred m (q.st != .walking)))
      ∧ (s.passes (.rayGet d a) = true → q.st = .walking → s.HoldsAt (.rayGet d a))
      ∧ (∀ t prim inst uv, s.passes (.rayGet d a) = true → q.st = .ready t prim inst uv →
        s.Completes (.rayGet d a) (({ s with queries := s.queries.del n } : State).sweepPins.writeLeads true p d [t, prim, inst, uv])))
    ∧ ∀ n q, s.queries.find n = some q → q.st = .walking →
      (∀ hit r, s.walkOf q = (.hit hit, r) → ∃ t, exec (.rayQueryComplete n) s = .next t
        ∧ (t.queries.find n).map Query.st = some (.ready (word (hit.getD {}).t) (word (hit.getD {}).prim) (word (hit.getD {}).inst) (word (hit.getD {}).uv)))
      ∧ ∀ c v r, s.walkOf q = (.failed c v, r) → ∃ t, exec (.rayQueryFault n) s = .next t ∧ (t.queries.find n).map Query.st = some (.failed c v)

/-- Pins (R300, R330): GEN.PIN puts the header's current generation, or 0, into GENS and D of every member and counts a pin of the task; GEN.UNPIN takes one
away. A header that is no multiple of 512 raises ALIGN. -/
def Claim.Pins : Prop :=
  ∀ (s : State) (d a : Code),
    let va := (s.src64 s.lowest a).toNat
    (∀ i, (i = .genPin d a ∨ i = .genUnpin d a) → s.passes i = true → va % 512 ≠ 0 → s.handles = true → s.Raises i .align fun _ => word va)
    ∧ ∀ hdr r, s.headerAt va = (.ok hdr, r) →
      (s.passes (.genPin d a) = true → r.poisonIn s.myDie hdr 4 = none →
        let cur := word ((r.acquireSys s.myDie).viewNat s.myDie hdr 4)
        ∃ t g, exec (.genPin d a) s = .next t ∧ (∀ p ∈ s.cur.group, (t.me.thread p).gens = g ∧ t.me.readCode p d = g ∧ (t.me.thread p).pc = s.nextAddr)
          ∧ (cur = 0 → g = 0) ∧ (cur ≠ 0 → (r.die s.myDie).pins.length < 4096 → g = cur ∧ (t.pinOf s.myDie s.me.launch hdr cur).isSome = true))
      ∧ (s.passes (.genUnpin d a) = true →
        (r.pinOf s.myDie s.me.launch hdr (s.src s.lowest [] d) = none → s.Completes (.genUnpin d a) r)
        ∧ ∀ x, r.pinOf s.myDie s.me.launch hdr (s.src s.lowest [] d) = some x → s.Completes (.genUnpin d a)
          (r.modDie s.myDie fun y => { y with pins := y.pins.map fun p => if p.id = x.id then { p with count := p.count - 1 } else p }).sweepPins)

/-- Ray queries and pins. -/
def Obligations.Rays : Prop := Claim.RayQueries ∧ Claim.Pins

/-- The builder's instructions (R291, R292, R296, R303, R331 to R333): for 2 shots BLD.BUILD, BLD.REFIT, BLD.REBAL and BLD.BUILD with NFT = 1 queue a job with the
descriptor that they name, or wait in place while 64 are queued; BLD.STAT and BLD.QUAL read the header's words; none of them has a meaning on a
geometry die, where it raises ILL. (That BUSY and QUEUED are those of the reading die's builder is log 39.) -/
def Claim.BuilderInstructions : Prop :=
  ∀ (s : State) (d a : Code),
    let die := s.myDie
    let va := (s.src64 s.lowest a).toNat
    let u := s.pay 2
    let queued (i : Instr) (j : Job) (r : State) : Prop := s.Completes i (r.modDie die fun y => { y with jobs := y.jobs ++ [j] })
    let job (k : JobKind) : Option Instr := match k with
      | .build => some (.bldBuild a) | .refit => some (.bldRefit a) | .rebal => some (.bldRebal a) | .nft => some (.bldBuildNft a)
    (∀ i, ((∃ k, job k = some i) ∨ i = .bldStat d a ∨ i = .bldQual d a) → s.passes i = true → s.kindOf die = .geometry → s.handles = true →
      s.Raises i .ill fun _ => s.cur.first)
    ∧ (∀ k i, job k = some i → s.passes i = true → s.kindOf die ≠ .geometry → 64 ≤ (s.die die).jobs.length → s.HoldsAt i)
    ∧ (s.kindOf die ≠ .geometry → s.cannotPay 2 = false → (s.die die).jobs.length < 64 →
      (∀ k i pa r x hdr r', job k = some i → k ≠ .nft → s.passes i = true → va % 64 = 0 → u.structBytes false va 64 = (.ok pa, r) →
        x = parseDesc (r.viewBytes die pa 64) → x.hdr % 512 = 0 → r.structBytes true x.hdr 512 = (.ok hdr, r') →
        queued i { kind := k, desc := x, descVa := va, hdrPa := hdr, space := s.me.space, priv := s.me.priv, uid := s.me.uid, pos := s.lowest } r')
      ∧ (∀ pa e n r, s.passes (.bldBuildNft a) = true → va % 32 = 0 → u.translate die s.me.space s.me.priv false va s.myCore = (.ok (pa, e, n), r) →
        structurePage s.me.priv e = true → notControl e = true → r.regionOf pa = .device → queued (.bldBuildNft a)
          { kind := .nft, descVa := va, hdrPa := pa, space := s.me.space, priv := s.me.priv, uid := s.me.uid, pos := s.lowest } r))
    ∧ (s.kindOf die ≠ .geometry → s.cannotPay 2 = false → va % 512 = 0 → ∀ hdr r, u.structBytes false va 512 = (.ok hdr, r) →
      let z := r.acquireSys die
      (s.passes (.bldStat d a) = true → ∃ t v, exec (.bldStat d a) s = .next t ∧ z.EachResult t d (fun _ => v)
        ∧ (v.extractLsb' 0 4).toNat = z.viewNat die (hdr + 4) 4 % 16 ∧ (v.extractLsb' 8 5).toNat = z.viewNat die (hdr + 4) 4 / 256 % 32
        ∧ v.getLsbD 7 = (z.die die).running.any (fun j => j.kind != .nft && j.hdrPa == hdr)
        ∧ (v.extractLsb' 16 16).toNat = min 65535 ((z.die die).jobs.filter fun j => j.kind != .nft && j.hdrPa == hdr).length)
      ∧ (s.passes (.bldQual d a) = true → ∃ t, exec (.bldQual d a) s = .next t ∧ z.GoesOn t
        ∧ (∀ p ∈ s.cur.group, ∀ k, k < 4 → t.me.readCode p (d + BitVec.ofNat 8 k) = word (z.viewNat die (hdr + 0x30 + 4 * k) 4))
        ∧ z.KeepsRegs t fun p c => z.writes d p c || z.writes (d + 1) p c || z.writes (d + 2) p c || z.writes (d + 3) p c))

/-- The builder at work (R290 to R295): a free builder takes up the first job queued; a job that has found a code, or may find one, ends with it, and the
builder is free; a node-format table is taken up for its context; the plan that the builder's method gives is published where the rules let it be: the next
generation is current. (Which descriptors give code 3 is log 39; the method and the places are free, log 14. The premises on pages keep a structure whose
blocks would lie over its own header out of the statement.) -/
def Claim.BuilderSteps : Prop :=
  ∀ (s : State) (d : Nat),
    (∀ j rest, (s.die d).running = none → (s.die d).jobs = j :: rest → ∃ t code, exec (.builderJobStart d) s = .next t
        ∧ (t.die d).running = some { j with code := code } ∧ (t.die d).jobs = rest ∧ (j.kind = .nft → code = j.code)
        ∧ (j.kind ≠ .nft → j.desc.bad j.kind = true → j.code = none → code = some 3))
    ∧ (∀ j code, (s.die d).running = some j → code ∈ s.jobCodes d j → ∃ t, exec (.builderJobFail d code) s = .next t ∧ (t.die d).running = none
        ∧ (t.die d).jobs = (s.die d).jobs)
    ∧ (∀ j x plan, (s.die d).running = some j → j.kind = .nft → j.code = none → s.poisonIn d j.hdrPa 32 = none →
        parseNft (s.viewBytes d j.hdrPa 32) = some x → ∃ t, exec (.builderPublish d plan) s = .next t ∧ (t.die d).running = none
        ∧ (t.die d).nft.find j.space.ctx = some x ∧ t.mem = s.mem)
    ∧ ∀ j plan recs r, (s.die d).running = some j → j.kind ≠ .nft → j.code = none → s.headerMarked d j = false → s.jobRecords d j = (.ok recs, r) →
        let f := s.jobFmt d j
        let x := s.structs.get {} j.hdrPa
        let published : Prop := ∃ t, exec (.builderPublish d plan) s = .next t ∧ (t.die d).running = none
          ∧ (s.watches = [] → j.hdrPa + 512 ≤ 2 ^ 51 → t.viewNat d j.hdrPa 4 = nextGen (s.viewNat d j.hdrPa 4))
        degenerate f.test recs = false → s.liveFull d j.hdrPa = false → s.canFlush d = true →
        (s.keepsAll d j x recs = true → plan = x.plan → published)
        ∧ ∀ returned m r', s.keepsAll d j x recs = false → s.placement d j recs = some (returned, plan) →
          treeAllowed j (s.poolFor j.hdrPa returned) f recs plan = true → (s.poolFor j.hdrPa returned).placeable plan = true →
          r.blockRanges d j plan = (some m, r') →
          (∀ b ∈ plan, ∀ k, k < 2 → rangesMeet (rangePa m (j.desc.pool + (b.off + 128 * k))) 128 j.hdrPa 512 = false) → published

/-- The builder: its instructions and its jobs. -/
def Obligations.AccelerationBuilder : Prop := Claim.BuilderInstructions ∧ Claim.BuilderSteps

/-! ### The graphics pipeline -/

/-- Emission (R375, R377, R386, R387): without a current frame, or for a number that is not the die's, MV.EMIT and MV.END raise PROT; a number that is passed or
accepted already changes nothing; another is accepted with its packet, whose record is waited for in place where it stands outside the module (log 46); one
too far ahead of the cursor waits in place; MV.END ends the die's emission; off a geometry die they raise ILL. -/
def Claim.Emission : Prop :=
  ∀ (s : State) (a : Code),
    let d := s.myDie
    let op := s.group s.lowest a 4
    let rcd := fld op 0 64
    let seq := fld op 64 32
    let legal : Prop := fld op 117 11 = 0 ∧ fld op 110 2 = 0 ∧ bit op 103 = false
    (s.kindOf d ≠ .geometry → s.handles = true →
      (s.passes (.mvEmit a) = true → s.Raises (.mvEmit a) .ill fun _ => s.cur.first) ∧ (s.passes .mvEnd = true → s.Raises .mvEnd .ill fun _ => s.cur.first))
    ∧ (s.kindOf d = .geometry → s.passes .mvEnd = true →
      (s.currentFrame d = none → s.handles = true → s.Raises .mvEnd .prot fun _ => 0)
      ∧ (s.currentFrame d ≠ none → s.Completes .mvEnd (s.modDie d fun x => { x with gfx := { x.gfx with mvEnd := true } })))
    ∧ (s.kindOf d = .geometry → s.passes (.mvEmit a) = true →
      (¬ legal → s.handles = true → s.Raises (.mvEmit a) .ill fun _ => s.cur.first)
      ∧ (legal → rcd % 256 ≠ 0 → s.handles = true → s.Raises (.mvEmit a) .align fun _ => word rcd)
      ∧ ∀ m r, legal → rcd % 256 = 0 → s.translateRange d s.me.space (fun _ => true) rcd 1536 (some s.myCore) = (.ok m, r) →
        (s.currentFrame d = none → s.handles = true → s.Raises (.mvEmit a) .prot fun _ => 0)
        ∧ ∀ g, r.currentFrame d = some g →
          ((g.desc.nseq ≤ seq ∨ r.ownsSeq d g.desc seq = false) → s.handles = true → s.Raises (.mvEmit a) .prot fun _ => word seq)
          ∧ (seq < g.desc.nseq → r.ownsSeq d g.desc seq = true →
            (r.seqPos d g.desc g.cursor + 4096 ≤ r.seqPos d g.desc seq → s.HoldsAt (.mvEmit a))
            ∧ (r.seqPos d g.desc seq < r.seqPos d g.desc g.cursor + 4096 →
              (m.find? fun x => !readable s.me.priv x.2.2 || pteDev x.2.2 || controlFrame x.2.2) = none →
              ∀ got z, r.loadBytes rcd 1536 = (.ok got, z) →
              (got = none → (z.cur.need = none → s.HoldsAt (.mvEmit a)) ∧ ∀ y, z.cur.need = some y → s.Awaits (.mvEmit a) y)
              ∧ ∀ b, got = some b → s.Completes (.mvEmit a) (if seq < g.cursor ∨ g.mvEnd = true ∨ seq ∈ g.accepted then z else z.modDie d fun x => { x with gfx :=
                { x.gfx with accepted := sortedInsert x.gfx.accepted seq, reorder := x.gfx.reorder ++ [parsePacket d g b op] } }))))

/-- The atlas's instructions (R381, R386, R388, R389), in a member alone: ATL.REQ requests its block and gives the state that it found, ATL.DONE makes its block
shaded, ATL.SMP filters four taps whose blocks are shaded, or requests them and waits in place, and gives NaN for a NaN or infinite coordinate at once; a
request for another frame, or outside the atlas, raises PROT. A release waits for stores of its die that cannot reach their home: ATL.REQ itself is done, and its
request follows them; ATL.DONE waits in place (R355, R386; logs 10 and 42). -/
def Claim.AtlasInstructions : Prop :=
  ∀ (s : State) (d a : Code) (p : Nat) (g : Gfx), s.alone p = true → s.currentFrame s.myDie = some g →
    let die := s.myDie
    let x := (s.src64 p a).toNat
    let n := (s.src p [] a).toNat
    (s.passes (.atlReq d a) = true →
      (fld x 32 32 ≠ g.desc.id → s.handles = true → s.Raises (.atlReq d a) .prot fun _ => word (fld x 32 32))
      ∧ (fld x 32 32 = g.desc.id → g.desc.blocks ≤ fld x 0 32 → s.handles = true → s.Raises (.atlReq d a) .prot fun _ => word (fld x 0 32))
      ∧ ∀ pa e r, fld x 32 32 = g.desc.id → fld x 0 32 < g.desc.blocks → s.blockFor (fld x 0 32) = (.ok (pa, e), r) →
        let y := r.requestBlock die (agentOf s.me.uid p) pa e (fld x 0 32)
        let later := r.accessBehind { r.myAccess 0 pa 4 with to_ := .request p d (fld x 0 32) e }
        (r.canFlush die = true → (y.2.cur.blocked = false → s.Completes (.atlReq d a) (y.2.writeLead true p d (word y.1)))
          ∧ (y.2.cur.blocked = true → s.HoldsAt (.atlReq d a)))
        ∧ (r.canFlush die = false → s.Completes (.atlReq d a) { later with cur := { later.cur with away := true } }))
    ∧ (s.passes (.atlDone a) = true →
      (g.desc.blocks ≤ n → s.handles = true → s.Raises (.atlDone a) .prot fun _ => word n)
      ∧ ∀ pa e r, n < g.desc.blocks → s.blockFor n = (.ok (pa, e), r) →
        let u := (r.changeBlock die (agentOf s.me.uid p) pa e n fun x => if x = 3 then none else some 2).2
        (r.heldBack die s.myAgents [spanOf pa (pteRgn e) 4] = true → s.HoldsAt (.atlDone a))
        ∧ (r.heldBack die s.myAgents [spanOf pa (pteRgn e) 4] = false →
          (u.cur.blocked = false → s.Completes (.atlDone a) u) ∧ (u.cur.blocked = true → s.HoldsAt (.atlDone a))))
    ∧ (s.passes (.atlSmp d a) = true →
      (exactOf (x % 2 ^ 32) = none ∨ exactOf (x / 2 ^ 32) = none → s.Completes (.atlSmp d a) (s.writeLeads true p d (List.replicate 4 0x7FC00000)))
      ∧ ∀ u v, exactOf (x % 2 ^ 32) = some u → exactOf (x / 2 ^ 32) = some v →
        let q := s.requestAll die (agentOf s.me.uid p) ((tapsOf g.desc u v).1.map g.desc.blockOf)
        (∀ t r, q.1 = true → (∀ b ∈ (tapsOf g.desc u v).1, (s.blockFor (g.desc.blockOf b)).1.toOption.isSome = true) →
          (s.acquireSys die).texels g.space ((tapsOf g.desc u v).1.map g.desc.texelVa) = (.ok t, r) →
          (r.cur.blocked = false →
            s.Completes (.atlSmp d a) (r.writeLeads true p d ((List.range 4).map (filtered t (tapsOf g.desc u v).2.1 (tapsOf g.desc u v).2.2))))
          ∧ (r.cur.blocked = true → s.HoldsAt (.atlSmp d a)))
        ∧ (q.1 = false → ∃ t, exec (.atlSmp d a) s = .next t ∧ t = { q.2 with cur := { q.2.cur with held := true, inPlace := true }, freeCtr := t.freeCtr }))

/-! ### QP -/

/-- Queues (R254, R257 to R259, R262, R263): taking up and giving up descriptors, the tail of a host-fed queue, the table's base, the mapping of queues to slots
at a tick, aging, and core enables. (When a descriptor is taken up, and from when a queue without work ages, are logs 37 and 48.) -/
def Obligations.QueueSteps : Prop :=
  ∀ (s : State) (d q : Nat),
    let x := s.queue d q
    let desc := s.queueDesc d q
    (q < 4096 → s.descEnabled d q = true → (x.en = false ∨ x.cleared = true) → ∃ t, exec (.queueEnable d q) s = .next t ∧ (t.queue d q).en = true
      ∧ (t.queue d q).tail = field (s.viewBytes d desc 128) 0 8 ∧ (t.queue d q).head = field (s.viewBytes d desc 128) 8 8
      ∧ (t.queue d q).ctx = fld (field (s.viewBytes d desc 128) 0x20 4) 8 8
      ∧ ((t.queue d q).mapped.isSome = true ↔ (t.queue d q).pin = true)
      ∧ ((s.die d).slotsInUse.length < 64 → ∀ k, k ≠ q → t.queue d k = s.queue d k))
    ∧ (s.descEnabled d q = true → x.en = true → x.cleared = false → exec (.queueEnable d q) s = .next s)
    ∧ (s.descEnabled d q = false → x.en = true → ∃ t, exec (.queueDisable d q) s = .next t ∧ (t.queue d q).en = false
      ∧ (t.queue d q).mapped = none ∧ (t.queue d q).head = x.head ∧ (t.queue d q).tail = x.tail)
    ∧ (∀ v : BitVec 64, x.en = true → x.hostq = true → s.watches = [] → (s.die d).pend = [] → desc + 8 ≤ 2 ^ 51 →
      ∃ t, exec (.queueTailStore d q v) s = .next t ∧ (t.queue d q).tail = max x.tail v.toNat ∧ t.viewNat d desc 8 = v.toNat)
    ∧ (∀ v : BitVec 64, ∃ t, exec (.qtbaseWrite d v) s = .next t ∧ (t.die d).qtbase.toNat = v.toNat / 2 ^ 19 % 2 ^ 33 * 2 ^ 19)
    ∧ (∀ hi (v : BitVec 64), ∃ t, exec (.coreenWrite d hi v) s = .next t
      ∧ (if hi then (t.die d).coreen1 = v.extractLsb' 0 32 ∧ (t.die d).coreen0 = (s.die d).coreen0
         else (t.die d).coreen0 = v ∧ (t.die d).coreen1 = (s.die d).coreen1))
    ∧ ((s.die d).lastTick + 2000 ≤ s.ref → ∃ t, exec (.remapTick d) s = .next t ∧ (t.die d).lastTick = s.ref
      ∧ (∀ k ∈ (s.remapOrder d).take (s.freeSlots d), (t.queue d k).mapped.isSome = true)
      ∧ ∀ k, k ∉ (s.remapOrder d).take (s.freeSlots d) → (s.queue d k).pin = false → ((s.die d).queues.find k).isSome = true →
        (t.queue d k).mapped = none)
    ∧ (x.en = true → x.mapped = none → s.hasWork d q = true → x.level < 7 → x.agedAt + 1000000 ≤ s.ref → x.unmappedAt + 1000000 ≤ s.ref →
      ∃ t, exec (.queueAging d q) s = .next t ∧ (t.queue d q).aged = x.aged + 1 ∧ (t.queue d q).agedAt = s.ref)

/-- Launches (R155, R156, R258, R261, R264, R269, R270, R278 to R280, R283, R319): what the steps that take, admit, park, resume, discard and complete them do
under their conditions. A discard stops the launch's waves, queues its record again and raises its ATTEMPT (R279). -/
def Obligations.LaunchSteps : Prop :=
  ∀ (s : State),
    (∀ d q sp pos slot z, let r := s.seeTail d q
      let rcd := parseTask ((z.passRecord d q).viewBytes d slot 128)
      (r.queue d q).en = true → (r.queue d q).mapped.isSome = true → r.context d (r.queue d q).ctx = (sp, true) → r.admitting d (r.queue d q).slot = none →
      r.offeredRecord d q = (some (pos, slot), z) → (parseTask (z.viewBytes d slot 128)).tsb = false →
      ∃ t n l, exec (.recordTake d q) s = .next t ∧ t.launches.find n = some l ∧ l.die = d ∧ l.queue = q ∧ l.pos = pos ∧ l.recPa = slot ∧ l.rcd = rcd
        ∧ l.space = sp ∧ l.slot = (r.queue d q).slot ∧ (l.phase = .taken ∨ (l.phase = .ended ∧ l.status ≠ 0)) ∧ (rcd.fieldsOk = false → l.phase = .ended ∧ l.status = 1))
    ∧ (∀ n places z t, let l := s.launch n
      s.admitting l.die l.slot = some n → s.ownFirst l = false → s.betterFits l.die (s.offerRank n l.slot) = false → s.admitAt n places = some z →
      z.loadEntries (z.launch n) ((l.nextRoles.zip places).flatMap fun x => ((placeCores x.1.1 x.2).getD []).map fun c => (x.1.1.kernel, c)) = some t →
      ∃ u, exec (.teamAdmit n places) s = .next u ∧ (u.launch n).phase = .running ∧ (u.launch n).teamsIn = l.teamsIn + l.nextRoles.length
        ∧ u.waves = t.waves)
    ∧ (∀ k w n m z, s.waves.find k = some w → s.mayPark k = true →
      s.translateRange (dieOfWave k) w.space (fun e => writable w.priv e && notControl e && pteFmt e == 0) ((s.launch w.launch).areaOf w) 5376 = (.ok m, z) →
      w.wait = some n → ∃ t id p, exec (.parkWriteOut k) s = .next t ∧ t.waves.find k = none ∧ t.parked.find id = some p ∧ p.launch = w.launch
        ∧ p.wait = n ∧ p.ready = false ∧ p.wave.uid = w.uid ∧ p.frameVa = (s.launch w.launch).areaOf w
        ∧ (s.watches = [] → ∀ j, j ≠ k → t.wave j = s.wave j))
    ∧ (∀ n (place : WavePlace) p, let q := s.queue p.die (s.launch p.launch).queue
      s.parked.find n = some p → p.ready = true → q.mapped.isSome = true →
      (s.contCores p).contains place.core = true → s.roomFor place p.wave.width p.wave.budget = true →
      s.betterFits p.die (s.offerRank p.launch q.slot) = false →
      ∃ t w, exec (.continuationResume n place) s = .next t ∧ t.parked.find n = none ∧ t.waves.find (16 * place.core + place.slot) = some w
        ∧ w.uid = p.wave.uid ∧ w.base = place.base ∧ w.launch = p.wave.launch ∧ w.admitted = s.clock
        ∧ ∀ j, j ≠ 16 * place.core + place.slot → t.wave j = s.wave j)
    ∧ (∀ n, (s.launch n).phase = .running → (s.launch n).doneAt.isSome = true → ∃ t, exec (.doneTakeEffect n) s = .next t
        ∧ (t.launch n).phase = .ended ∧ (t.launch n).request = none)
    ∧ (∀ n, (s.launch n).phase = .ended → (s.launches.find n).isSome = true → s.copiesOf n = false → s.outsOf n = false →
      s.canFlush (s.launch n).die = true → s.watches = [] →
      ∃ t, exec (.launchComplete n) s = .next t ∧ (t.launch n).phase = .completing ∧ (t.die (s.launch n).die).pend = [])
    ∧ (∀ n, let l := s.launch n
      l.phase = .completing → l.rcd.join = 0 → s.ringHasRoom l.die l.queue = true → (s.queue l.die l.queue).cplTail + 1 < 2 ^ 64 →
      ∃ t, exec (.completionWrite n) s = .next t ∧ t.launches.find n = none
        ∧ (t.queue l.die l.queue).cplTail = (s.queue l.die l.queue).cplTail + 1
        ∧ (s.ownsTimeline l.die (s.queue l.die l.queue).cplTl l.space.ctx = true →
            (s.queue l.die l.queue).cplTail + 1 ≤ t.timeline l.die (s.queue l.die l.queue).cplTl))
    ∧ (∀ d (v : BitVec 64) n l, v.getLsbD 31 = true → s.launches = [(n, l)] → l.die = d → l.queue = v.toNat % 4096 → l.phase = .running → l.idem = true →
      l.rcd.iso = false → s.insideRegion n = true → ∃ t, exec (.preemptWrite d v) s = .next t ∧ (t.launch n).request = some (l.request.getD s.ref)
        ∧ t.waves = s.waves)
    ∧ (∀ d (v : BitVec 64) n l, v.getLsbD 31 = true → s.launches = [(n, l)] → l.die = d → l.queue = v.toNat % 4096 → l.phase = .running → l.idem = true →
      l.rcd.iso = false → s.insideRegion n = false → ∃ t, exec (.preemptWrite d v) s = .next t ∧ t.launches.find n = none
        ∧ (∀ w ∈ t.waves, w.2.launch ≠ n) ∧ (∀ w ∈ t.parked, w.2.launch ≠ n) ∧ (t.die d).discards = (s.die d).discards + 1
        ∧ (t.queue d l.queue).requeued = (s.queue d l.queue).requeued ++ [(l.pos, l.recPa)]
        ∧ (s.structs = [] → t.viewNat d (l.recPa + 0x22) 2 = min 65535 (s.viewNat d (l.recPa + 0x22) 2 + 1)))
    ∧ (∀ d n level, level < 8 → s.starving d level = true → s.selectable d level = [n] → s.insideRegion n = true →
      ∃ t, exec (.preemptSelect d n) s = .next t ∧ (t.launch n).request = some ((s.launch n).request.getD s.ref) ∧ t.waves = s.waves)
    ∧ (∀ n t₀, let l := s.launch n
      let limit := (s.queue l.die l.queue).pmaskMax
      l.request = some t₀ → l.timedOut = false → t₀ + 100 * (if limit = 0 then 1000 else limit) < s.ref →
      ∃ t, exec (.pmaskTimeout n) s = .next t ∧ (t.launch n).timedOut = true
        ∧ ∀ k w p, s.waves.find k = some w → w.launch = n → w.pmask ≠ 0 → p < w.threads.length → (w.thread p).ended = false →
          (Cause.timeout, (0 : Word)) ∈ ((t.wave k).thread p).noted)
    ∧ (∀ k r, s.heldRecs[k]? = some r → exec (.springRetry k) s = exec (.remapTick r.die) s)
    ∧ ∀ d r n got z, s.heldRecs = [r] → r.die = d → r.spring = some n →
      ((s.die d).lastTick + 2000 > s.ref → exec (.remapTick d) s = .next s)
      ∧ ((s.die d).lastTick + 2000 ≤ s.ref →
        ((s.modDie d fun x => { x with lastTick := s.ref }).remap d).enqueue d r.queue r.bytes = (got, z) →
        ∃ t, exec (.remapTick d) s = .next t
          ∧ (got = none → t.heldRecs = [r])
          ∧ ∀ slot, got = some slot → t.heldRecs = [] ∧ t.dies = z.dies
            ∧ ∀ x, s.springs.find n = some x → t.springs.find n = some { x with recPa := some slot })

/-- Frames (R372 to R374, R377 to R379, R382): a store to GFXFRAME gives a die its descriptor, or FAULT for one that breaks a rule; the cursor and the watermarks
move; a region consumes the packet that is next, whose accesses find their translations; the atlas walk follows the last region. What releases waits until the
die's stores can be delivered. -/
def Claim.FrameSteps : Prop :=
  ∀ (s : State) (d : Nat),
    let g := (s.die d).gfx
    (∀ v : BitVec 64, v.getLsbD 0 = true → g.st ≠ .run → (s.kindOf d = .geometry ∨ s.kindOf d = .shading) →
      let f := parseFrame (s.viewBytes d (v.toNat / 2 ^ 7 % 2 ^ 45 * 128) 128)
      ∃ t, exec (.frameStart d v) s = .next t ∧ (t.die d).gfx.desc = f ∧ (t.die d).gfx.st ≠ .idle ∧ (f.ok = false → (t.die d).gfx.st = .fault))
    ∧ (g.st = .run → s.kindOf d = .geometry → s.canFlush d = true → ∃ t, exec (.packetForward d) s = .next t ∧ (t.die d).gfx.cursor = s.nextSeq d g g.cursor
      ∧ ∀ p ∈ (t.die d).gfx.reorder, s.nextSeq d g g.cursor ≤ p.seq)
    ∧ (∀ e, s.kindOf d = .geometry → s.kindOf e = .shading → (g.st = .run ∨ g.st = .done) → g.key = (s.die e).gfx.key →
      ∃ t, exec (.watermarkUpdate d e) s = .next t ∧ (t.die e).gfx.wmark.get 0 d = g.cursor)
    ∧ (∀ r p z z', let retires := p.left.all (· == r)
      g.st = .run → r ∈ g.owned → r ∉ g.stopped → s.packets = [p] → s.nextPacket d r = some p → (retires = true → s.canFlush d = true) →
      s.unmapped d g.space ((g.desc.firstEntry p r).toList.map fun va => (va, 16)) = (none, z) →
      z.unmapped d g.space (if retires then g.desc.counters p else []) = (none, z') →
      (∀ va, g.desc.firstEntry p r = some va → ∃ m y, z'.translateRange d g.space (fun _ => true) va 16 = (.ok m, y)) →
      ∃ t, exec (.packetConsume d r) s = .next t ∧ (retires = true → t.packets = [])
        ∧ ∀ x ∈ t.packets, x.seq = p.seq ∧ x.left = p.left.filter (· != r))
    ∧ (∀ r, s.kindOf d = .shading → g.st = .run → g.walked = false → g.stopped = [] → g.owned.all (s.regionDone d) = true → s.canFlush d = true →
      s.atlasWalk d g g.owned = (.ok (), r) → ∃ t, exec (.atlasRequestWalk d) s = .next t ∧ (t.die d).gfx.walked = true)

/-- The graphics pipeline: its instructions and its steps. -/
def Obligations.Graphics : Prop := Claim.Emission ∧ Claim.AtlasInstructions ∧ Claim.FrameSteps

/-! ### The module and its links -/

/-- Boot, power and sensors (R203, R393 to R400, R403): what a boot finds and leaves, and the bank it runs; what a cut and a loss of supply keep, REASON, the
power rule and the sensors. (What becomes of the reason and the log, the median and the order of restoration are log 43; when a change comes and that the
turn passes, log 16; how an image verifies, log 17.) -/
def Claim.PowerSteps : Prop :=
  ∀ (s : State),
    (∀ mix new figs bank, s.weir.bootBank new = some bank → ∃ t, exec (.moduleBoot mix new figs) s = .next t ∧ t.weir.ready = mixOk mix
      ∧ t.weir.runA = bank ∧ t.weir.dmt = mix ∧ t.mem = [] ∧ t.waves = [] ∧ t.clock = 0 ∧ t.weir.mhz = 2250 ∧ t.weir.boots = s.weir.boots + 1
      ∧ t.outside = s.outside ∧ t.poison = [])
    ∧ (∀ mix new figs, s.weir.bootBank new = none → ∃ t, exec (.moduleBoot mix new figs) s = .next t ∧ t.weir.ready = false
      ∧ t.weir.reason.getLsbD 3 = true ∧ t.waves = [])
    ∧ (∀ new, s.weir.bankA ≠ [] → s.weir.bankB ≠ [] → (s.weir.bootBank new = none ↔ Config.verifyImage s.weir.bankA ≠ 2 ∧ Config.verifyImage s.weir.bankB ≠ 2)
      ∧ (s.weir.bootBank new = some true → Config.verifyImage s.weir.bankA = 2) ∧ (s.weir.bootBank new = some false → Config.verifyImage s.weir.bankB = 2))
    ∧ (∀ d, d < 16 → s.kindOf d ≠ .absent → s.weir.powered = true → ∃ t, exec (.thermalCut d) s = .next t ∧ t.weir.powered = false
      ∧ t.weir.reason.extractLsb' 8 4 = BitVec.ofNat 4 d ∧ t.weir.reason.getLsbD 1 = true ∧ t.waves = [] ∧ t.mem = [] ∧ t.outside = s.outside)
    ∧ (∀ alwaysOn, ∃ t, exec (.supplyLoss alwaysOn) s = .next t ∧ t.weir.powered = false ∧ t.mem = [] ∧ t.waves = []
      ∧ t.weir.reason = (if alwaysOn then 0 else s.weir.reason) ∧ t.weir.log = (if alwaysOn then [] else s.weir.log))
    ∧ (∀ v : BitVec 64, ∃ t, exec (.reasonClear v) s = .next t
      ∧ ∀ k, k < 12 → t.weir.reason.getLsbD k = (s.weir.reason.getLsbD k && !v.getLsbD k))
    ∧ (∀ w, ∃ t, exec (.powerSample w .none) s = .next t
      ∧ t.weir.overPower = (if 1800 < w then true else if w < 1760 then false else s.weir.overPower)
      ∧ t.weir.lowSince = (if w < 1700 then some (s.weir.lowSince.getD s.ref) else none) ∧ t.weir.rate = s.weir.rate ∧ t.weir.tgt = s.weir.tgt)
    ∧ (∀ w d c v, 1800 < w → s.weir.capped = [] → 48 ≤ v → v < s.rate (16 * d + c) → s.freeClusters.contains (16 * d + c) = true →
      ∃ t, exec (.powerSample w (.rate d c v)) s = .next t ∧ t.rate (16 * d + c) = v ∧ t.weir.capped = [.rate d c (s.rate (16 * d + c))])
    ∧ (∀ w v, 1800 < w → s.turnPast 1 = true → s.turnPast 2 = true → 900 ≤ v → v < s.weir.tgt → v ≤ 2250 → v % 75 = 0 → s.weir.switchAt = none →
      ∃ t, exec (.powerSample w (.mhz v)) s = .next t ∧ t.weir.tgt = v ∧ t.weir.mhz = s.weir.mhz
        ∧ ∃ n, t.weir.switchAt = some n ∧ n % 65536 = 0 ∧ s.clock + 4096 ≤ n ∧ n < s.clock + 4096 + 65536)
    ∧ (∀ r : SensorReading, r.idx = 2 → ∃ t, exec (.sensorSample [r]) s = .next t
      ∧ ((s.sensor (sensorKey r.region 2)).failed = false → (s.sensor (sensorKey r.region 2)).raw ≠ r.raw → 0 ≤ r.value → r.value ≤ 12000 →
          (t.sensor (sensorKey r.region 2)).value = r.value ∧ (t.sensor (sensorKey r.region 2)).failed = false)
      ∧ ((r.value < 0 ∨ 12000 < r.value) → (t.sensor (sensorKey r.region 2)).failed = true))
    ∧ ∀ cl, exec (.byteBudgetInterval cl) s = .next s

/-- Snapshots and the mailbox (R393, R402, R403, R405): the control bits, triggers and the latch 256 clk after one, and what each command does when the MC
executes it. (What SNAPREAD and an unknown command answer is log 43; SM3 is log 59, what LOG returns log 17.) -/
def Claim.ManagementSteps : Prop :=
  ∀ (s : State),
    let w := s.weir
    let triggered : Option (Nat × Nat) → Nat → Option (Nat × Nat) := fun old source =>
      if w.arm = true ∧ w.heldSnap = false ∧ old = none then some (s.clock + 256, source) else old
    (∀ v : BitVec 64, v.getLsbD 16 = false → ∀ i, (i = .snapArm v ∨ i = .snapFire v) → ∃ t, exec i s = .next t ∧ t.weir.arm = v.getLsbD 0
      ∧ t.weir.trapen = v.getLsbD 2 ∧ t.weir.imm = v.extractLsb' 8 8 ∧ t.weir.heldSnap = (w.heldSnap && !v.getLsbD 0) ∧ t.weir.trigger = w.trigger)
    ∧ (∀ v : BitVec 64, v.getLsbD 0 = true → v.getLsbD 16 = true → w.trigger = none → ∃ t, exec (.snapFire v) s = .next t
      ∧ t.weir.trigger = some (s.clock + 256, 1))
    ∧ (∃ t, exec .snapPin s = .next t ∧ t.weir.trigger = triggered w.trigger 2)
    ∧ (∀ n source, w.trigger = some (n, source) → n ≤ s.clock → ∃ t, exec .snapLatch s = .next t ∧ t.weir.trigger = none ∧ t.weir.heldSnap = true
      ∧ t.weir.snapclk = word n ∧ field t.weir.image 0 4 = 0x53584E50 ∧ field t.weir.image 8 8 = n % 2 ^ 64 ∧ t.waves = s.waves ∧ t.mem = s.mem)
    ∧ (∀ a, w.mbRun = some (1, a) → ∃ t, exec .mbLog s = .next t ∧ t.weir.mbRun = none ∧ t.weir.mbcode = 2
      ∧ t.weir.mblen = word (min 4096 (Config.logLen ((w.log.map LogEntry.nums).drop a.toNat) a.toNat)))
    ∧ (∀ a : Word64, w.mbRun = some (2, a) →
      (a.toNat / 2 ^ 48 = 0 → 1 ≤ a.toNat / 2 ^ 32 % 2 ^ 16 → a.toNat / 2 ^ 32 % 2 ^ 16 ≤ 4096 → ∃ t, exec .mbStage s = .next t
        ∧ t.weir.mbRun = none ∧ t.weir.mbcode = 2 ∧ t.weir.runA = w.runA
        ∧ ∀ k, k < a.toNat / 2 ^ 32 % 2 ^ 16 → t.weir.spare.find (a.toNat % 2 ^ 32 + k) = some (w.buf.get 0 k))
      ∧ ((a.toNat / 2 ^ 48 ≠ 0 ∨ a.toNat / 2 ^ 32 % 2 ^ 16 = 0 ∨ 4096 < a.toNat / 2 ^ 32 % 2 ^ 16) →
        ∃ t, exec .mbStage s = .next t ∧ t.weir.mbRun = none ∧ t.weir.mbcode = 3 ∧ t.weir.spare = w.spare))
    ∧ (∀ a, w.mbRun = some (3, a) → ∃ t, exec .mbActivate s = .next t ∧ t.weir.mbRun = none
      ∧ t.weir.mbcode = (if Config.verifyImage w.spare = 2 then 2 else if Config.verifyImage w.spare = 5 then 5 else 4)
      ∧ t.weir.activate = (w.activate || decide (Config.verifyImage w.spare = 2)))
    ∧ (∀ a, w.mbRun = some (4, a) → ∃ t, exec .mbAttest s = .next t ∧ t.weir.mbRun = none ∧ t.weir.mbcode = 2
      ∧ leNat (t.bufBytes 0 4) = 0x54534C48 ∧ t.bufBytes 8 32 = slice w.nonce 0 32
      ∧ t.bufBytes 0x48 32 = Sm3.hash (((List.range 16).flatMap fun d => leBytes (s.dmtEntry d) 8) ++ leBytes s.bootWord 8))
    ∧ (∀ a, w.mbRun = some (5, a) → ∃ t, exec .mbSnapread s = .next t ∧ t.weir.mbRun = none ∧ t.weir.mbcode = 2
      ∧ t.weir.mblen = word (min 4096 ((if w.heldSnap then w.image else []).length - a.toNat))
      ∧ (w.heldSnap = true → ∀ k, k < 4096 → t.weir.buf.get 0 k = w.image.getD (a.toNat + k) 0))
    ∧ (∀ a, w.mbRun = some (6, a) → ∃ t, exec .mbCert s = .next t ∧ t.weir.mbRun = none ∧ t.weir.mbcode = 2)

/-- The module: boot, power, sensors, snapshots and the mailbox. -/
def Obligations.Module : Prop := Claim.PowerSteps ∧ Claim.ManagementSteps

/-- Links, the host and errors in storage (R141, R239, R350, R424 to R426, R429, R430): flits and training, abandoned accesses, reads and writes of the host,
stores to control space, and what an error does. (The header of a packet, which flits count and when a packet counts as delivered are logs 18 and 45; where
an error strikes and who meets it is log 20.) -/
def Obligations.LinkAndHostSteps : Prop :=
  ∀ (s : State),
    (∀ p (f : List Byte), let q := s.port p
      p < 18 → q.st = 2 → f.length = 256 →
      (flitCrcOk f = false → ∃ t, exec (.flitReceive p f) s = .next t ∧ (t.port p).crcErr = q.crcErr + 1 ∧ (t.port p).nakOut = q.nakOut ++ [q.expect]
        ∧ (t.port p).expect = q.expect)
      ∧ (flitCrcOk f = true → flitKind f = 2 → ∃ t, exec (.flitReceive p f) s = .next t ∧ (t.port p).replays = q.replays + 1 ∧ (t.port p).expect = q.expect
        ∧ t.weir.log = s.weir.log ++ [.replay p] ∧ (t.port p).kept = q.kept.filter (fun x => 32768 ≤ (flitAck f - 1 - x.1).toNat)
        ∧ (t.port p).streak = if q.failing = some (flitAck f) ∧ (q.kept.any fun x => x.1 == flitAck f) = true then q.streak + 1 else 0)
      ∧ (flitCrcOk f = true → 2 < flitKind f → exec (.flitReceive p f) s = .next s)
      ∧ (flitCrcOk f = true → flitKind f < 2 → flitSeq f ≠ q.expect → ∃ t, exec (.flitReceive p f) s = .next t ∧ (t.port p).nakOut = q.nakOut ++ [q.expect]
        ∧ (t.port p).expect = q.expect)
      ∧ (flitCrcOk f = true → flitKind f = 1 → flitSeq f = q.expect → ∃ t, exec (.flitReceive p f) s = .next t ∧ (t.port p).expect = q.expect + 1
        ∧ t.mem = s.mem)
      ∧ ∀ pa first count data rest, flitCrcOk f = true → flitKind f = 0 → flitSeq f = q.expect → s.groupEn = true →
        unpack 512 (q.rx ++ slice f 8 240) = ([.write s.devNo pa first count data], rest) → count ≠ 0 → first + count ≤ data.length →
        pa + first + count ≤ s.deviceBytes → pa + first + count ≤ 2 ^ 51 → s.watches = [] → s.rgnOwner = [] →
        ∃ t, exec (.flitReceive p f) s = .next t ∧ (t.port p).expect = q.expect + 1 ∧ (t.port p).rx = rest
          ∧ ∀ a, t.homeByte a = if pa + first ≤ a ∧ a < pa + first + count then data.getD (a - pa) 0 else s.homeByte a)
    ∧ (∀ p width peer, let q := s.port p
      p < 18 → q.enable = true → q.st ≤ 1 → width ≤ 3 → ∃ t, exec (.portTrain p width peer) s = .next t
        ∧ (width ≠ 0 → (t.port p).st = 2 ∧ (t.port p).width = width ∧ (t.port p).peerDev = peer % 64)
        ∧ (width = 0 → (t.port p).st = (if q.attempts = 2 then 3 else 1) ∧ (t.port p).attempts = q.attempts + 1))
    ∧ (∀ p, ((s.port p).st = 2 ∧ 16 ≤ (s.port p).streak → ∃ t, exec (.portRetrain p) s = .next t ∧ (t.port p).st = 1 ∧ (t.port p).out = []
          ∧ t.weir.log = s.weir.log ++ [.port p])
        ∧ ((s.port p).streak < 16 → exec (.portRetrain p) s = .next s))
    ∧ (∀ n o, s.outs.find n = some o →
      (s.lateAccess n o = true → o.to_ = .threads → (s.wave o.wave).uid ≠ o.uid → ∃ t, exec (.remoteAccessTimeout (4 * n)) s = .next t
        ∧ t.outs.find n = none ∧ t.weir.lost = s.weir.lost + 1)
      ∧ (∀ w, s.lateAccess n o = true → o.to_ = .unit → s.waves.find o.wave = some w → w.uid = o.uid →
        ∃ t, exec (.remoteAccessTimeout (4 * n)) s = .next t ∧ t.outs.find n = none ∧ t.weir.lost = s.weir.lost + 1
          ∧ (t.wave o.wave).answers.find o.addr = some none)
      ∧ (s.overdue o.since = false → exec (.remoteAccessTimeout (4 * n)) s = .next s))
    ∧ (∀ d i e o, d < 16 → (s.die d).pend[i]? = some e → e.out = some o →
      (s.overdue o.since = true → 64 < e.agent → ∃ t, exec (.remoteAccessTimeout (4 * (d + 16 * i) + 1)) s = .next t ∧ t.weir.lost = s.weir.lost + 1
        ∧ (t.die d).pend = (s.die d).pend.filter (· != e)
        ∧ ∃ r, (t.die d).faults = (s.die d).faults ++ [r] ∧ r.va = o.va ∧ r.code = 4 ∧ r.kind = .write ∧ r.asid = o.asid)
      ∧ (s.overdue o.since = false → exec (.remoteAccessTimeout (4 * (d + 16 * i) + 1)) s = .next s))
    ∧ (∀ pa (data : List Byte), data ≠ [] → data.length ≤ 512 → pa + data.length ≤ s.deviceBytes → pa < 2 ^ 40 → s.watches = [] → s.rgnOwner = [] →
      let off := s.devNo * 2 ^ 40 + pa
      (s.bridges = true → ∃ t, exec (.hostWrite 2 off data) s = .next t
        ∧ ∀ a, t.homeByte a = if pa ≤ a ∧ a < pa + data.length then data.getD (a - pa) 0 else s.homeByte a)
      ∧ (s.bridges = true → ∃ t, exec (.hostRead 2 off data.length) s = .next t ∧ t.hostReads = s.hostReads ++ [(upFrom pa data.length).map s.homeByte]
          ∧ t.mem = s.mem)
      ∧ (s.bridges = false → exec (.hostWrite 2 off data) s = .next s ∧ exec (.hostRead 2 off data.length) s = .next s))
    ∧ (∀ n o data, s.outs.find n = some o → s.inHost o.addr o.size = true → data.length = o.size → s.isBehind n = false → o.op = .load → o.to_ = .threads →
      ∃ t, exec (.pcieCompletion n data) s = .next t ∧ t.outs.find n = none ∧ t.mem = s.mem)
    ∧ (∀ d (v : BitVec 64), d < 16 → s.kindOf d = .shading → s.regionOf (2 ^ 40 + d * 2 ^ 24) = .control →
      (∃ t, exec (.registerWrite (2 ^ 40 + d * 2 ^ 24) v) s = .next t ∧ t.controlRead (2 ^ 40 + d * 2 ^ 24) = v.toNat / 2 ^ 16 % 2 ^ 41 * 2 ^ 16)
      ∧ ∃ t, exec (.registerWrite (2 ^ 40 + d * 2 ^ 24 + 0x30) v) s = .next t ∧ t.controlRead (2 ^ 40 + d * 2 ^ 24 + 0x30) = v.toNat)
    ∧ (∀ site, s.latent.contains site = false → ∃ t, exec (.eccError site false) s = .next t ∧ t.latent = site :: s.latent
        ∧ t.waves = s.waves ∧ t.mem = s.mem)
    ∧ (∀ site, s.latent.contains site = true → ∃ t, exec (.eccScrub site) s = .next t ∧ site ∉ t.latent ∧ t.waves = s.waves ∧ t.mem = s.mem)
    ∧ (∀ c off, ∃ t, exec (.eccError (.tarnWord c off) true) s = .next t ∧ off / 4 ∈ (t.core c).tarnBad ∧ t.waves = s.waves)
    ∧ ∀ pa, s.regionOf pa = .device → ∃ t, exec (.memoryPatrolScrub [pa]) s = .next t ∧ (∀ k, k < 8 → pa / 128 * 8 + k ∈ t.poison) ∧ t.mem = s.mem

/-! ### Invariants of every step -/

/-- Every step keeps memory's canonical form, whatever it runs: strictly rising addresses, and no byte listed that reads as an unwritten one does. So equal
memories are equal data after any run. (The form is the model's own; that unwritten memory reads 0 is R394's.) -/
def Obligations.MemoryStaysCanonical : Prop :=
  ∀ (s t : State), Memory.wf s.mem = true → step s = .next t → Memory.wf t.mem = true

/-- Every step keeps the keys of the waves, of each core's copy tags and of each cluster's gates rising, so that no wave stands in two slots and no tag or
gate has two states (R127, R138, R205): no key occurs twice in these tables. (The tables are the model's own form.) -/
def Obligations.KeysStayDistinct : Prop :=
  (∀ (s t : State), s.keysRise → step s = .next t → t.keysRise)
  ∧ ∀ (s : State), s.keysRise → (s.waves.map Prod.fst).Nodup ∧ (∀ c, ((s.core c).tags.map Prod.fst).Nodup)
      ∧ ∀ cl, ((s.cluster cl).gates.map Prod.fst).Nodup
end

