-- ==== Sys2Proof/Laws/Tab.lean ====
section
/-! SUPPORT. Laws of the sparse tables, of the list helpers, and of bytes of a number. -/

namespace Sys2Proof

@[simp] theorem Tab.find_nil {α : Type} (k : Nat) : Tab.find ([] : Tab α) k = none := rfl

@[simp] theorem Tab.find_put_same {α : Type} (t : Tab α) (k : Nat) (a : α) : Tab.find (Tab.put t k a) k = some a := by
  induction t with
  | nil => simp [Tab.put, Tab.find]
  | cons x t ih =>
    obtain ⟨j, b⟩ := x
    simp only [Tab.put]
    split
    · simp [Tab.find]
    · split
      · simp [Tab.find]
      · simp_all [Tab.find]

theorem Tab.find_put_other {α : Type} (t : Tab α) (k k' : Nat) (a : α) (h : k' ≠ k) :
    Tab.find (Tab.put t k a) k' = Tab.find t k' := by
  induction t with
  | nil => simp [Tab.put, Tab.find, Ne.symm h]
  | cons x t ih =>
    obtain ⟨j, b⟩ := x
    simp only [Tab.put]
    split
    · simp [Tab.find, Ne.symm h]
    · split
      · subst_vars; simp [Tab.find, Ne.symm h]
      · simp [Tab.find, ih]

@[simp] theorem Tab.find_del_same {α : Type} (t : Tab α) (k : Nat) : Tab.find (Tab.del t k) k = none := by
  induction t with
  | nil => rfl
  | cons x t ih =>
    obtain ⟨j, b⟩ := x
    simp only [Tab.del]
    split <;> simp_all [Tab.find]

theorem Tab.find_del_other {α : Type} (t : Tab α) (k k' : Nat) (h : k' ≠ k) : Tab.find (Tab.del t k) k' = Tab.find t k' := by
  induction t with
  | nil => rfl
  | cons x t ih =>
    obtain ⟨j, b⟩ := x
    simp only [Tab.del]
    split
    · subst_vars; simp [Tab.find, ih, Ne.symm h]
    · simp [Tab.find, ih]

@[simp] theorem Tab.get_put_same {α : Type} (t : Tab α) (d : α) (k : Nat) (a : α) : Tab.get (Tab.put t k a) d k = a := by simp [Tab.get]

theorem Tab.get_put_other {α : Type} (t : Tab α) (d : α) (k k' : Nat) (a : α) (h : k' ≠ k) :
    Tab.get (Tab.put t k a) d k' = Tab.get t d k' := by simp [Tab.get, Tab.find_put_other t k k' a h]

@[simp] theorem Tab.get_putD_same {α : Type} [DecidableEq α] (t : Tab α) (d : α) (k : Nat) (a : α) :
    Tab.get (Tab.putD t d k a) d k = a := by
  unfold Tab.putD
  split
  · simp_all [Tab.get]
  · simp

theorem Tab.get_putD_other {α : Type} [DecidableEq α] (t : Tab α) (d : α) (k k' : Nat) (a : α) (h : k' ≠ k) :
    Tab.get (Tab.putD t d k a) d k' = Tab.get t d k' := by
  unfold Tab.putD
  split
  · simp [Tab.get, Tab.find_del_other t k k' h]
  · exact Tab.get_put_other t d k k' a h

/-! ### Lists by position -/

@[simp] theorem listSet_length {α : Type} (l : List α) (n : Nat) (a : α) : (listSet l n a).length = l.length := by
  induction l generalizing n with
  | nil => rfl
  | cons b t ih => cases n <;> simp [listSet, ih]

theorem listSet_getD_same {α : Type} (l : List α) (n : Nat) (a d : α) (h : n < l.length) : (listSet l n a).getD n d = a := by
  induction l generalizing n with
  | nil => simp at h
  | cons b t ih =>
    cases n with
    | zero => rfl
    | succ n => simpa [listSet] using ih n (by simpa using h)

theorem listSet_getD_other {α : Type} (l : List α) (n m : Nat) (a d : α) (h : m ≠ n) : (listSet l n a).getD m d = l.getD m d := by
  induction l generalizing n m with
  | nil => rfl
  | cons b t ih =>
    cases n with
    | zero => cases m with
      | zero => exact absurd rfl h
      | succ m => rfl
    | succ n => cases m with
      | zero => rfl
      | succ m => simpa [listSet] using ih n m (by omega)

@[simp] theorem upFrom_length (a n : Nat) : (upFrom a n).length = n := by
  induction n generalizing a with
  | zero => rfl
  | succ n ih => simp [upFrom, ih]

theorem mem_upFrom (a n x : Nat) : x ∈ upFrom a n ↔ a ≤ x ∧ x < a + n := by
  induction n generalizing a with
  | zero => simp [upFrom]
  | succ n ih => simp [upFrom, ih]; omega

/-! ### Bytes of numbers -/

@[simp] theorem leBytes_length (n len : Nat) : (leBytes n len).length = len := by
  induction len generalizing n with
  | zero => rfl
  | succ k ih => simp [leBytes, ih]

theorem leNat_leBytes (n len : Nat) : leNat (leBytes n len) = n % 256 ^ len := by
  induction len generalizing n with
  | zero => simp [leBytes, leNat, Nat.mod_one]
  | succ k ih =>
    have h : n % 256 ^ (k + 1) = n % 256 + 256 * (n / 256 % 256 ^ k) := by rw [pow_succ', Nat.mod_mul]
    rw [h, leBytes, leNat, ih]
    rfl

end Sys2Proof
end

