-- ==== Sys2Proof/Laws/State.lean ====
section
/-! SUPPORT. What each update of State leaves: one law per field. -/

namespace Sys2Proof.Machine

open Sys2Proof

/-! ### setDie -/

@[simp] theorem State.setDie_clock (s : State) (d : Nat) (x : Die) : (s.setDie d x).clock = s.clock := rfl
@[simp] theorem State.setDie_refPhase (s : State) (d : Nat) (x : Die) : (s.setDie d x).refPhase = s.refPhase := rfl
@[simp] theorem State.setDie_ref (s : State) (d : Nat) (x : Die) : (s.setDie d x).ref = s.ref := rfl
@[simp] theorem State.setDie_mem (s : State) (d : Nat) (x : Die) : (s.setDie d x).mem = s.mem := rfl
@[simp] theorem State.setDie_poison (s : State) (d : Nat) (x : Die) : (s.setDie d x).poison = s.poison := rfl
@[simp] theorem State.setDie_outside (s : State) (d : Nat) (x : Die) : (s.setDie d x).outside = s.outside := rfl
@[simp] theorem State.setDie_ver (s : State) (d : Nat) (x : Die) : (s.setDie d x).ver = s.ver := rfl
@[simp] theorem State.setDie_rgnOwner (s : State) (d : Nat) (x : Die) : (s.setDie d x).rgnOwner = s.rgnOwner := rfl
@[simp] theorem State.setDie_surfaces (s : State) (d : Nat) (x : Die) : (s.setDie d x).surfaces = s.surfaces := rfl
@[simp] theorem State.setDie_sems (s : State) (d : Nat) (x : Die) : (s.setDie d x).sems = s.sems := rfl
@[simp] theorem State.setDie_watches (s : State) (d : Nat) (x : Die) : (s.setDie d x).watches = s.watches := rfl
@[simp] theorem State.setDie_springs (s : State) (d : Nat) (x : Die) : (s.setDie d x).springs = s.springs := rfl
@[simp] theorem State.setDie_heldRecs (s : State) (d : Nat) (x : Die) : (s.setDie d x).heldRecs = s.heldRecs := rfl
@[simp] theorem State.setDie_packets (s : State) (d : Nat) (x : Die) : (s.setDie d x).packets = s.packets := rfl
@[simp] theorem State.setDie_basins (s : State) (d : Nat) (x : Die) : (s.setDie d x).basins = s.basins := rfl
@[simp] theorem State.setDie_clusters (s : State) (d : Nat) (x : Die) : (s.setDie d x).clusters = s.clusters := rfl
@[simp] theorem State.setDie_cores (s : State) (d : Nat) (x : Die) : (s.setDie d x).cores = s.cores := rfl
@[simp] theorem State.setDie_waves (s : State) (d : Nat) (x : Die) : (s.setDie d x).waves = s.waves := rfl
@[simp] theorem State.setDie_teams (s : State) (d : Nat) (x : Die) : (s.setDie d x).teams = s.teams := rfl
@[simp] theorem State.setDie_launches (s : State) (d : Nat) (x : Die) : (s.setDie d x).launches = s.launches := rfl
@[simp] theorem State.setDie_parked (s : State) (d : Nat) (x : Die) : (s.setDie d x).parked = s.parked := rfl
@[simp] theorem State.setDie_structs (s : State) (d : Nat) (x : Die) : (s.setDie d x).structs = s.structs := rfl
@[simp] theorem State.setDie_queries (s : State) (d : Nat) (x : Die) : (s.setDie d x).queries = s.queries := rfl
@[simp] theorem State.setDie_outs (s : State) (d : Nat) (x : Die) : (s.setDie d x).outs = s.outs := rfl
@[simp] theorem State.setDie_delayed (s : State) (d : Nat) (x : Die) : (s.setDie d x).delayed = s.delayed := rfl
@[simp] theorem State.setDie_weir (s : State) (d : Nat) (x : Die) : (s.setDie d x).weir = s.weir := rfl
@[simp] theorem State.setDie_latent (s : State) (d : Nat) (x : Die) : (s.setDie d x).latent = s.latent := rfl
@[simp] theorem State.setDie_msix (s : State) (d : Nat) (x : Die) : (s.setDie d x).msix = s.msix := rfl
@[simp] theorem State.setDie_hostReads (s : State) (d : Nat) (x : Die) : (s.setDie d x).hostReads = s.hostReads := rfl
@[simp] theorem State.setDie_agenda (s : State) (d : Nat) (x : Die) : (s.setDie d x).agenda = s.agenda := rfl
@[simp] theorem State.setDie_cur (s : State) (d : Nat) (x : Die) : (s.setDie d x).cur = s.cur := rfl
@[simp] theorem State.setDie_freeCtr (s : State) (d : Nat) (x : Die) : (s.setDie d x).freeCtr = s.freeCtr := rfl
@[simp] theorem State.setDie_nextId (s : State) (d : Nat) (x : Die) : (s.setDie d x).nextId = s.nextId := rfl

/-! ### modDie -/

@[simp] theorem State.modDie_clock (s : State) (d : Nat) (f : Die → Die) : (s.modDie d f).clock = s.clock := rfl
@[simp] theorem State.modDie_refPhase (s : State) (d : Nat) (f : Die → Die) : (s.modDie d f).refPhase = s.refPhase := rfl
@[simp] theorem State.modDie_ref (s : State) (d : Nat) (f : Die → Die) : (s.modDie d f).ref = s.ref := rfl
@[simp] theorem State.modDie_mem (s : State) (d : Nat) (f : Die → Die) : (s.modDie d f).mem = s.mem := rfl
@[simp] theorem State.modDie_poison (s : State) (d : Nat) (f : Die → Die) : (s.modDie d f).poison = s.poison := rfl
@[simp] theorem State.modDie_outside (s : State) (d : Nat) (f : Die → Die) : (s.modDie d f).outside = s.outside := rfl
@[simp] theorem State.modDie_ver (s : State) (d : Nat) (f : Die → Die) : (s.modDie d f).ver = s.ver := rfl
@[simp] theorem State.modDie_rgnOwner (s : State) (d : Nat) (f : Die → Die) : (s.modDie d f).rgnOwner = s.rgnOwner := rfl
@[simp] theorem State.modDie_surfaces (s : State) (d : Nat) (f : Die → Die) : (s.modDie d f).surfaces = s.surfaces := rfl
@[simp] theorem State.modDie_sems (s : State) (d : Nat) (f : Die → Die) : (s.modDie d f).sems = s.sems := rfl
@[simp] theorem State.modDie_watches (s : State) (d : Nat) (f : Die → Die) : (s.modDie d f).watches = s.watches := rfl
@[simp] theorem State.modDie_springs (s : State) (d : Nat) (f : Die → Die) : (s.modDie d f).springs = s.springs := rfl
@[simp] theorem State.modDie_heldRecs (s : State) (d : Nat) (f : Die → Die) : (s.modDie d f).heldRecs = s.heldRecs := rfl
@[simp] theorem State.modDie_packets (s : State) (d : Nat) (f : Die → Die) : (s.modDie d f).packets = s.packets := rfl
@[simp] theorem State.modDie_basins (s : State) (d : Nat) (f : Die → Die) : (s.modDie d f).basins = s.basins := rfl
@[simp] theorem State.modDie_clusters (s : State) (d : Nat) (f : Die → Die) : (s.modDie d f).clusters = s.clusters := rfl
@[simp] theorem State.modDie_cores (s : State) (d : Nat) (f : Die → Die) : (s.modDie d f).cores = s.cores := rfl
@[simp] theorem State.modDie_waves (s : State) (d : Nat) (f : Die → Die) : (s.modDie d f).waves = s.waves := rfl
@[simp] theorem State.modDie_teams (s : State) (d : Nat) (f : Die → Die) : (s.modDie d f).teams = s.teams := rfl
@[simp] theorem State.modDie_launches (s : State) (d : Nat) (f : Die → Die) : (s.modDie d f).launches = s.launches := rfl
@[simp] theorem State.modDie_parked (s : State) (d : Nat) (f : Die → Die) : (s.modDie d f).parked = s.parked := rfl
@[simp] theorem State.modDie_structs (s : State) (d : Nat) (f : Die → Die) : (s.modDie d f).structs = s.structs := rfl
@[simp] theorem State.modDie_queries (s : State) (d : Nat) (f : Die → Die) : (s.modDie d f).queries = s.queries := rfl
@[simp] theorem State.modDie_outs (s : State) (d : Nat) (f : Die → Die) : (s.modDie d f).outs = s.outs := rfl
@[simp] theorem State.modDie_delayed (s : State) (d : Nat) (f : Die → Die) : (s.modDie d f).delayed = s.delayed := rfl
@[simp] theorem State.modDie_weir (s : State) (d : Nat) (f : Die → Die) : (s.modDie d f).weir = s.weir := rfl
@[simp] theorem State.modDie_latent (s : State) (d : Nat) (f : Die → Die) : (s.modDie d f).latent = s.latent := rfl
@[simp] theorem State.modDie_msix (s : State) (d : Nat) (f : Die → Die) : (s.modDie d f).msix = s.msix := rfl
@[simp] theorem State.modDie_hostReads (s : State) (d : Nat) (f : Die → Die) : (s.modDie d f).hostReads = s.hostReads := rfl
@[simp] theorem State.modDie_agenda (s : State) (d : Nat) (f : Die → Die) : (s.modDie d f).agenda = s.agenda := rfl
@[simp] theorem State.modDie_cur (s : State) (d : Nat) (f : Die → Die) : (s.modDie d f).cur = s.cur := rfl
@[simp] theorem State.modDie_freeCtr (s : State) (d : Nat) (f : Die → Die) : (s.modDie d f).freeCtr = s.freeCtr := rfl
@[simp] theorem State.modDie_nextId (s : State) (d : Nat) (f : Die → Die) : (s.modDie d f).nextId = s.nextId := rfl

/-! ### modQueue -/

@[simp] theorem State.modQueue_clock (s : State) (d q : Nat) (f : Queue → Queue) : (s.modQueue d q f).clock = s.clock := rfl
@[simp] theorem State.modQueue_refPhase (s : State) (d q : Nat) (f : Queue → Queue) : (s.modQueue d q f).refPhase = s.refPhase := rfl
@[simp] theorem State.modQueue_ref (s : State) (d q : Nat) (f : Queue → Queue) : (s.modQueue d q f).ref = s.ref := rfl
@[simp] theorem State.modQueue_mem (s : State) (d q : Nat) (f : Queue → Queue) : (s.modQueue d q f).mem = s.mem := rfl
@[simp] theorem State.modQueue_poison (s : State) (d q : Nat) (f : Queue → Queue) : (s.modQueue d q f).poison = s.poison := rfl
@[simp] theorem State.modQueue_outside (s : State) (d q : Nat) (f : Queue → Queue) : (s.modQueue d q f).outside = s.outside := rfl
@[simp] theorem State.modQueue_ver (s : State) (d q : Nat) (f : Queue → Queue) : (s.modQueue d q f).ver = s.ver := rfl
@[simp] theorem State.modQueue_rgnOwner (s : State) (d q : Nat) (f : Queue → Queue) : (s.modQueue d q f).rgnOwner = s.rgnOwner := rfl
@[simp] theorem State.modQueue_surfaces (s : State) (d q : Nat) (f : Queue → Queue) : (s.modQueue d q f).surfaces = s.surfaces := rfl
@[simp] theorem State.modQueue_sems (s : State) (d q : Nat) (f : Queue → Queue) : (s.modQueue d q f).sems = s.sems := rfl
@[simp] theorem State.modQueue_watches (s : State) (d q : Nat) (f : Queue → Queue) : (s.modQueue d q f).watches = s.watches := rfl
@[simp] theorem State.modQueue_springs (s : State) (d q : Nat) (f : Queue → Queue) : (s.modQueue d q f).springs = s.springs := rfl
@[simp] theorem State.modQueue_heldRecs (s : State) (d q : Nat) (f : Queue → Queue) : (s.modQueue d q f).heldRecs = s.heldRecs := rfl
@[simp] theorem State.modQueue_packets (s : State) (d q : Nat) (f : Queue → Queue) : (s.modQueue d q f).packets = s.packets := rfl
@[simp] theorem State.modQueue_basins (s : State) (d q : Nat) (f : Queue → Queue) : (s.modQueue d q f).basins = s.basins := rfl
@[simp] theorem State.modQueue_clusters (s : State) (d q : Nat) (f : Queue → Queue) : (s.modQueue d q f).clusters = s.clusters := rfl
@[simp] theorem State.modQueue_cores (s : State) (d q : Nat) (f : Queue → Queue) : (s.modQueue d q f).cores = s.cores := rfl
@[simp] theorem State.modQueue_waves (s : State) (d q : Nat) (f : Queue → Queue) : (s.modQueue d q f).waves = s.waves := rfl
@[simp] theorem State.modQueue_teams (s : State) (d q : Nat) (f : Queue → Queue) : (s.modQueue d q f).teams = s.teams := rfl
@[simp] theorem State.modQueue_launches (s : State) (d q : Nat) (f : Queue → Queue) : (s.modQueue d q f).launches = s.launches := rfl
@[simp] theorem State.modQueue_parked (s : State) (d q : Nat) (f : Queue → Queue) : (s.modQueue d q f).parked = s.parked := rfl
@[simp] theorem State.modQueue_structs (s : State) (d q : Nat) (f : Queue → Queue) : (s.modQueue d q f).structs = s.structs := rfl
@[simp] theorem State.modQueue_queries (s : State) (d q : Nat) (f : Queue → Queue) : (s.modQueue d q f).queries = s.queries := rfl
@[simp] theorem State.modQueue_outs (s : State) (d q : Nat) (f : Queue → Queue) : (s.modQueue d q f).outs = s.outs := rfl
@[simp] theorem State.modQueue_delayed (s : State) (d q : Nat) (f : Queue → Queue) : (s.modQueue d q f).delayed = s.delayed := rfl
@[simp] theorem State.modQueue_weir (s : State) (d q : Nat) (f : Queue → Queue) : (s.modQueue d q f).weir = s.weir := rfl
@[simp] theorem State.modQueue_latent (s : State) (d q : Nat) (f : Queue → Queue) : (s.modQueue d q f).latent = s.latent := rfl
@[simp] theorem State.modQueue_msix (s : State) (d q : Nat) (f : Queue → Queue) : (s.modQueue d q f).msix = s.msix := rfl
@[simp] theorem State.modQueue_hostReads (s : State) (d q : Nat) (f : Queue → Queue) : (s.modQueue d q f).hostReads = s.hostReads := rfl
@[simp] theorem State.modQueue_agenda (s : State) (d q : Nat) (f : Queue → Queue) : (s.modQueue d q f).agenda = s.agenda := rfl
@[simp] theorem State.modQueue_cur (s : State) (d q : Nat) (f : Queue → Queue) : (s.modQueue d q f).cur = s.cur := rfl
@[simp] theorem State.modQueue_freeCtr (s : State) (d q : Nat) (f : Queue → Queue) : (s.modQueue d q f).freeCtr = s.freeCtr := rfl
@[simp] theorem State.modQueue_nextId (s : State) (d q : Nat) (f : Queue → Queue) : (s.modQueue d q f).nextId = s.nextId := rfl

/-! ### setCluster -/

@[simp] theorem State.setCluster_clock (s : State) (k : Nat) (x : Cluster) : (s.setCluster k x).clock = s.clock := rfl
@[simp] theorem State.setCluster_refPhase (s : State) (k : Nat) (x : Cluster) : (s.setCluster k x).refPhase = s.refPhase := rfl
@[simp] theorem State.setCluster_ref (s : State) (k : Nat) (x : Cluster) : (s.setCluster k x).ref = s.ref := rfl
@[simp] theorem State.setCluster_mem (s : State) (k : Nat) (x : Cluster) : (s.setCluster k x).mem = s.mem := rfl
@[simp] theorem State.setCluster_poison (s : State) (k : Nat) (x : Cluster) : (s.setCluster k x).poison = s.poison := rfl
@[simp] theorem State.setCluster_outside (s : State) (k : Nat) (x : Cluster) : (s.setCluster k x).outside = s.outside := rfl
@[simp] theorem State.setCluster_ver (s : State) (k : Nat) (x : Cluster) : (s.setCluster k x).ver = s.ver := rfl
@[simp] theorem State.setCluster_rgnOwner (s : State) (k : Nat) (x : Cluster) : (s.setCluster k x).rgnOwner = s.rgnOwner := rfl
@[simp] theorem State.setCluster_surfaces (s : State) (k : Nat) (x : Cluster) : (s.setCluster k x).surfaces = s.surfaces := rfl
@[simp] theorem State.setCluster_sems (s : State) (k : Nat) (x : Cluster) : (s.setCluster k x).sems = s.sems := rfl
@[simp] theorem State.setCluster_watches (s : State) (k : Nat) (x : Cluster) : (s.setCluster k x).watches = s.watches := rfl
@[simp] theorem State.setCluster_springs (s : State) (k : Nat) (x : Cluster) : (s.setCluster k x).springs = s.springs := rfl
@[simp] theorem State.setCluster_heldRecs (s : State) (k : Nat) (x : Cluster) : (s.setCluster k x).heldRecs = s.heldRecs := rfl
@[simp] theorem State.setCluster_packets (s : State) (k : Nat) (x : Cluster) : (s.setCluster k x).packets = s.packets := rfl
@[simp] theorem State.setCluster_basins (s : State) (k : Nat) (x : Cluster) : (s.setCluster k x).basins = s.basins := rfl
@[simp] theorem State.setCluster_dies (s : State) (k : Nat) (x : Cluster) : (s.setCluster k x).dies = s.dies := rfl
@[simp] theorem State.setCluster_cores (s : State) (k : Nat) (x : Cluster) : (s.setCluster k x).cores = s.cores := rfl
@[simp] theorem State.setCluster_waves (s : State) (k : Nat) (x : Cluster) : (s.setCluster k x).waves = s.waves := rfl
@[simp] theorem State.setCluster_teams (s : State) (k : Nat) (x : Cluster) : (s.setCluster k x).teams = s.teams := rfl
@[simp] theorem State.setCluster_launches (s : State) (k : Nat) (x : Cluster) : (s.setCluster k x).launches = s.launches := rfl
@[simp] theorem State.setCluster_parked (s : State) (k : Nat) (x : Cluster) : (s.setCluster k x).parked = s.parked := rfl
@[simp] theorem State.setCluster_structs (s : State) (k : Nat) (x : Cluster) : (s.setCluster k x).structs = s.structs := rfl
@[simp] theorem State.setCluster_queries (s : State) (k : Nat) (x : Cluster) : (s.setCluster k x).queries = s.queries := rfl
@[simp] theorem State.setCluster_outs (s : State) (k : Nat) (x : Cluster) : (s.setCluster k x).outs = s.outs := rfl
@[simp] theorem State.setCluster_delayed (s : State) (k : Nat) (x : Cluster) : (s.setCluster k x).delayed = s.delayed := rfl
@[simp] theorem State.setCluster_weir (s : State) (k : Nat) (x : Cluster) : (s.setCluster k x).weir = s.weir := rfl
@[simp] theorem State.setCluster_latent (s : State) (k : Nat) (x : Cluster) : (s.setCluster k x).latent = s.latent := rfl
@[simp] theorem State.setCluster_msix (s : State) (k : Nat) (x : Cluster) : (s.setCluster k x).msix = s.msix := rfl
@[simp] theorem State.setCluster_hostReads (s : State) (k : Nat) (x : Cluster) : (s.setCluster k x).hostReads = s.hostReads := rfl
@[simp] theorem State.setCluster_agenda (s : State) (k : Nat) (x : Cluster) : (s.setCluster k x).agenda = s.agenda := rfl
@[simp] theorem State.setCluster_cur (s : State) (k : Nat) (x : Cluster) : (s.setCluster k x).cur = s.cur := rfl
@[simp] theorem State.setCluster_freeCtr (s : State) (k : Nat) (x : Cluster) : (s.setCluster k x).freeCtr = s.freeCtr := rfl
@[simp] theorem State.setCluster_nextId (s : State) (k : Nat) (x : Cluster) : (s.setCluster k x).nextId = s.nextId := rfl

/-! ### modCluster -/

@[simp] theorem State.modCluster_clock (s : State) (k : Nat) (f : Cluster → Cluster) : (s.modCluster k f).clock = s.clock := rfl
@[simp] theorem State.modCluster_refPhase (s : State) (k : Nat) (f : Cluster → Cluster) : (s.modCluster k f).refPhase = s.refPhase := rfl
@[simp] theorem State.modCluster_ref (s : State) (k : Nat) (f : Cluster → Cluster) : (s.modCluster k f).ref = s.ref := rfl
@[simp] theorem State.modCluster_mem (s : State) (k : Nat) (f : Cluster → Cluster) : (s.modCluster k f).mem = s.mem := rfl
@[simp] theorem State.modCluster_poison (s : State) (k : Nat) (f : Cluster → Cluster) : (s.modCluster k f).poison = s.poison := rfl
@[simp] theorem State.modCluster_outside (s : State) (k : Nat) (f : Cluster → Cluster) : (s.modCluster k f).outside = s.outside := rfl
@[simp] theorem State.modCluster_ver (s : State) (k : Nat) (f : Cluster → Cluster) : (s.modCluster k f).ver = s.ver := rfl
@[simp] theorem State.modCluster_rgnOwner (s : State) (k : Nat) (f : Cluster → Cluster) : (s.modCluster k f).rgnOwner = s.rgnOwner := rfl
@[simp] theorem State.modCluster_surfaces (s : State) (k : Nat) (f : Cluster → Cluster) : (s.modCluster k f).surfaces = s.surfaces := rfl
@[simp] theorem State.modCluster_sems (s : State) (k : Nat) (f : Cluster → Cluster) : (s.modCluster k f).sems = s.sems := rfl
@[simp] theorem State.modCluster_watches (s : State) (k : Nat) (f : Cluster → Cluster) : (s.modCluster k f).watches = s.watches := rfl
@[simp] theorem State.modCluster_springs (s : State) (k : Nat) (f : Cluster → Cluster) : (s.modCluster k f).springs = s.springs := rfl
@[simp] theorem State.modCluster_heldRecs (s : State) (k : Nat) (f : Cluster → Cluster) : (s.modCluster k f).heldRecs = s.heldRecs := rfl
@[simp] theorem State.modCluster_packets (s : State) (k : Nat) (f : Cluster → Cluster) : (s.modCluster k f).packets = s.packets := rfl
@[simp] theorem State.modCluster_basins (s : State) (k : Nat) (f : Cluster → Cluster) : (s.modCluster k f).basins = s.basins := rfl
@[simp] theorem State.modCluster_dies (s : State) (k : Nat) (f : Cluster → Cluster) : (s.modCluster k f).dies = s.dies := rfl
@[simp] theorem State.modCluster_cores (s : State) (k : Nat) (f : Cluster → Cluster) : (s.modCluster k f).cores = s.cores := rfl
@[simp] theorem State.modCluster_waves (s : State) (k : Nat) (f : Cluster → Cluster) : (s.modCluster k f).waves = s.waves := rfl
@[simp] theorem State.modCluster_teams (s : State) (k : Nat) (f : Cluster → Cluster) : (s.modCluster k f).teams = s.teams := rfl
@[simp] theorem State.modCluster_launches (s : State) (k : Nat) (f : Cluster → Cluster) : (s.modCluster k f).launches = s.launches := rfl
@[simp] theorem State.modCluster_parked (s : State) (k : Nat) (f : Cluster → Cluster) : (s.modCluster k f).parked = s.parked := rfl
@[simp] theorem State.modCluster_structs (s : State) (k : Nat) (f : Cluster → Cluster) : (s.modCluster k f).structs = s.structs := rfl
@[simp] theorem State.modCluster_queries (s : State) (k : Nat) (f : Cluster → Cluster) : (s.modCluster k f).queries = s.queries := rfl
@[simp] theorem State.modCluster_outs (s : State) (k : Nat) (f : Cluster → Cluster) : (s.modCluster k f).outs = s.outs := rfl
@[simp] theorem State.modCluster_delayed (s : State) (k : Nat) (f : Cluster → Cluster) : (s.modCluster k f).delayed = s.delayed := rfl
@[simp] theorem State.modCluster_weir (s : State) (k : Nat) (f : Cluster → Cluster) : (s.modCluster k f).weir = s.weir := rfl
@[simp] theorem State.modCluster_latent (s : State) (k : Nat) (f : Cluster → Cluster) : (s.modCluster k f).latent = s.latent := rfl
@[simp] theorem State.modCluster_msix (s : State) (k : Nat) (f : Cluster → Cluster) : (s.modCluster k f).msix = s.msix := rfl
@[simp] theorem State.modCluster_hostReads (s : State) (k : Nat) (f : Cluster → Cluster) : (s.modCluster k f).hostReads = s.hostReads := rfl
@[simp] theorem State.modCluster_agenda (s : State) (k : Nat) (f : Cluster → Cluster) : (s.modCluster k f).agenda = s.agenda := rfl
@[simp] theorem State.modCluster_cur (s : State) (k : Nat) (f : Cluster → Cluster) : (s.modCluster k f).cur = s.cur := rfl
@[simp] theorem State.modCluster_freeCtr (s : State) (k : Nat) (f : Cluster → Cluster) : (s.modCluster k f).freeCtr = s.freeCtr := rfl
@[simp] theorem State.modCluster_nextId (s : State) (k : Nat) (f : Cluster → Cluster) : (s.modCluster k f).nextId = s.nextId := rfl

/-! ### setCore -/

@[simp] theorem State.setCore_clock (s : State) (k : Nat) (x : CoreSt) : (s.setCore k x).clock = s.clock := rfl
@[simp] theorem State.setCore_refPhase (s : State) (k : Nat) (x : CoreSt) : (s.setCore k x).refPhase = s.refPhase := rfl
@[simp] theorem State.setCore_ref (s : State) (k : Nat) (x : CoreSt) : (s.setCore k x).ref = s.ref := rfl
@[simp] theorem State.setCore_mem (s : State) (k : Nat) (x : CoreSt) : (s.setCore k x).mem = s.mem := rfl
@[simp] theorem State.setCore_poison (s : State) (k : Nat) (x : CoreSt) : (s.setCore k x).poison = s.poison := rfl
@[simp] theorem State.setCore_outside (s : State) (k : Nat) (x : CoreSt) : (s.setCore k x).outside = s.outside := rfl
@[simp] theorem State.setCore_ver (s : State) (k : Nat) (x : CoreSt) : (s.setCore k x).ver = s.ver := rfl
@[simp] theorem State.setCore_rgnOwner (s : State) (k : Nat) (x : CoreSt) : (s.setCore k x).rgnOwner = s.rgnOwner := rfl
@[simp] theorem State.setCore_surfaces (s : State) (k : Nat) (x : CoreSt) : (s.setCore k x).surfaces = s.surfaces := rfl
@[simp] theorem State.setCore_sems (s : State) (k : Nat) (x : CoreSt) : (s.setCore k x).sems = s.sems := rfl
@[simp] theorem State.setCore_watches (s : State) (k : Nat) (x : CoreSt) : (s.setCore k x).watches = s.watches := rfl
@[simp] theorem State.setCore_springs (s : State) (k : Nat) (x : CoreSt) : (s.setCore k x).springs = s.springs := rfl
@[simp] theorem State.setCore_heldRecs (s : State) (k : Nat) (x : CoreSt) : (s.setCore k x).heldRecs = s.heldRecs := rfl
@[simp] theorem State.setCore_packets (s : State) (k : Nat) (x : CoreSt) : (s.setCore k x).packets = s.packets := rfl
@[simp] theorem State.setCore_basins (s : State) (k : Nat) (x : CoreSt) : (s.setCore k x).basins = s.basins := rfl
@[simp] theorem State.setCore_dies (s : State) (k : Nat) (x : CoreSt) : (s.setCore k x).dies = s.dies := rfl
@[simp] theorem State.setCore_clusters (s : State) (k : Nat) (x : CoreSt) : (s.setCore k x).clusters = s.clusters := rfl
@[simp] theorem State.setCore_waves (s : State) (k : Nat) (x : CoreSt) : (s.setCore k x).waves = s.waves := rfl
@[simp] theorem State.setCore_teams (s : State) (k : Nat) (x : CoreSt) : (s.setCore k x).teams = s.teams := rfl
@[simp] theorem State.setCore_launches (s : State) (k : Nat) (x : CoreSt) : (s.setCore k x).launches = s.launches := rfl
@[simp] theorem State.setCore_parked (s : State) (k : Nat) (x : CoreSt) : (s.setCore k x).parked = s.parked := rfl
@[simp] theorem State.setCore_structs (s : State) (k : Nat) (x : CoreSt) : (s.setCore k x).structs = s.structs := rfl
@[simp] theorem State.setCore_queries (s : State) (k : Nat) (x : CoreSt) : (s.setCore k x).queries = s.queries := rfl
@[simp] theorem State.setCore_outs (s : State) (k : Nat) (x : CoreSt) : (s.setCore k x).outs = s.outs := rfl
@[simp] theorem State.setCore_delayed (s : State) (k : Nat) (x : CoreSt) : (s.setCore k x).delayed = s.delayed := rfl
@[simp] theorem State.setCore_weir (s : State) (k : Nat) (x : CoreSt) : (s.setCore k x).weir = s.weir := rfl
@[simp] theorem State.setCore_latent (s : State) (k : Nat) (x : CoreSt) : (s.setCore k x).latent = s.latent := rfl
@[simp] theorem State.setCore_msix (s : State) (k : Nat) (x : CoreSt) : (s.setCore k x).msix = s.msix := rfl
@[simp] theorem State.setCore_hostReads (s : State) (k : Nat) (x : CoreSt) : (s.setCore k x).hostReads = s.hostReads := rfl
@[simp] theorem State.setCore_agenda (s : State) (k : Nat) (x : CoreSt) : (s.setCore k x).agenda = s.agenda := rfl
@[simp] theorem State.setCore_cur (s : State) (k : Nat) (x : CoreSt) : (s.setCore k x).cur = s.cur := rfl
@[simp] theorem State.setCore_freeCtr (s : State) (k : Nat) (x : CoreSt) : (s.setCore k x).freeCtr = s.freeCtr := rfl
@[simp] theorem State.setCore_nextId (s : State) (k : Nat) (x : CoreSt) : (s.setCore k x).nextId = s.nextId := rfl

/-! ### modCore -/

@[simp] theorem State.modCore_clock (s : State) (k : Nat) (f : CoreSt → CoreSt) : (s.modCore k f).clock = s.clock := rfl
@[simp] theorem State.modCore_refPhase (s : State) (k : Nat) (f : CoreSt → CoreSt) : (s.modCore k f).refPhase = s.refPhase := rfl
@[simp] theorem State.modCore_ref (s : State) (k : Nat) (f : CoreSt → CoreSt) : (s.modCore k f).ref = s.ref := rfl
@[simp] theorem State.modCore_mem (s : State) (k : Nat) (f : CoreSt → CoreSt) : (s.modCore k f).mem = s.mem := rfl
@[simp] theorem State.modCore_poison (s : State) (k : Nat) (f : CoreSt → CoreSt) : (s.modCore k f).poison = s.poison := rfl
@[simp] theorem State.modCore_outside (s : State) (k : Nat) (f : CoreSt → CoreSt) : (s.modCore k f).outside = s.outside := rfl
@[simp] theorem State.modCore_ver (s : State) (k : Nat) (f : CoreSt → CoreSt) : (s.modCore k f).ver = s.ver := rfl
@[simp] theorem State.modCore_rgnOwner (s : State) (k : Nat) (f : CoreSt → CoreSt) : (s.modCore k f).rgnOwner = s.rgnOwner := rfl
@[simp] theorem State.modCore_surfaces (s : State) (k : Nat) (f : CoreSt → CoreSt) : (s.modCore k f).surfaces = s.surfaces := rfl
@[simp] theorem State.modCore_sems (s : State) (k : Nat) (f : CoreSt → CoreSt) : (s.modCore k f).sems = s.sems := rfl
@[simp] theorem State.modCore_watches (s : State) (k : Nat) (f : CoreSt → CoreSt) : (s.modCore k f).watches = s.watches := rfl
@[simp] theorem State.modCore_springs (s : State) (k : Nat) (f : CoreSt → CoreSt) : (s.modCore k f).springs = s.springs := rfl
@[simp] theorem State.modCore_heldRecs (s : State) (k : Nat) (f : CoreSt → CoreSt) : (s.modCore k f).heldRecs = s.heldRecs := rfl
@[simp] theorem State.modCore_packets (s : State) (k : Nat) (f : CoreSt → CoreSt) : (s.modCore k f).packets = s.packets := rfl
@[simp] theorem State.modCore_basins (s : State) (k : Nat) (f : CoreSt → CoreSt) : (s.modCore k f).basins = s.basins := rfl
@[simp] theorem State.modCore_dies (s : State) (k : Nat) (f : CoreSt → CoreSt) : (s.modCore k f).dies = s.dies := rfl
@[simp] theorem State.modCore_clusters (s : State) (k : Nat) (f : CoreSt → CoreSt) : (s.modCore k f).clusters = s.clusters := rfl
@[simp] theorem State.modCore_waves (s : State) (k : Nat) (f : CoreSt → CoreSt) : (s.modCore k f).waves = s.waves := rfl
@[simp] theorem State.modCore_teams (s : State) (k : Nat) (f : CoreSt → CoreSt) : (s.modCore k f).teams = s.teams := rfl
@[simp] theorem State.modCore_launches (s : State) (k : Nat) (f : CoreSt → CoreSt) : (s.modCore k f).launches = s.launches := rfl
@[simp] theorem State.modCore_parked (s : State) (k : Nat) (f : CoreSt → CoreSt) : (s.modCore k f).parked = s.parked := rfl
@[simp] theorem State.modCore_structs (s : State) (k : Nat) (f : CoreSt → CoreSt) : (s.modCore k f).structs = s.structs := rfl
@[simp] theorem State.modCore_queries (s : State) (k : Nat) (f : CoreSt → CoreSt) : (s.modCore k f).queries = s.queries := rfl
@[simp] theorem State.modCore_outs (s : State) (k : Nat) (f : CoreSt → CoreSt) : (s.modCore k f).outs = s.outs := rfl
@[simp] theorem State.modCore_delayed (s : State) (k : Nat) (f : CoreSt → CoreSt) : (s.modCore k f).delayed = s.delayed := rfl
@[simp] theorem State.modCore_weir (s : State) (k : Nat) (f : CoreSt → CoreSt) : (s.modCore k f).weir = s.weir := rfl
@[simp] theorem State.modCore_latent (s : State) (k : Nat) (f : CoreSt → CoreSt) : (s.modCore k f).latent = s.latent := rfl
@[simp] theorem State.modCore_msix (s : State) (k : Nat) (f : CoreSt → CoreSt) : (s.modCore k f).msix = s.msix := rfl
@[simp] theorem State.modCore_hostReads (s : State) (k : Nat) (f : CoreSt → CoreSt) : (s.modCore k f).hostReads = s.hostReads := rfl
@[simp] theorem State.modCore_agenda (s : State) (k : Nat) (f : CoreSt → CoreSt) : (s.modCore k f).agenda = s.agenda := rfl
@[simp] theorem State.modCore_cur (s : State) (k : Nat) (f : CoreSt → CoreSt) : (s.modCore k f).cur = s.cur := rfl
@[simp] theorem State.modCore_freeCtr (s : State) (k : Nat) (f : CoreSt → CoreSt) : (s.modCore k f).freeCtr = s.freeCtr := rfl
@[simp] theorem State.modCore_nextId (s : State) (k : Nat) (f : CoreSt → CoreSt) : (s.modCore k f).nextId = s.nextId := rfl

/-! ### setWave -/

@[simp] theorem State.setWave_clock (s : State) (k : Nat) (x : Wave) : (s.setWave k x).clock = s.clock := rfl
@[simp] theorem State.setWave_refPhase (s : State) (k : Nat) (x : Wave) : (s.setWave k x).refPhase = s.refPhase := rfl
@[simp] theorem State.setWave_ref (s : State) (k : Nat) (x : Wave) : (s.setWave k x).ref = s.ref := rfl
@[simp] theorem State.setWave_mem (s : State) (k : Nat) (x : Wave) : (s.setWave k x).mem = s.mem := rfl
@[simp] theorem State.setWave_poison (s : State) (k : Nat) (x : Wave) : (s.setWave k x).poison = s.poison := rfl
@[simp] theorem State.setWave_outside (s : State) (k : Nat) (x : Wave) : (s.setWave k x).outside = s.outside := rfl
@[simp] theorem State.setWave_ver (s : State) (k : Nat) (x : Wave) : (s.setWave k x).ver = s.ver := rfl
@[simp] theorem State.setWave_rgnOwner (s : State) (k : Nat) (x : Wave) : (s.setWave k x).rgnOwner = s.rgnOwner := rfl
@[simp] theorem State.setWave_surfaces (s : State) (k : Nat) (x : Wave) : (s.setWave k x).surfaces = s.surfaces := rfl
@[simp] theorem State.setWave_sems (s : State) (k : Nat) (x : Wave) : (s.setWave k x).sems = s.sems := rfl
@[simp] theorem State.setWave_watches (s : State) (k : Nat) (x : Wave) : (s.setWave k x).watches = s.watches := rfl
@[simp] theorem State.setWave_springs (s : State) (k : Nat) (x : Wave) : (s.setWave k x).springs = s.springs := rfl
@[simp] theorem State.setWave_heldRecs (s : State) (k : Nat) (x : Wave) : (s.setWave k x).heldRecs = s.heldRecs := rfl
@[simp] theorem State.setWave_packets (s : State) (k : Nat) (x : Wave) : (s.setWave k x).packets = s.packets := rfl
@[simp] theorem State.setWave_basins (s : State) (k : Nat) (x : Wave) : (s.setWave k x).basins = s.basins := rfl
@[simp] theorem State.setWave_dies (s : State) (k : Nat) (x : Wave) : (s.setWave k x).dies = s.dies := rfl
@[simp] theorem State.setWave_clusters (s : State) (k : Nat) (x : Wave) : (s.setWave k x).clusters = s.clusters := rfl
@[simp] theorem State.setWave_cores (s : State) (k : Nat) (x : Wave) : (s.setWave k x).cores = s.cores := rfl
@[simp] theorem State.setWave_teams (s : State) (k : Nat) (x : Wave) : (s.setWave k x).teams = s.teams := rfl
@[simp] theorem State.setWave_launches (s : State) (k : Nat) (x : Wave) : (s.setWave k x).launches = s.launches := rfl
@[simp] theorem State.setWave_parked (s : State) (k : Nat) (x : Wave) : (s.setWave k x).parked = s.parked := rfl
@[simp] theorem State.setWave_structs (s : State) (k : Nat) (x : Wave) : (s.setWave k x).structs = s.structs := rfl
@[simp] theorem State.setWave_queries (s : State) (k : Nat) (x : Wave) : (s.setWave k x).queries = s.queries := rfl
@[simp] theorem State.setWave_outs (s : State) (k : Nat) (x : Wave) : (s.setWave k x).outs = s.outs := rfl
@[simp] theorem State.setWave_delayed (s : State) (k : Nat) (x : Wave) : (s.setWave k x).delayed = s.delayed := rfl
@[simp] theorem State.setWave_weir (s : State) (k : Nat) (x : Wave) : (s.setWave k x).weir = s.weir := rfl
@[simp] theorem State.setWave_latent (s : State) (k : Nat) (x : Wave) : (s.setWave k x).latent = s.latent := rfl
@[simp] theorem State.setWave_msix (s : State) (k : Nat) (x : Wave) : (s.setWave k x).msix = s.msix := rfl
@[simp] theorem State.setWave_hostReads (s : State) (k : Nat) (x : Wave) : (s.setWave k x).hostReads = s.hostReads := rfl
@[simp] theorem State.setWave_agenda (s : State) (k : Nat) (x : Wave) : (s.setWave k x).agenda = s.agenda := rfl
@[simp] theorem State.setWave_cur (s : State) (k : Nat) (x : Wave) : (s.setWave k x).cur = s.cur := rfl
@[simp] theorem State.setWave_freeCtr (s : State) (k : Nat) (x : Wave) : (s.setWave k x).freeCtr = s.freeCtr := rfl
@[simp] theorem State.setWave_nextId (s : State) (k : Nat) (x : Wave) : (s.setWave k x).nextId = s.nextId := rfl

/-! ### modWave -/

@[simp] theorem State.modWave_clock (s : State) (k : Nat) (f : Wave → Wave) : (s.modWave k f).clock = s.clock := by unfold State.modWave; split <;> rfl
@[simp] theorem State.modWave_refPhase (s : State) (k : Nat) (f : Wave → Wave) : (s.modWave k f).refPhase = s.refPhase := by unfold State.modWave; split <;> rfl
@[simp] theorem State.modWave_ref (s : State) (k : Nat) (f : Wave → Wave) : (s.modWave k f).ref = s.ref := by unfold State.modWave; split <;> rfl
@[simp] theorem State.modWave_mem (s : State) (k : Nat) (f : Wave → Wave) : (s.modWave k f).mem = s.mem := by unfold State.modWave; split <;> rfl
@[simp] theorem State.modWave_poison (s : State) (k : Nat) (f : Wave → Wave) : (s.modWave k f).poison = s.poison := by unfold State.modWave; split <;> rfl
@[simp] theorem State.modWave_outside (s : State) (k : Nat) (f : Wave → Wave) : (s.modWave k f).outside = s.outside := by unfold State.modWave; split <;> rfl
@[simp] theorem State.modWave_ver (s : State) (k : Nat) (f : Wave → Wave) : (s.modWave k f).ver = s.ver := by unfold State.modWave; split <;> rfl
@[simp] theorem State.modWave_rgnOwner (s : State) (k : Nat) (f : Wave → Wave) : (s.modWave k f).rgnOwner = s.rgnOwner := by unfold State.modWave; split <;> rfl
@[simp] theorem State.modWave_surfaces (s : State) (k : Nat) (f : Wave → Wave) : (s.modWave k f).surfaces = s.surfaces := by unfold State.modWave; split <;> rfl
@[simp] theorem State.modWave_sems (s : State) (k : Nat) (f : Wave → Wave) : (s.modWave k f).sems = s.sems := by unfold State.modWave; split <;> rfl
@[simp] theorem State.modWave_watches (s : State) (k : Nat) (f : Wave → Wave) : (s.modWave k f).watches = s.watches := by unfold State.modWave; split <;> rfl
@[simp] theorem State.modWave_springs (s : State) (k : Nat) (f : Wave → Wave) : (s.modWave k f).springs = s.springs := by unfold State.modWave; split <;> rfl
@[simp] theorem State.modWave_heldRecs (s : State) (k : Nat) (f : Wave → Wave) : (s.modWave k f).heldRecs = s.heldRecs := by unfold State.modWave; split <;> rfl
@[simp] theorem State.modWave_packets (s : State) (k : Nat) (f : Wave → Wave) : (s.modWave k f).packets = s.packets := by unfold State.modWave; split <;> rfl
@[simp] theorem State.modWave_basins (s : State) (k : Nat) (f : Wave → Wave) : (s.modWave k f).basins = s.basins := by unfold State.modWave; split <;> rfl
@[simp] theorem State.modWave_dies (s : State) (k : Nat) (f : Wave → Wave) : (s.modWave k f).dies = s.dies := by unfold State.modWave; split <;> rfl
@[simp] theorem State.modWave_clusters (s : State) (k : Nat) (f : Wave → Wave) : (s.modWave k f).clusters = s.clusters := by unfold State.modWave; split <;> rfl
@[simp] theorem State.modWave_cores (s : State) (k : Nat) (f : Wave → Wave) : (s.modWave k f).cores = s.cores := by unfold State.modWave; split <;> rfl
@[simp] theorem State.modWave_teams (s : State) (k : Nat) (f : Wave → Wave) : (s.modWave k f).teams = s.teams := by unfold State.modWave; split <;> rfl
@[simp] theorem State.modWave_launches (s : State) (k : Nat) (f : Wave → Wave) : (s.modWave k f).launches = s.launches := by unfold State.modWave; split <;> rfl
@[simp] theorem State.modWave_parked (s : State) (k : Nat) (f : Wave → Wave) : (s.modWave k f).parked = s.parked := by unfold State.modWave; split <;> rfl
@[simp] theorem State.modWave_structs (s : State) (k : Nat) (f : Wave → Wave) : (s.modWave k f).structs = s.structs := by unfold State.modWave; split <;> rfl
@[simp] theorem State.modWave_queries (s : State) (k : Nat) (f : Wave → Wave) : (s.modWave k f).queries = s.queries := by unfold State.modWave; split <;> rfl
@[simp] theorem State.modWave_outs (s : State) (k : Nat) (f : Wave → Wave) : (s.modWave k f).outs = s.outs := by unfold State.modWave; split <;> rfl
@[simp] theorem State.modWave_delayed (s : State) (k : Nat) (f : Wave → Wave) : (s.modWave k f).delayed = s.delayed := by unfold State.modWave; split <;> rfl
@[simp] theorem State.modWave_weir (s : State) (k : Nat) (f : Wave → Wave) : (s.modWave k f).weir = s.weir := by unfold State.modWave; split <;> rfl
@[simp] theorem State.modWave_latent (s : State) (k : Nat) (f : Wave → Wave) : (s.modWave k f).latent = s.latent := by unfold State.modWave; split <;> rfl
@[simp] theorem State.modWave_msix (s : State) (k : Nat) (f : Wave → Wave) : (s.modWave k f).msix = s.msix := by unfold State.modWave; split <;> rfl
@[simp] theorem State.modWave_hostReads (s : State) (k : Nat) (f : Wave → Wave) : (s.modWave k f).hostReads = s.hostReads := by unfold State.modWave; split <;> rfl
@[simp] theorem State.modWave_agenda (s : State) (k : Nat) (f : Wave → Wave) : (s.modWave k f).agenda = s.agenda := by unfold State.modWave; split <;> rfl
@[simp] theorem State.modWave_cur (s : State) (k : Nat) (f : Wave → Wave) : (s.modWave k f).cur = s.cur := by unfold State.modWave; split <;> rfl
@[simp] theorem State.modWave_freeCtr (s : State) (k : Nat) (f : Wave → Wave) : (s.modWave k f).freeCtr = s.freeCtr := by unfold State.modWave; split <;> rfl
@[simp] theorem State.modWave_nextId (s : State) (k : Nat) (f : Wave → Wave) : (s.modWave k f).nextId = s.nextId := by unfold State.modWave; split <;> rfl

/-! ### modThread -/

@[simp] theorem State.modThread_clock (s : State) (k p : Nat) (f : Thread → Thread) : (s.modThread k p f).clock = s.clock := by unfold State.modThread; simp
@[simp] theorem State.modThread_refPhase (s : State) (k p : Nat) (f : Thread → Thread) : (s.modThread k p f).refPhase = s.refPhase := by unfold State.modThread; simp
@[simp] theorem State.modThread_ref (s : State) (k p : Nat) (f : Thread → Thread) : (s.modThread k p f).ref = s.ref := by unfold State.modThread; simp
@[simp] theorem State.modThread_mem (s : State) (k p : Nat) (f : Thread → Thread) : (s.modThread k p f).mem = s.mem := by unfold State.modThread; simp
@[simp] theorem State.modThread_poison (s : State) (k p : Nat) (f : Thread → Thread) : (s.modThread k p f).poison = s.poison := by unfold State.modThread; simp
@[simp] theorem State.modThread_outside (s : State) (k p : Nat) (f : Thread → Thread) : (s.modThread k p f).outside = s.outside := by unfold State.modThread; simp
@[simp] theorem State.modThread_ver (s : State) (k p : Nat) (f : Thread → Thread) : (s.modThread k p f).ver = s.ver := by unfold State.modThread; simp
@[simp] theorem State.modThread_rgnOwner (s : State) (k p : Nat) (f : Thread → Thread) : (s.modThread k p f).rgnOwner = s.rgnOwner := by unfold State.modThread; simp
@[simp] theorem State.modThread_surfaces (s : State) (k p : Nat) (f : Thread → Thread) : (s.modThread k p f).surfaces = s.surfaces := by unfold State.modThread; simp
@[simp] theorem State.modThread_sems (s : State) (k p : Nat) (f : Thread → Thread) : (s.modThread k p f).sems = s.sems := by unfold State.modThread; simp
@[simp] theorem State.modThread_watches (s : State) (k p : Nat) (f : Thread → Thread) : (s.modThread k p f).watches = s.watches := by unfold State.modThread; simp
@[simp] theorem State.modThread_springs (s : State) (k p : Nat) (f : Thread → Thread) : (s.modThread k p f).springs = s.springs := by unfold State.modThread; simp
@[simp] theorem State.modThread_heldRecs (s : State) (k p : Nat) (f : Thread → Thread) : (s.modThread k p f).heldRecs = s.heldRecs := by unfold State.modThread; simp
@[simp] theorem State.modThread_packets (s : State) (k p : Nat) (f : Thread → Thread) : (s.modThread k p f).packets = s.packets := by unfold State.modThread; simp
@[simp] theorem State.modThread_basins (s : State) (k p : Nat) (f : Thread → Thread) : (s.modThread k p f).basins = s.basins := by unfold State.modThread; simp
@[simp] theorem State.modThread_dies (s : State) (k p : Nat) (f : Thread → Thread) : (s.modThread k p f).dies = s.dies := by unfold State.modThread; simp
@[simp] theorem State.modThread_clusters (s : State) (k p : Nat) (f : Thread → Thread) : (s.modThread k p f).clusters = s.clusters := by unfold State.modThread; simp
@[simp] theorem State.modThread_cores (s : State) (k p : Nat) (f : Thread → Thread) : (s.modThread k p f).cores = s.cores := by unfold State.modThread; simp
@[simp] theorem State.modThread_teams (s : State) (k p : Nat) (f : Thread → Thread) : (s.modThread k p f).teams = s.teams := by unfold State.modThread; simp
@[simp] theorem State.modThread_launches (s : State) (k p : Nat) (f : Thread → Thread) : (s.modThread k p f).launches = s.launches := by unfold State.modThread; simp
@[simp] theorem State.modThread_parked (s : State) (k p : Nat) (f : Thread → Thread) : (s.modThread k p f).parked = s.parked := by unfold State.modThread; simp
@[simp] theorem State.modThread_structs (s : State) (k p : Nat) (f : Thread → Thread) : (s.modThread k p f).structs = s.structs := by unfold State.modThread; simp
@[simp] theorem State.modThread_queries (s : State) (k p : Nat) (f : Thread → Thread) : (s.modThread k p f).queries = s.queries := by unfold State.modThread; simp
@[simp] theorem State.modThread_outs (s : State) (k p : Nat) (f : Thread → Thread) : (s.modThread k p f).outs = s.outs := by unfold State.modThread; simp
@[simp] theorem State.modThread_delayed (s : State) (k p : Nat) (f : Thread → Thread) : (s.modThread k p f).delayed = s.delayed := by unfold State.modThread; simp
@[simp] theorem State.modThread_weir (s : State) (k p : Nat) (f : Thread → Thread) : (s.modThread k p f).weir = s.weir := by unfold State.modThread; simp
@[simp] theorem State.modThread_latent (s : State) (k p : Nat) (f : Thread → Thread) : (s.modThread k p f).latent = s.latent := by unfold State.modThread; simp
@[simp] theorem State.modThread_msix (s : State) (k p : Nat) (f : Thread → Thread) : (s.modThread k p f).msix = s.msix := by unfold State.modThread; simp
@[simp] theorem State.modThread_hostReads (s : State) (k p : Nat) (f : Thread → Thread) : (s.modThread k p f).hostReads = s.hostReads := by unfold State.modThread; simp
@[simp] theorem State.modThread_agenda (s : State) (k p : Nat) (f : Thread → Thread) : (s.modThread k p f).agenda = s.agenda := by unfold State.modThread; simp
@[simp] theorem State.modThread_cur (s : State) (k p : Nat) (f : Thread → Thread) : (s.modThread k p f).cur = s.cur := by unfold State.modThread; simp
@[simp] theorem State.modThread_freeCtr (s : State) (k p : Nat) (f : Thread → Thread) : (s.modThread k p f).freeCtr = s.freeCtr := by unfold State.modThread; simp
@[simp] theorem State.modThread_nextId (s : State) (k p : Nat) (f : Thread → Thread) : (s.modThread k p f).nextId = s.nextId := by unfold State.modThread; simp

/-! ### modTeam -/

@[simp] theorem State.modTeam_clock (s : State) (k : Nat) (f : Team → Team) : (s.modTeam k f).clock = s.clock := by unfold State.modTeam; split <;> rfl
@[simp] theorem State.modTeam_refPhase (s : State) (k : Nat) (f : Team → Team) : (s.modTeam k f).refPhase = s.refPhase := by unfold State.modTeam; split <;> rfl
@[simp] theorem State.modTeam_ref (s : State) (k : Nat) (f : Team → Team) : (s.modTeam k f).ref = s.ref := by unfold State.modTeam; split <;> rfl
@[simp] theorem State.modTeam_mem (s : State) (k : Nat) (f : Team → Team) : (s.modTeam k f).mem = s.mem := by unfold State.modTeam; split <;> rfl
@[simp] theorem State.modTeam_poison (s : State) (k : Nat) (f : Team → Team) : (s.modTeam k f).poison = s.poison := by unfold State.modTeam; split <;> rfl
@[simp] theorem State.modTeam_outside (s : State) (k : Nat) (f : Team → Team) : (s.modTeam k f).outside = s.outside := by unfold State.modTeam; split <;> rfl
@[simp] theorem State.modTeam_ver (s : State) (k : Nat) (f : Team → Team) : (s.modTeam k f).ver = s.ver := by unfold State.modTeam; split <;> rfl
@[simp] theorem State.modTeam_rgnOwner (s : State) (k : Nat) (f : Team → Team) : (s.modTeam k f).rgnOwner = s.rgnOwner := by unfold State.modTeam; split <;> rfl
@[simp] theorem State.modTeam_surfaces (s : State) (k : Nat) (f : Team → Team) : (s.modTeam k f).surfaces = s.surfaces := by unfold State.modTeam; split <;> rfl
@[simp] theorem State.modTeam_sems (s : State) (k : Nat) (f : Team → Team) : (s.modTeam k f).sems = s.sems := by unfold State.modTeam; split <;> rfl
@[simp] theorem State.modTeam_watches (s : State) (k : Nat) (f : Team → Team) : (s.modTeam k f).watches = s.watches := by unfold State.modTeam; split <;> rfl
@[simp] theorem State.modTeam_springs (s : State) (k : Nat) (f : Team → Team) : (s.modTeam k f).springs = s.springs := by unfold State.modTeam; split <;> rfl
@[simp] theorem State.modTeam_heldRecs (s : State) (k : Nat) (f : Team → Team) : (s.modTeam k f).heldRecs = s.heldRecs := by unfold State.modTeam; split <;> rfl
@[simp] theorem State.modTeam_packets (s : State) (k : Nat) (f : Team → Team) : (s.modTeam k f).packets = s.packets := by unfold State.modTeam; split <;> rfl
@[simp] theorem State.modTeam_basins (s : State) (k : Nat) (f : Team → Team) : (s.modTeam k f).basins = s.basins := by unfold State.modTeam; split <;> rfl
@[simp] theorem State.modTeam_dies (s : State) (k : Nat) (f : Team → Team) : (s.modTeam k f).dies = s.dies := by unfold State.modTeam; split <;> rfl
@[simp] theorem State.modTeam_clusters (s : State) (k : Nat) (f : Team → Team) : (s.modTeam k f).clusters = s.clusters := by unfold State.modTeam; split <;> rfl
@[simp] theorem State.modTeam_cores (s : State) (k : Nat) (f : Team → Team) : (s.modTeam k f).cores = s.cores := by unfold State.modTeam; split <;> rfl
@[simp] theorem State.modTeam_waves (s : State) (k : Nat) (f : Team → Team) : (s.modTeam k f).waves = s.waves := by unfold State.modTeam; split <;> rfl
@[simp] theorem State.modTeam_launches (s : State) (k : Nat) (f : Team → Team) : (s.modTeam k f).launches = s.launches := by unfold State.modTeam; split <;> rfl
@[simp] theorem State.modTeam_parked (s : State) (k : Nat) (f : Team → Team) : (s.modTeam k f).parked = s.parked := by unfold State.modTeam; split <;> rfl
@[simp] theorem State.modTeam_structs (s : State) (k : Nat) (f : Team → Team) : (s.modTeam k f).structs = s.structs := by unfold State.modTeam; split <;> rfl
@[simp] theorem State.modTeam_queries (s : State) (k : Nat) (f : Team → Team) : (s.modTeam k f).queries = s.queries := by unfold State.modTeam; split <;> rfl
@[simp] theorem State.modTeam_outs (s : State) (k : Nat) (f : Team → Team) : (s.modTeam k f).outs = s.outs := by unfold State.modTeam; split <;> rfl
@[simp] theorem State.modTeam_delayed (s : State) (k : Nat) (f : Team → Team) : (s.modTeam k f).delayed = s.delayed := by unfold State.modTeam; split <;> rfl
@[simp] theorem State.modTeam_weir (s : State) (k : Nat) (f : Team → Team) : (s.modTeam k f).weir = s.weir := by unfold State.modTeam; split <;> rfl
@[simp] theorem State.modTeam_latent (s : State) (k : Nat) (f : Team → Team) : (s.modTeam k f).latent = s.latent := by unfold State.modTeam; split <;> rfl
@[simp] theorem State.modTeam_msix (s : State) (k : Nat) (f : Team → Team) : (s.modTeam k f).msix = s.msix := by unfold State.modTeam; split <;> rfl
@[simp] theorem State.modTeam_hostReads (s : State) (k : Nat) (f : Team → Team) : (s.modTeam k f).hostReads = s.hostReads := by unfold State.modTeam; split <;> rfl
@[simp] theorem State.modTeam_agenda (s : State) (k : Nat) (f : Team → Team) : (s.modTeam k f).agenda = s.agenda := by unfold State.modTeam; split <;> rfl
@[simp] theorem State.modTeam_cur (s : State) (k : Nat) (f : Team → Team) : (s.modTeam k f).cur = s.cur := by unfold State.modTeam; split <;> rfl
@[simp] theorem State.modTeam_freeCtr (s : State) (k : Nat) (f : Team → Team) : (s.modTeam k f).freeCtr = s.freeCtr := by unfold State.modTeam; split <;> rfl
@[simp] theorem State.modTeam_nextId (s : State) (k : Nat) (f : Team → Team) : (s.modTeam k f).nextId = s.nextId := by unfold State.modTeam; split <;> rfl

/-! ### modLaunch -/

@[simp] theorem State.modLaunch_clock (s : State) (k : Nat) (f : Launch → Launch) : (s.modLaunch k f).clock = s.clock := by unfold State.modLaunch; split <;> rfl
@[simp] theorem State.modLaunch_refPhase (s : State) (k : Nat) (f : Launch → Launch) : (s.modLaunch k f).refPhase = s.refPhase := by unfold State.modLaunch; split <;> rfl
@[simp] theorem State.modLaunch_ref (s : State) (k : Nat) (f : Launch → Launch) : (s.modLaunch k f).ref = s.ref := by unfold State.modLaunch; split <;> rfl
@[simp] theorem State.modLaunch_mem (s : State) (k : Nat) (f : Launch → Launch) : (s.modLaunch k f).mem = s.mem := by unfold State.modLaunch; split <;> rfl
@[simp] theorem State.modLaunch_poison (s : State) (k : Nat) (f : Launch → Launch) : (s.modLaunch k f).poison = s.poison := by unfold State.modLaunch; split <;> rfl
@[simp] theorem State.modLaunch_outside (s : State) (k : Nat) (f : Launch → Launch) : (s.modLaunch k f).outside = s.outside := by unfold State.modLaunch; split <;> rfl
@[simp] theorem State.modLaunch_ver (s : State) (k : Nat) (f : Launch → Launch) : (s.modLaunch k f).ver = s.ver := by unfold State.modLaunch; split <;> rfl
@[simp] theorem State.modLaunch_rgnOwner (s : State) (k : Nat) (f : Launch → Launch) : (s.modLaunch k f).rgnOwner = s.rgnOwner := by unfold State.modLaunch; split <;> rfl
@[simp] theorem State.modLaunch_surfaces (s : State) (k : Nat) (f : Launch → Launch) : (s.modLaunch k f).surfaces = s.surfaces := by unfold State.modLaunch; split <;> rfl
@[simp] theorem State.modLaunch_sems (s : State) (k : Nat) (f : Launch → Launch) : (s.modLaunch k f).sems = s.sems := by unfold State.modLaunch; split <;> rfl
@[simp] theorem State.modLaunch_watches (s : State) (k : Nat) (f : Launch → Launch) : (s.modLaunch k f).watches = s.watches := by unfold State.modLaunch; split <;> rfl
@[simp] theorem State.modLaunch_springs (s : State) (k : Nat) (f : Launch → Launch) : (s.modLaunch k f).springs = s.springs := by unfold State.modLaunch; split <;> rfl
@[simp] theorem State.modLaunch_heldRecs (s : State) (k : Nat) (f : Launch → Launch) : (s.modLaunch k f).heldRecs = s.heldRecs := by unfold State.modLaunch; split <;> rfl
@[simp] theorem State.modLaunch_packets (s : State) (k : Nat) (f : Launch → Launch) : (s.modLaunch k f).packets = s.packets := by unfold State.modLaunch; split <;> rfl
@[simp] theorem State.modLaunch_basins (s : State) (k : Nat) (f : Launch → Launch) : (s.modLaunch k f).basins = s.basins := by unfold State.modLaunch; split <;> rfl
@[simp] theorem State.modLaunch_dies (s : State) (k : Nat) (f : Launch → Launch) : (s.modLaunch k f).dies = s.dies := by unfold State.modLaunch; split <;> rfl
@[simp] theorem State.modLaunch_clusters (s : State) (k : Nat) (f : Launch → Launch) : (s.modLaunch k f).clusters = s.clusters := by unfold State.modLaunch; split <;> rfl
@[simp] theorem State.modLaunch_cores (s : State) (k : Nat) (f : Launch → Launch) : (s.modLaunch k f).cores = s.cores := by unfold State.modLaunch; split <;> rfl
@[simp] theorem State.modLaunch_waves (s : State) (k : Nat) (f : Launch → Launch) : (s.modLaunch k f).waves = s.waves := by unfold State.modLaunch; split <;> rfl
@[simp] theorem State.modLaunch_teams (s : State) (k : Nat) (f : Launch → Launch) : (s.modLaunch k f).teams = s.teams := by unfold State.modLaunch; split <;> rfl
@[simp] theorem State.modLaunch_parked (s : State) (k : Nat) (f : Launch → Launch) : (s.modLaunch k f).parked = s.parked := by unfold State.modLaunch; split <;> rfl
@[simp] theorem State.modLaunch_structs (s : State) (k : Nat) (f : Launch → Launch) : (s.modLaunch k f).structs = s.structs := by unfold State.modLaunch; split <;> rfl
@[simp] theorem State.modLaunch_queries (s : State) (k : Nat) (f : Launch → Launch) : (s.modLaunch k f).queries = s.queries := by unfold State.modLaunch; split <;> rfl
@[simp] theorem State.modLaunch_outs (s : State) (k : Nat) (f : Launch → Launch) : (s.modLaunch k f).outs = s.outs := by unfold State.modLaunch; split <;> rfl
@[simp] theorem State.modLaunch_delayed (s : State) (k : Nat) (f : Launch → Launch) : (s.modLaunch k f).delayed = s.delayed := by unfold State.modLaunch; split <;> rfl
@[simp] theorem State.modLaunch_weir (s : State) (k : Nat) (f : Launch → Launch) : (s.modLaunch k f).weir = s.weir := by unfold State.modLaunch; split <;> rfl
@[simp] theorem State.modLaunch_latent (s : State) (k : Nat) (f : Launch → Launch) : (s.modLaunch k f).latent = s.latent := by unfold State.modLaunch; split <;> rfl
@[simp] theorem State.modLaunch_msix (s : State) (k : Nat) (f : Launch → Launch) : (s.modLaunch k f).msix = s.msix := by unfold State.modLaunch; split <;> rfl
@[simp] theorem State.modLaunch_hostReads (s : State) (k : Nat) (f : Launch → Launch) : (s.modLaunch k f).hostReads = s.hostReads := by unfold State.modLaunch; split <;> rfl
@[simp] theorem State.modLaunch_agenda (s : State) (k : Nat) (f : Launch → Launch) : (s.modLaunch k f).agenda = s.agenda := by unfold State.modLaunch; split <;> rfl
@[simp] theorem State.modLaunch_cur (s : State) (k : Nat) (f : Launch → Launch) : (s.modLaunch k f).cur = s.cur := by unfold State.modLaunch; split <;> rfl
@[simp] theorem State.modLaunch_freeCtr (s : State) (k : Nat) (f : Launch → Launch) : (s.modLaunch k f).freeCtr = s.freeCtr := by unfold State.modLaunch; split <;> rfl
@[simp] theorem State.modLaunch_nextId (s : State) (k : Nat) (f : Launch → Launch) : (s.modLaunch k f).nextId = s.nextId := by unfold State.modLaunch; split <;> rfl

/-! ### putHomeByte -/

@[simp] theorem State.putHomeByte_clock (s : State) (pa : Nat) (b : Byte) : (s.putHomeByte pa b).clock = s.clock := rfl
@[simp] theorem State.putHomeByte_refPhase (s : State) (pa : Nat) (b : Byte) : (s.putHomeByte pa b).refPhase = s.refPhase := rfl
@[simp] theorem State.putHomeByte_ref (s : State) (pa : Nat) (b : Byte) : (s.putHomeByte pa b).ref = s.ref := rfl
@[simp] theorem State.putHomeByte_poison (s : State) (pa : Nat) (b : Byte) : (s.putHomeByte pa b).poison = s.poison := rfl
@[simp] theorem State.putHomeByte_outside (s : State) (pa : Nat) (b : Byte) : (s.putHomeByte pa b).outside = s.outside := rfl
@[simp] theorem State.putHomeByte_ver (s : State) (pa : Nat) (b : Byte) : (s.putHomeByte pa b).ver = s.ver := rfl
@[simp] theorem State.putHomeByte_rgnOwner (s : State) (pa : Nat) (b : Byte) : (s.putHomeByte pa b).rgnOwner = s.rgnOwner := rfl
@[simp] theorem State.putHomeByte_surfaces (s : State) (pa : Nat) (b : Byte) : (s.putHomeByte pa b).surfaces = s.surfaces := rfl
@[simp] theorem State.putHomeByte_sems (s : State) (pa : Nat) (b : Byte) : (s.putHomeByte pa b).sems = s.sems := rfl
@[simp] theorem State.putHomeByte_watches (s : State) (pa : Nat) (b : Byte) : (s.putHomeByte pa b).watches = s.watches := rfl
@[simp] theorem State.putHomeByte_springs (s : State) (pa : Nat) (b : Byte) : (s.putHomeByte pa b).springs = s.springs := rfl
@[simp] theorem State.putHomeByte_heldRecs (s : State) (pa : Nat) (b : Byte) : (s.putHomeByte pa b).heldRecs = s.heldRecs := rfl
@[simp] theorem State.putHomeByte_packets (s : State) (pa : Nat) (b : Byte) : (s.putHomeByte pa b).packets = s.packets := rfl
@[simp] theorem State.putHomeByte_basins (s : State) (pa : Nat) (b : Byte) : (s.putHomeByte pa b).basins = s.basins := rfl
@[simp] theorem State.putHomeByte_dies (s : State) (pa : Nat) (b : Byte) : (s.putHomeByte pa b).dies = s.dies := rfl
@[simp] theorem State.putHomeByte_clusters (s : State) (pa : Nat) (b : Byte) : (s.putHomeByte pa b).clusters = s.clusters := rfl
@[simp] theorem State.putHomeByte_cores (s : State) (pa : Nat) (b : Byte) : (s.putHomeByte pa b).cores = s.cores := rfl
@[simp] theorem State.putHomeByte_waves (s : State) (pa : Nat) (b : Byte) : (s.putHomeByte pa b).waves = s.waves := rfl
@[simp] theorem State.putHomeByte_teams (s : State) (pa : Nat) (b : Byte) : (s.putHomeByte pa b).teams = s.teams := rfl
@[simp] theorem State.putHomeByte_launches (s : State) (pa : Nat) (b : Byte) : (s.putHomeByte pa b).launches = s.launches := rfl
@[simp] theorem State.putHomeByte_parked (s : State) (pa : Nat) (b : Byte) : (s.putHomeByte pa b).parked = s.parked := rfl
@[simp] theorem State.putHomeByte_structs (s : State) (pa : Nat) (b : Byte) : (s.putHomeByte pa b).structs = s.structs := rfl
@[simp] theorem State.putHomeByte_queries (s : State) (pa : Nat) (b : Byte) : (s.putHomeByte pa b).queries = s.queries := rfl
@[simp] theorem State.putHomeByte_outs (s : State) (pa : Nat) (b : Byte) : (s.putHomeByte pa b).outs = s.outs := rfl
@[simp] theorem State.putHomeByte_delayed (s : State) (pa : Nat) (b : Byte) : (s.putHomeByte pa b).delayed = s.delayed := rfl
@[simp] theorem State.putHomeByte_weir (s : State) (pa : Nat) (b : Byte) : (s.putHomeByte pa b).weir = s.weir := rfl
@[simp] theorem State.putHomeByte_latent (s : State) (pa : Nat) (b : Byte) : (s.putHomeByte pa b).latent = s.latent := rfl
@[simp] theorem State.putHomeByte_msix (s : State) (pa : Nat) (b : Byte) : (s.putHomeByte pa b).msix = s.msix := rfl
@[simp] theorem State.putHomeByte_hostReads (s : State) (pa : Nat) (b : Byte) : (s.putHomeByte pa b).hostReads = s.hostReads := rfl
@[simp] theorem State.putHomeByte_agenda (s : State) (pa : Nat) (b : Byte) : (s.putHomeByte pa b).agenda = s.agenda := rfl
@[simp] theorem State.putHomeByte_cur (s : State) (pa : Nat) (b : Byte) : (s.putHomeByte pa b).cur = s.cur := rfl
@[simp] theorem State.putHomeByte_freeCtr (s : State) (pa : Nat) (b : Byte) : (s.putHomeByte pa b).freeCtr = s.freeCtr := rfl
@[simp] theorem State.putHomeByte_nextId (s : State) (pa : Nat) (b : Byte) : (s.putHomeByte pa b).nextId = s.nextId := rfl

/-! ### skipFree -/

@[simp] theorem State.skipFree_clock (s : State) : (s.skipFree).clock = s.clock := rfl
@[simp] theorem State.skipFree_refPhase (s : State) : (s.skipFree).refPhase = s.refPhase := rfl
@[simp] theorem State.skipFree_ref (s : State) : (s.skipFree).ref = s.ref := rfl
@[simp] theorem State.skipFree_mem (s : State) : (s.skipFree).mem = s.mem := rfl
@[simp] theorem State.skipFree_poison (s : State) : (s.skipFree).poison = s.poison := rfl
@[simp] theorem State.skipFree_outside (s : State) : (s.skipFree).outside = s.outside := rfl
@[simp] theorem State.skipFree_ver (s : State) : (s.skipFree).ver = s.ver := rfl
@[simp] theorem State.skipFree_rgnOwner (s : State) : (s.skipFree).rgnOwner = s.rgnOwner := rfl
@[simp] theorem State.skipFree_surfaces (s : State) : (s.skipFree).surfaces = s.surfaces := rfl
@[simp] theorem State.skipFree_sems (s : State) : (s.skipFree).sems = s.sems := rfl
@[simp] theorem State.skipFree_watches (s : State) : (s.skipFree).watches = s.watches := rfl
@[simp] theorem State.skipFree_springs (s : State) : (s.skipFree).springs = s.springs := rfl
@[simp] theorem State.skipFree_heldRecs (s : State) : (s.skipFree).heldRecs = s.heldRecs := rfl
@[simp] theorem State.skipFree_packets (s : State) : (s.skipFree).packets = s.packets := rfl
@[simp] theorem State.skipFree_basins (s : State) : (s.skipFree).basins = s.basins := rfl
@[simp] theorem State.skipFree_dies (s : State) : (s.skipFree).dies = s.dies := rfl
@[simp] theorem State.skipFree_clusters (s : State) : (s.skipFree).clusters = s.clusters := rfl
@[simp] theorem State.skipFree_cores (s : State) : (s.skipFree).cores = s.cores := rfl
@[simp] theorem State.skipFree_waves (s : State) : (s.skipFree).waves = s.waves := rfl
@[simp] theorem State.skipFree_teams (s : State) : (s.skipFree).teams = s.teams := rfl
@[simp] theorem State.skipFree_launches (s : State) : (s.skipFree).launches = s.launches := rfl
@[simp] theorem State.skipFree_parked (s : State) : (s.skipFree).parked = s.parked := rfl
@[simp] theorem State.skipFree_structs (s : State) : (s.skipFree).structs = s.structs := rfl
@[simp] theorem State.skipFree_queries (s : State) : (s.skipFree).queries = s.queries := rfl
@[simp] theorem State.skipFree_outs (s : State) : (s.skipFree).outs = s.outs := rfl
@[simp] theorem State.skipFree_delayed (s : State) : (s.skipFree).delayed = s.delayed := rfl
@[simp] theorem State.skipFree_weir (s : State) : (s.skipFree).weir = s.weir := rfl
@[simp] theorem State.skipFree_latent (s : State) : (s.skipFree).latent = s.latent := rfl
@[simp] theorem State.skipFree_msix (s : State) : (s.skipFree).msix = s.msix := rfl
@[simp] theorem State.skipFree_hostReads (s : State) : (s.skipFree).hostReads = s.hostReads := rfl
@[simp] theorem State.skipFree_agenda (s : State) : (s.skipFree).agenda = s.agenda := rfl
@[simp] theorem State.skipFree_cur (s : State) : (s.skipFree).cur = s.cur := rfl
@[simp] theorem State.skipFree_nextId (s : State) : (s.skipFree).nextId = s.nextId := rfl

/-! ### What each update gives -/

@[simp] theorem State.die_setDie_same (s : State) (d : Nat) (x : Die) : (s.setDie d x).die d = x := by simp [State.die, State.setDie]
theorem State.die_setDie_other (s : State) (d e : Nat) (x : Die) (h : e ≠ d) : (s.setDie d x).die e = s.die e := by
  simp [State.die, State.setDie, Tab.get_put_other _ _ _ _ _ h]
@[simp] theorem State.die_modDie_same (s : State) (d : Nat) (f : Die → Die) : (s.modDie d f).die d = f (s.die d) := by simp [State.modDie]
theorem State.die_modDie_other (s : State) (d e : Nat) (f : Die → Die) (h : e ≠ d) : (s.modDie d f).die e = s.die e := by
  simp [State.modDie, State.die_setDie_other _ _ _ _ h]

@[simp] theorem State.core_modCore_same (s : State) (k : Nat) (f : CoreSt → CoreSt) : (s.modCore k f).core k = f (s.core k) := by
  simp [State.modCore, State.setCore, State.core]
theorem State.core_modCore_other (s : State) (k j : Nat) (f : CoreSt → CoreSt) (h : j ≠ k) : (s.modCore k f).core j = s.core j := by
  simp [State.modCore, State.setCore, State.core, Tab.get_put_other _ _ _ _ _ h]

@[simp] theorem State.cluster_modCluster_same (s : State) (k : Nat) (f : Cluster → Cluster) :
    (s.modCluster k f).cluster k = f (s.cluster k) := by
  simp [State.modCluster, State.setCluster, State.cluster]
theorem State.cluster_modCluster_other (s : State) (k j : Nat) (f : Cluster → Cluster) (h : j ≠ k) :
    (s.modCluster k f).cluster j = s.cluster j := by
  simp [State.modCluster, State.setCluster, State.cluster, Tab.get_put_other _ _ _ _ _ h]

theorem State.wave_modWave_same (s : State) (k : Nat) (f : Wave → Wave) (h : (s.waves.find k).isSome) :
    (s.modWave k f).wave k = f (s.wave k) := by
  obtain ⟨w, hw⟩ := Option.isSome_iff_exists.mp h
  simp [State.modWave, hw, State.wave, State.setWave, Tab.get]
theorem State.wave_modWave_other (s : State) (k j : Nat) (f : Wave → Wave) (h : j ≠ k) : (s.modWave k f).wave j = s.wave j := by
  unfold State.modWave
  split
  · simp [State.wave, State.setWave, Tab.get_put_other _ _ _ _ _ h]
  · rfl
theorem State.find_modWave (s : State) (k j : Nat) (f : Wave → Wave) :
    ((s.modWave k f).waves.find j).isSome = (s.waves.find j).isSome := by
  unfold State.modWave
  split
  · rename_i w hw
    by_cases h : j = k
    · subst h; simp [State.setWave, hw]
    · simp [State.setWave, Tab.find_put_other _ _ _ _ h]
  · rfl

@[simp] theorem State.me_modCore (s : State) (k : Nat) (f : CoreSt → CoreSt) : (s.modCore k f).me = s.me := rfl
@[simp] theorem State.me_modDie (s : State) (k : Nat) (f : Die → Die) : (s.modDie k f).me = s.me := rfl
@[simp] theorem State.me_modCluster (s : State) (k : Nat) (f : Cluster → Cluster) : (s.modCluster k f).me = s.me := rfl

/-! ### Threads and registers of a wave -/

theorem Wave.thread_modThread_same (w : Wave) (p : Nat) (f : Thread → Thread) (h : p < w.threads.length) :
    (w.modThread p f).thread p = f (w.thread p) := by
  simp only [Wave.modThread, Wave.setThread, Wave.thread]
  exact listSet_getD_same _ _ _ _ h
theorem Wave.thread_modThread_other (w : Wave) (p q : Nat) (f : Thread → Thread) (h : q ≠ p) :
    (w.modThread p f).thread q = w.thread q := by
  simp only [Wave.modThread, Wave.setThread, Wave.thread]
  exact listSet_getD_other _ _ _ _ _ h
@[simp] theorem Wave.modThread_length (w : Wave) (p : Nat) (f : Thread → Thread) : (w.modThread p f).threads.length = w.threads.length := by
  simp [Wave.modThread, Wave.setThread]
@[simp] theorem Wave.modThread_w (w : Wave) (p : Nat) (f : Thread → Thread) : (w.modThread p f).w = w.w := rfl
@[simp] theorem Wave.modThread_base (w : Wave) (p : Nat) (f : Thread → Thread) : (w.modThread p f).base = w.base := rfl

end Sys2Proof.Machine
end

