-- ==== Sys2Proof/Laws/Frame.lean ====
section
/-! SUPPORT. Laws of the frame that every unit runs in: what runWith does when every member passes, and what going on to the next unit changes. -/

namespace Sys2Proof.Machine

open Sys2Proof

theorem State.passes_issuing {s : State} {i : Instr} (h : s.passes i = true) : s.issuing = true := by
  simp only [State.passes, Bool.and_eq_true] at h; exact h.1.1.1

/-- Nothing of a unit is held or left over. -/
structure Cur.Clear (c : Cur) : Prop where
  held : c.held = false
  rest : c.rest = []
  blocked : c.blocked = false
  need : c.need = none

theorem State.issuing_parts {s : State} (h : s.issuing = true) :
    (s.waves.find s.cur.wave).isSome = true ∧ s.cur.group ≠ [] ∧ rising s.cur.group = true ∧ (∀ p ∈ s.cur.group, p < s.me.threads.length)
      ∧ s.cur.Clear ∧ s.cur.away = false ∧ s.cur.led = false := by
  simp only [State.issuing, Bool.and_eq_true, Bool.not_eq_true', List.isEmpty_iff, List.isEmpty_eq_false_iff, List.all_eq_true, decide_eq_true_eq,
    Option.isNone_iff_eq_none] at h
  obtain ⟨⟨⟨⟨⟨⟨⟨⟨⟨h1, h2⟩, h3⟩, h4⟩, h5⟩, h6⟩, h7⟩, h8⟩, h9⟩, h10⟩ := h
  exact ⟨h1, h2, h3, h4, ⟨h5, h6, h7, h8⟩, h9, h10⟩

theorem State.issuing_find {s : State} (h : s.issuing = true) : (s.waves.find s.cur.wave).isSome = true := (State.issuing_parts h).1
theorem State.issuing_nonempty {s : State} (h : s.issuing = true) : s.cur.group ≠ [] := (State.issuing_parts h).2.1
theorem State.issuing_rising {s : State} (h : s.issuing = true) : rising s.cur.group = true := (State.issuing_parts h).2.2.1
theorem State.issuing_lt {s : State} (h : s.issuing = true) {p : Nat} (hp : p ∈ s.cur.group) : p < s.me.threads.length :=
  (State.issuing_parts h).2.2.2.1 p hp
theorem State.issuing_clear {s : State} (h : s.issuing = true) : s.cur.Clear := (State.issuing_parts h).2.2.2.2.1
theorem State.issuing_away {s : State} (h : s.issuing = true) : s.cur.away = false := (State.issuing_parts h).2.2.2.2.2.1
theorem State.issuing_led {s : State} (h : s.issuing = true) : s.cur.led = false := (State.issuing_parts h).2.2.2.2.2.2

theorem rising_cons_lt {a : Nat} {l : List Nat} (h : rising (a :: l) = true) : ∀ x ∈ l, a < x := by
  induction l generalizing a with
  | nil => simp
  | cons b t ih =>
    simp only [rising, Bool.and_eq_true, decide_eq_true_eq] at h
    intro x hx
    rcases List.mem_cons.mp hx with rfl | hx
    · exact h.1
    · exact lt_trans h.1 (ih h.2 x hx)

theorem rising_tail {a : Nat} {l : List Nat} (h : rising (a :: l) = true) : rising l = true := by
  cases l with
  | nil => rfl
  | cons b t => simp only [rising, Bool.and_eq_true] at h; exact h.2

theorem rising_nodup {l : List Nat} (h : rising l = true) : l.Nodup := by
  induction l with
  | nil => exact List.nodup_nil
  | cons a t ih =>
    exact List.nodup_cons.mpr ⟨fun hm => lt_irrefl _ (rising_cons_lt h a hm), ih (rising_tail h)⟩

theorem splitFront_none (f : Nat → Option Raised) (l : List Nat) (h : ∀ p ∈ l, f p = none) : splitFront f l = (l, []) := by
  induction l with
  | nil => rfl
  | cons a t ih =>
    simp only [splitFront, ih fun p hp => h p (List.mem_cons_of_mem _ hp), h a List.mem_cons_self]

theorem State.passes_member {s : State} {i : Instr} (h : s.passes i = true) {p : Nat} (hp : p ∈ s.cur.group) :
    s.masked p = true ∨ s.readable? i p = true := by
  simp only [State.passes, Bool.and_eq_true, List.all_eq_true, Bool.or_eq_true] at h; exact h.2 p hp

theorem State.frontCheck_none {s : State} {i : Instr} (h : s.passes i = true) (extra : Nat → Option Raised) {p : Nat}
    (hp : p ∈ s.cur.group) (hx : extra p = none) : s.frontCheck i extra p = none := by
  have hm := State.passes_member h hp
  simp only [State.passes, Bool.and_eq_true, Bool.or_eq_true, Bool.not_eq_true'] at h
  obtain ⟨⟨⟨-, hu⟩, hpr⟩, -⟩ := h
  unfold State.frontCheck
  simp only [hu, hx, Bool.not_true, Bool.false_eq_true, if_false]
  by_cases hmask : s.masked p = true
  · rcases hpr with h1 | h1 <;> simp [h1, hmask]
  · rcases hm with hm | hm
    · exact absurd hm hmask
    · simp only [State.readable?, Bool.and_eq_true, Option.isNone_iff_eq_none] at hm
      rcases hpr with h1 | h1 <;> simp [h1, hmask, hm.1.1]

theorem State.not_early {s : State} {i : Instr} (h : s.passes i = true) :
    (s.cur.group.any fun p => !s.masked p && s.drainEarly s.cur.wave p (s.sources i p)) = false := by
  rw [List.any_eq_false]
  intro p hp
  rcases State.passes_member h hp with hm | hm
  · simp [hm]
  · simp only [State.readable?, Bool.and_eq_true, Bool.not_eq_true'] at hm
    simp [hm.2]

/-- What runWith does when every member passes: the price is paid, the body acts, its members go on, and what it raised takes effect. -/
theorem State.runWith_passes {s : State} {i : Instr} (h : s.passes i = true) (extra : Nat → Option Raised) (busy : List Nat → Option State)
    (price : Nat) (body : State → List Nat → Done) (hx : ∀ p ∈ s.cur.group, extra p = none) (hb : busy s.cur.group = none)
    (hp : s.cannotPay price = false) (hh : (body (s.pay price) s.cur.group).st.cur.Clear) :
    s.runWith i extra busy price body =
      let d := body (s.pay price) s.cur.group
      ((d.st.advance d.ok d.jumps).takeColumns i d.ok).deliverAll s.cur.wave (sortRaised d.raised) := by
  have hs : splitFront (s.frontCheck i extra) s.members = (s.cur.group, []) :=
    splitFront_none _ _ fun p hp => State.frontCheck_none h extra hp (hx p hp)
  have hn : s.cur.group.isEmpty = false := by
    simpa using State.issuing_nonempty (State.passes_issuing h)
  unfold State.runWith
  simp only [hs, hn, State.not_early h, hb, hp, hh.held, hh.blocked, hh.rest, hh.need, State.ask, Bool.false_eq_true, if_false, List.nil_append,
    List.isEmpty_nil, Bool.not_true, Bool.false_and, Bool.or_self]

@[simp] theorem State.pay_zero (s : State) : s.pay 0 = s := by simp [State.pay]
@[simp] theorem State.cannotPay_zero (s : State) : s.cannotPay 0 = false := by simp [State.cannotPay]

/-- The same for a unit with no condition, check or price of its own. -/
theorem State.runUnit_passes {s : State} {i : Instr} (h : s.passes i = true) (body : State → List Nat → Done)
    (hh : (body s s.cur.group).st.cur.Clear) :
    s.runUnit i 0 body =
      let d := body s s.cur.group
      ((d.st.advance d.ok d.jumps).takeColumns i d.ok).deliverAll s.cur.wave (sortRaised d.raised) := by
  have := State.runWith_passes h (fun _ => none) (fun _ => none) 0 body (fun _ _ => rfl) rfl (State.cannotPay_zero s) (by simpa using hh)
  simpa [State.runUnit] using this

theorem State.readSplit_passes {s : State} {i : Instr} (h : s.passes i = true) : s.readSplit i s.cur.group = (s.cur.group, []) := by
  refine splitFront_none _ _ fun p hp => ?_
  rcases State.passes_member h hp with hm | hm
  · simp [hm]
  · simp only [State.readable?, Bool.and_eq_true, Option.isNone_iff_eq_none] at hm
    simp [hm.1.2]

/-- A body that checks its reads first is its inner body when every member passes. -/
theorem reading_passes {s : State} {i : Instr} (h : s.passes i = true) (f : State → List Nat → Done) :
    reading i f s s.cur.group = f s s.cur.group := by
  have hn : s.cur.group.isEmpty = false := by simpa using State.issuing_nonempty (State.passes_issuing h)
  simp [reading, State.readSplit_passes h, hn]

@[simp] theorem State.deliverAll_nil (s : State) (k : Nat) : s.deliverAll k (sortRaised []) = s := by
  simp [State.deliverAll, sortRaised]

end Sys2Proof.Machine
end

