-- ==== Sys2Proof/Laws/Wave.lean ====
section
/-! SUPPORT. Laws of a wave's registers: reading after writing, and what a write leaves. -/

namespace Sys2Proof.Machine

open Sys2Proof

/-- A thread apart from its registers and error marks. -/
def Thread.bare (t : Thread) : Thread := { t with v := [], o := [], bad := [] }

theorem code_ne {c d : Code} (h : c ≠ d) : c.toNat ≠ d.toNat := fun e => h (BitVec.eq_of_toNat_eq e)

/-! ### The primitives -/

@[simp] theorem Wave.endHolds_thread (w : Wave) (n p : Nat) : (w.endHolds n).thread p = w.thread p := rfl
@[simp] theorem Wave.endHolds_w (w : Wave) (n : Nat) : (w.endHolds n).w = w.w := rfl
@[simp] theorem Wave.endHolds_base (w : Wave) (n : Nat) : (w.endHolds n).base = w.base := rfl
@[simp] theorem Wave.endHolds_threads (w : Wave) (n : Nat) : (w.endHolds n).threads = w.threads := rfl
@[simp] theorem Wave.putW_thread (w : Wave) (n p : Nat) (x : Word) : (w.putW n x).thread p = w.thread p := rfl
@[simp] theorem Wave.putW_w (w : Wave) (n : Nat) (x : Word) : (w.putW n x).w = w.w.putD 0 (n - 0xE0) x := rfl
@[simp] theorem Wave.putW_base (w : Wave) (n : Nat) (x : Word) : (w.putW n x).base = w.base := rfl
@[simp] theorem Wave.putW_threads (w : Wave) (n : Nat) (x : Word) : (w.putW n x).threads = w.threads := rfl
@[simp] theorem Thread.putV_bare (t : Thread) (n : Nat) (x : Word) : (t.putV n x).bare = t.bare := rfl
@[simp] theorem Thread.putO_bare (t : Thread) (n : Nat) (x : Word) : (t.putO n x).bare = t.bare := rfl
@[simp] theorem Thread.putV_v (t : Thread) (n : Nat) (x : Word) : (t.putV n x).v = t.v.putD 0 n x := rfl
@[simp] theorem Thread.putV_o (t : Thread) (n : Nat) (x : Word) : (t.putV n x).o = t.o := rfl
@[simp] theorem Thread.putO_v (t : Thread) (n : Nat) (x : Word) : (t.putO n x).v = t.v := rfl
@[simp] theorem Thread.putO_o (t : Thread) (n : Nat) (x : Word) : (t.putO n x).o = t.o.putD 0 (n - 0xF0) x := rfl
@[simp] theorem Thread.putV_latch (t : Thread) (n k : Nat) (x : Word) : (t.putV n x).latch k = t.latch k := rfl
@[simp] theorem Thread.putO_latch (t : Thread) (n k : Nat) (x : Word) : (t.putO n x).latch k = t.latch k := rfl

theorem listSet_beyond {α : Type} (l : List α) (n : Nat) (a : α) (h : l.length ≤ n) : listSet l n a = l := by
  induction l generalizing n with
  | nil => rfl
  | cons b t ih =>
    cases n with
    | zero => simp at h
    | succ n => simp only [listSet]; rw [ih n (by simpa using h)]

theorem Wave.modThread_beyond (w : Wave) (p : Nat) (f : Thread → Thread) (h : w.threads.length ≤ p) : w.modThread p f = w := by
  simp only [Wave.modThread, Wave.setThread, listSet_beyond _ _ _ h]

/-! ### The four kinds of code -/

theorem Wave.writeCode_v (w : Wave) (p : Nat) (c : Code) (x : Word) (h : c.toNat < 0xE0) :
    w.writeCode p c x = (w.modThread p fun t => t.putV c.toNat x).endHolds c.toNat := by simp [Wave.writeCode, h]
theorem Wave.writeCode_isW (w : Wave) (p : Nat) (c : Code) (x : Word) (h1 : 0xE0 ≤ c.toNat) (h2 : c.toNat < 0xF0) :
    w.writeCode p c x = w.putW c.toNat x := by simp [Wave.writeCode, Nat.not_lt.mpr h1, h2]
theorem Wave.writeCode_o (w : Wave) (p : Nat) (c : Code) (x : Word) (h1 : 0xF0 ≤ c.toNat) (h2 : c.toNat < 0xF8) :
    w.writeCode p c x = w.modThread p fun t => t.putO c.toNat x := by
  simp [Wave.writeCode, Nat.not_lt.mpr h1, h2, show ¬ c.toNat < 0xE0 by omega]
theorem Wave.writeCode_none (w : Wave) (p : Nat) (c : Code) (x : Word) (h : 0xF8 ≤ c.toNat) : w.writeCode p c x = w := by
  simp [Wave.writeCode, show ¬ c.toNat < 0xE0 by omega, show ¬ c.toNat < 0xF0 by omega, Nat.not_lt.mpr h]

theorem code_cases (c : Code) : c.toNat < 0xE0 ∨ (0xE0 ≤ c.toNat ∧ c.toNat < 0xF0) ∨ (0xF0 ≤ c.toNat ∧ c.toNat < 0xF8) ∨ 0xF8 ≤ c.toNat := by
  omega

theorem isW_iff (c : Code) : isW c = true ↔ 0xE0 ≤ c.toNat ∧ c.toNat < 0xF0 := by simp [isW]

/-! ### What a write leaves -/

@[simp] theorem Wave.writeCode_length (w : Wave) (p : Nat) (c : Code) (x : Word) : (w.writeCode p c x).threads.length = w.threads.length := by
  rcases code_cases c with h | h | h | h
  · simp [Wave.writeCode_v _ _ _ _ h]
  · simp [Wave.writeCode_isW _ _ _ _ h.1 h.2]
  · simp [Wave.writeCode_o _ _ _ _ h.1 h.2]
  · simp [Wave.writeCode_none _ _ _ _ h]

@[simp] theorem Wave.writeCode_base (w : Wave) (p : Nat) (c : Code) (x : Word) : (w.writeCode p c x).base = w.base := by
  rcases code_cases c with h | h | h | h
  · simp [Wave.writeCode_v _ _ _ _ h]
  · simp [Wave.writeCode_isW _ _ _ _ h.1 h.2]
  · simp [Wave.writeCode_o _ _ _ _ h.1 h.2]
  · simp [Wave.writeCode_none _ _ _ _ h]

theorem Wave.writeCode_w (w : Wave) (p : Nat) (c : Code) (x : Word) (hw : isW c = false) : (w.writeCode p c x).w = w.w := by
  rcases code_cases c with h | h | h | h
  · simp [Wave.writeCode_v _ _ _ _ h]
  · rw [(isW_iff c).mpr h] at hw; exact absurd hw (by decide)
  · simp [Wave.writeCode_o _ _ _ _ h.1 h.2]
  · simp [Wave.writeCode_none _ _ _ _ h]

theorem Wave.writeCode_thread_other (w : Wave) (p q : Nat) (c : Code) (x : Word) (hq : q ≠ p) :
    (w.writeCode p c x).thread q = w.thread q := by
  rcases code_cases c with h | h | h | h
  · simp [Wave.writeCode_v _ _ _ _ h, Wave.thread_modThread_other _ _ _ _ hq]
  · simp [Wave.writeCode_isW _ _ _ _ h.1 h.2]
  · simp [Wave.writeCode_o _ _ _ _ h.1 h.2, Wave.thread_modThread_other _ _ _ _ hq]
  · simp [Wave.writeCode_none _ _ _ _ h]

theorem Wave.writeCode_bare (w : Wave) (p q : Nat) (c : Code) (x : Word) : ((w.writeCode p c x).thread q).bare = (w.thread q).bare := by
  by_cases hq : q = p
  · subst hq
    by_cases hl : q < w.threads.length
    · rcases code_cases c with h | h | h | h
      · simp [Wave.writeCode_v _ _ _ _ h, Wave.thread_modThread_same _ _ _ hl]
      · simp [Wave.writeCode_isW _ _ _ _ h.1 h.2]
      · simp [Wave.writeCode_o _ _ _ _ h.1 h.2, Wave.thread_modThread_same _ _ _ hl]
      · simp [Wave.writeCode_none _ _ _ _ h]
    · have hl := Nat.le_of_not_lt hl
      rcases code_cases c with h | h | h | h
      · simp [Wave.writeCode_v _ _ _ _ h, Wave.modThread_beyond _ _ _ hl]
      · simp [Wave.writeCode_isW _ _ _ _ h.1 h.2]
      · simp [Wave.writeCode_o _ _ _ _ h.1 h.2, Wave.modThread_beyond _ _ _ hl]
      · simp [Wave.writeCode_none _ _ _ _ h]
  · rw [Wave.writeCode_thread_other _ _ _ _ _ hq]

/-- The wave apart from its threads, W registers and collector holds. -/
theorem Wave.writeCode_rest (w : Wave) (p : Nat) (c : Code) (x : Word) :
    w.writeCode p c x = { w with threads := (w.writeCode p c x).threads, w := (w.writeCode p c x).w, collector := (w.writeCode p c x).collector } := by
  rcases code_cases c with h | h | h | h
  · rw [Wave.writeCode_v _ _ _ _ h]; rfl
  · rw [Wave.writeCode_isW _ _ _ _ h.1 h.2]; rfl
  · rw [Wave.writeCode_o _ _ _ _ h.1 h.2]; rfl
  · rw [Wave.writeCode_none _ _ _ _ h]

/-! ### Reading -/

/-- Reading a code depends on the thread's V and O registers and latches, the W registers and the base alone. -/
theorem Wave.readCode_congr {w w' : Wave} {p : Nat} (hv : (w'.thread p).v = (w.thread p).v) (ho : (w'.thread p).o = (w.thread p).o)
    (hh : ∀ k, (w'.thread p).latch k = (w.thread p).latch k) (hw : w'.w = w.w) (hb : w'.base = w.base) (c : Code) :
    w'.readCode p c = w.readCode p c := by
  simp only [Wave.readCode, hv, ho, hh, hw, hb]

theorem Wave.readCode_writeCode_same (w : Wave) (p : Nat) (c : Code) (x : Word) (hp : p < w.threads.length) (hc : c.toNat < 0xF8) :
    (w.writeCode p c x).readCode p c = x := by
  rcases code_cases c with h | h | h | h
  · simp [Wave.writeCode_v _ _ _ _ h, Wave.readCode, h, Wave.thread_modThread_same _ _ _ hp]
  · simp [Wave.writeCode_isW _ _ _ _ h.1 h.2, Wave.readCode, Nat.not_lt.mpr h.1, h.2]
  · simp [Wave.writeCode_o _ _ _ _ h.1 h.2, Wave.readCode, Nat.not_lt.mpr h.1, h.2, show ¬ c.toNat < 0xE0 by omega,
      Wave.thread_modThread_same _ _ _ hp]
  · omega

/-- A write to W is seen by every thread. -/
theorem Wave.readCode_writeW (w : Wave) (p q : Nat) (c : Code) (x : Word) (hc : isW c = true) : (w.writeCode p c x).readCode q c = x := by
  have h := (isW_iff c).mp hc
  simp [Wave.writeCode_isW _ _ _ _ h.1 h.2, Wave.readCode, Nat.not_lt.mpr h.1, h.2]

theorem Wave.readCode_writeCode_other (w : Wave) (p q : Nat) (c c' : Code) (x : Word) (hne : c' ≠ c ∨ (q ≠ p ∧ isW c = false)) :
    (w.writeCode p c x).readCode q c' = w.readCode q c' := by
  rcases code_cases c with h | h | h | h
  · by_cases hq : q = p
    · have hn := code_ne (hne.resolve_right fun g => g.1 hq)
      subst hq
      by_cases hl : q < w.threads.length
      · simp [Wave.writeCode_v _ _ _ _ h, Wave.readCode, Wave.thread_modThread_same _ _ _ hl, Tab.get_putD_other _ _ _ _ _ hn]
      · simp [Wave.writeCode_v _ _ _ _ h, Wave.readCode, Wave.modThread_beyond _ _ _ (Nat.le_of_not_lt hl)]
    · simp [Wave.writeCode_v _ _ _ _ h, Wave.readCode, Wave.thread_modThread_other _ _ _ _ hq]
  · have hn := code_ne (hne.resolve_right fun g => by rw [(isW_iff c).mpr h] at g; exact absurd g.2 (by decide))
    simp only [Wave.writeCode_isW _ _ _ _ h.1 h.2, Wave.readCode, Wave.putW_thread, Wave.putW_w, Wave.putW_base]
    split
    · rfl
    · split
      · rw [Tab.get_putD_other _ _ _ _ _ (by omega)]
      · rfl
  · by_cases hq : q = p
    · have hn := code_ne (hne.resolve_right fun g => g.1 hq)
      subst hq
      by_cases hl : q < w.threads.length
      · simp only [Wave.writeCode_o _ _ _ _ h.1 h.2, Wave.readCode, Wave.thread_modThread_same _ _ _ hl, Thread.putO_v, Thread.putO_o,
          Thread.putO_latch, Wave.modThread_w, Wave.modThread_base]
        split
        · rfl
        · split
          · rfl
          · split
            · rw [Tab.get_putD_other _ _ _ _ _ (by omega)]
            · rfl
      · simp [Wave.writeCode_o _ _ _ _ h.1 h.2, Wave.readCode, Wave.modThread_beyond _ _ _ (Nat.le_of_not_lt hl)]
    · simp [Wave.writeCode_o _ _ _ _ h.1 h.2, Wave.readCode, Wave.thread_modThread_other _ _ _ _ hq]
  · simp [Wave.writeCode_none _ _ _ _ h]

end Sys2Proof.Machine
end

