-- ==== Sys2Proof/Laws/Aside.lean ====
section
/-! SUPPORT. What the memory system, translation and QP's stores do beside the unit being issued: the issue and the waves stand as they were, but for
causes noted in their threads and waits that end (State.Aside), and the operations that put no byte at a home leave memory too (State.Leaves). -/

namespace Sys2Proof.Machine

open Sys2Proof

/-- Beside the issue: every wave keeps its slot and all of it but noted causes and waits. -/
structure State.Aside (s t : State) : Prop where
  cur : t.cur = s.cur
  find : ∀ k, (t.waves.find k).isSome = (s.waves.find k).isSome
  wave : ∀ k, t.wave k = { s.wave k with threads := (t.wave k).threads, wait := (t.wave k).wait, park := (t.wave k).park }
  length : ∀ k, (t.wave k).threads.length = (s.wave k).threads.length
  thread : ∀ k p, { (t.wave k).thread p with noted := [] } = { (s.wave k).thread p with noted := [] }

/-- Beside the issue, and no byte reaches a home. -/
structure State.Leaves (s t : State) : Prop extends State.Aside s t where
  mem : t.mem = s.mem

theorem State.Aside.same {s t : State} (hc : t.cur = s.cur) (hw : t.waves = s.waves) : s.Aside t := by
  have h : ∀ k, t.wave k = s.wave k := fun k => by simp only [State.wave, hw]
  exact ⟨hc, fun k => by rw [hw], fun k => by rw [h], fun k => by rw [h], fun k p => by rw [h]⟩

theorem State.Leaves.same {s t : State} (hc : t.cur = s.cur) (hw : t.waves = s.waves) (hm : t.mem = s.mem) : s.Leaves t := ⟨.same hc hw, hm⟩

/-- A step that leaves the issue, the waves and the homes as they are comes before. -/
theorem State.Leaves.after {s t u : State} (g : t.Leaves u) (hc : t.cur = s.cur) (hw : t.waves = s.waves) (hm : t.mem = s.mem) : s.Leaves u := by
  have h : ∀ k, t.wave k = s.wave k := fun k => by simp only [State.wave, hw]
  exact ⟨⟨g.cur.trans hc, fun k => (g.find k).trans (by rw [hw]), fun k => by rw [g.wave k, h], fun k => by rw [g.length, h],
    fun k p => by rw [g.thread, h]⟩, g.mem.trans hm⟩

theorem State.Aside.refl (s : State) : s.Aside s := .same rfl rfl
theorem State.Leaves.refl (s : State) : s.Leaves s := .same rfl rfl rfl

theorem State.Aside.trans {s t u : State} (h : s.Aside t) (g : t.Aside u) : s.Aside u := by
  refine ⟨g.cur.trans h.cur, fun k => (g.find k).trans (h.find k), fun k => ?_, fun k => (g.length k).trans (h.length k),
    fun k p => (g.thread k p).trans (h.thread k p)⟩
  have g1 := g.wave k
  rw [h.wave k] at g1
  exact g1

theorem State.Leaves.trans {s t u : State} (h : s.Leaves t) (g : t.Leaves u) : s.Leaves u := ⟨h.toAside.trans g.toAside, g.mem.trans h.mem⟩

/-! ### Loops -/

/-- A loop keeps what each of its rounds keeps. -/
theorem foldState_keeps {α : Type} {P : State → Prop} (f : α → State → State) (l : List α) (hf : ∀ a s, P s → P (f a s)) (s : State)
    (h : P s) : P (foldState f l s) := by
  induction l generalizing s with
  | nil => exact h
  | cons a t ih => exact ih _ (hf a s h)

theorem foldState_aside {α : Type} (f : α → State → State) (l : List α) (hf : ∀ a s, State.Aside s (f a s)) (s : State) :
    s.Aside (foldState f l s) :=
  foldState_keeps (P := s.Aside) f l (fun a t h => h.trans (hf a t)) s (.refl s)

theorem foldState_leaves {α : Type} (f : α → State → State) (l : List α) (hf : ∀ a s, State.Leaves s (f a s)) (s : State) :
    s.Leaves (foldState f l s) :=
  foldState_keeps (P := s.Leaves) f l (fun a t h => h.trans (hf a t)) s (.refl s)

/-! ### The smallest steps -/

theorem State.leaves_modDie (s : State) (d : Nat) (f : Die → Die) : s.Leaves (s.modDie d f) := .same rfl rfl rfl
theorem State.leaves_modQueue (s : State) (d q : Nat) (f : Queue → Queue) : s.Leaves (s.modQueue d q f) := .same rfl rfl rfl
theorem State.leaves_modCore (s : State) (c : Nat) (f : CoreSt → CoreSt) : s.Leaves (s.modCore c f) := .same rfl rfl rfl
theorem State.leaves_fresh (s : State) : s.Leaves s.fresh.2 := .same rfl rfl rfl
theorem State.leaves_freeBit (s : State) : s.Leaves s.freeBit.2 := .same rfl rfl rfl

/-- A wave whose wait ends. -/
theorem State.leaves_unwait (s : State) (k : Nat) : s.Leaves (s.modWave k fun w => { w with wait := none, park := none }) := by
  have hw : ∀ j, (s.modWave k fun w => { w with wait := none, park := none }).wave j =
      { s.wave j with wait := ((s.modWave k fun w => { w with wait := none, park := none }).wave j).wait
                      park := ((s.modWave k fun w => { w with wait := none, park := none }).wave j).park } := by
    intro j
    by_cases hj : j = k
    · subst hj
      by_cases hf : (s.waves.find j).isSome
      · rw [State.wave_modWave_same _ _ _ hf]
      · simp [State.modWave, Option.not_isSome_iff_eq_none.mp hf]
    · rw [State.wave_modWave_other _ _ _ _ hj]
  refine ⟨⟨by simp, fun j => ?_, fun j => ?_, fun j => by rw [hw], fun j p => ?_⟩, by simp⟩
  · simp [State.find_modWave]
  · rw [hw]
  · rw [Wave.thread, hw]; rfl

theorem Tab.find_map {α : Type} (t : Tab α) (h : α → α) (k : Nat) : Tab.find (t.map fun x => (x.1, h x.2)) k = (Tab.find t k).map h := by
  induction t with
  | nil => rfl
  | cons c t ih =>
    obtain ⟨j, a⟩ := c
    simp only [List.map_cons, Tab.find]
    split
    · rfl
    · exact ih

/-- A cause noted in one thread of some waves. -/
theorem State.leaves_note (s : State) (uid p : Nat) (c : Cause) (v : Word) : s.Leaves (s.note uid p c v) := by
  let note (t : Thread) : Thread := if t.ended then t else { t with noted := t.noted ++ [(c, v)] }
  let g (w : Wave) : Wave := if w.uid = uid then w.modThread p note else w
  have hm : (s.note uid p c v).waves = s.waves.map fun x => (x.1, g x.2) := by
    refine List.map_congr_left fun x _ => ?_
    simp only [g]
    split <;> rfl
  have hf : ∀ k, (s.note uid p c v).waves.find k = (s.waves.find k).map g := fun k => by rw [hm]; exact Tab.find_map _ _ _
  have hn : ∀ t, { note t with noted := [] } = { t with noted := [] } := fun t => by simp only [note]; split <;> rfl
  have hw : ∀ k, (s.note uid p c v).wave k = s.wave k ∨ (s.note uid p c v).wave k = (s.wave k).modThread p note := by
    intro k
    simp only [State.wave, Tab.get, hf]
    cases s.waves.find k with
    | none => exact .inl rfl
    | some w =>
      simp only [Option.map_some, Option.getD_some, g]
      split
      · exact .inr rfl
      · exact .inl rfl
  refine ⟨⟨rfl, fun k => by rw [hf]; simp, fun k => ?_, fun k => ?_, fun k q => ?_⟩, rfl⟩
  · rcases hw k with h | h
    · rw [h]
    · rw [h]; rfl
  · rcases hw k with h | h
    · rw [h]
    · rw [h]; simp [Wave.modThread, Wave.setThread]
  · rcases hw k with h | h <;> rw [h]
    by_cases hq : q = p
    · subst hq
      by_cases hl : q < (s.wave k).threads.length
      · rw [Wave.thread_modThread_same _ _ _ hl, hn]
      · rw [Wave.modThread_beyond _ _ _ (Nat.le_of_not_lt hl)]
    · rw [Wave.thread_modThread_other _ _ _ _ hq]

/-! ### Stores of a die, marks and views -/

theorem State.leaves_settleStream (s : State) (d n : Nat) : s.Leaves (s.settleStream d n) := by
  unfold State.settleStream; split <;> exact .same rfl rfl rfl
theorem State.leaves_settleStreams (s : State) (d : Nat) (c : List (Nat × Byte)) : s.Leaves (s.settleStreams d c) := by
  unfold State.settleStreams; split
  · exact foldState_leaves _ _ (fun n t => t.leaves_settleStream d n) s
  · exact .refl s
theorem State.leaves_enableStreams (s : State) (d : Nat) (c : List (Nat × Byte)) (o : Bool) : s.Leaves (s.enableStreams d c o) := by
  unfold State.enableStreams
  refine (s.leaves_modDie d _).trans (foldState_leaves _ _ (fun n t => ?_) _)
  exact t.leaves_modDie ..
theorem State.leaves_store (s : State) (d : Nat) (e : PendStore) : s.Leaves (s.store d e) := by
  unfold State.store; dsimp only
  exact ((s.leaves_settleStreams d _).trans (State.leaves_modDie _ d _)).trans (State.leaves_enableStreams ..)
theorem State.leaves_engineStore (s : State) (d pa : Nat) (b : List Byte) (a : Nat) : s.Leaves (s.engineStore d pa b a) := s.leaves_store ..
theorem State.leaves_engineNat (s : State) (d pa n len a : Nat) : s.Leaves (s.engineNat d pa n len a) := s.leaves_store ..
theorem State.leaves_acquireSys (s : State) (d : Nat) : s.Leaves (s.acquireSys d) := .same rfl rfl rfl
theorem State.leaves_freshen (s : State) (d : Nat) (pas : List Nat) : s.Leaves (s.freshen d pas) := by
  unfold State.freshen; split <;> exact .same rfl rfl rfl
theorem State.leaves_viewRise (s : State) (d pa : Nat) : s.Leaves (s.viewRise d pa) := by
  unfold State.viewRise; split <;> exact .same rfl rfl rfl
theorem State.leaves_raiseViews (s : State) (d : Nat) : s.Leaves (s.raiseViews d) := by
  unfold State.raiseViews; dsimp only
  exact foldState_leaves _ _ (fun _ t => by split <;> exact .same rfl rfl rfl) s
theorem State.leaves_raiseOwn (s : State) (a : Nat) : s.Leaves (s.raiseOwn a) := by
  unfold State.raiseOwn
  refine foldState_leaves _ _ (fun n t => ?_) s
  exact t.leaves_modDie ..
theorem State.leaves_ageViews (s : State) (src : Option Nat) (a v : Nat) (c : List (Nat × Byte)) : s.Leaves (s.ageViews src a v c) := by
  unfold State.ageViews; dsimp only
  exact foldState_leaves _ _ (fun _ t => by split <;> [skip; split] <;> exact .same rfl rfl rfl) s
theorem State.leaves_freshenAll (s : State) (pas : List Nat) : s.Leaves (s.freshenAll pas) := by
  unfold State.freshenAll
  refine foldState_leaves _ _ (fun n t => ?_) s
  exact t.leaves_freshen ..
theorem State.leaves_clearL2 (s : State) (u : List Nat) : s.Leaves (s.clearL2 u) := by
  unfold State.clearL2
  refine foldState_leaves _ _ (fun n t => ?_) s
  exact t.leaves_modDie ..
theorem State.leaves_markPoison (s : State) (pa : Nat) : s.Leaves (s.markPoison pa) := by
  unfold State.markPoison; dsimp only; split <;> exact .same rfl rfl rfl
theorem State.leaves_setTileMarks (s : State) (base : Nat) (m : List Bool) : s.Leaves (s.setTileMarks base m) := by
  unfold State.setTileMarks; dsimp only
  refine .after (foldState_leaves _ _ (fun j t => ?_) _) rfl rfl rfl
  split
  · exact t.leaves_markPoison _
  · exact .refl t
theorem State.leaves_writeBack (s : State) (d pa : Nat) : s.Leaves (s.writeBack d pa) := by
  unfold State.writeBack; dsimp only
  split
  · exact .refl s
  · split
    · exact .same rfl rfl rfl
    · split
      · exact (s.leaves_modDie d _).trans (State.leaves_markPoison ..)
      · exact .same rfl rfl rfl

/-! ### Waits, signals and faults -/

theorem State.leaves_endWait (s : State) (k : Nat) : s.Leaves (s.endWait k) := by
  unfold State.endWait; dsimp only
  split
  · exact (s.leaves_unwait k).trans (State.leaves_acquireSys ..)
  · exact s.leaves_unwait k
theorem State.leaves_gainWork (s : State) (d q : Nat) : s.Leaves (s.gainWork d q) := by
  unfold State.gainWork; split <;> exact .same rfl rfl rfl
theorem State.leaves_readyParked (s : State) (n : Nat) : s.Leaves (s.readyParked n) := by
  unfold State.readyParked; split
  · exact (State.leaves_gainWork ..).trans (.same rfl rfl rfl)
  · exact .refl s
theorem State.leaves_settleWaits (s : State) : s.Leaves s.settleWaits := by
  unfold State.settleWaits; dsimp only
  refine (foldState_leaves _ _ (fun w t => ?_) s).trans (foldState_leaves _ _ (fun p t => ?_) _)
  · split
    · split
      · exact t.leaves_endWait _
      · exact .refl t
    · exact .refl t
  · split
    · exact t.leaves_readyParked _
    · exact .refl t
theorem State.leaves_putSem (s : State) (k : Nat) (v : Word) : s.Leaves (s.putSem k v) :=
  .after (State.leaves_settleWaits _) rfl rfl rfl
theorem State.leaves_signalSem (s : State) (k : Nat) (a : Word) : s.Leaves (s.signalSem k a) := s.leaves_putSem ..
theorem State.leaves_applySignal (s : State) (d k v : Nat) : s.Leaves (s.applySignal d k v) := by
  unfold State.applySignal; dsimp only
  split
  · have h := (s.leaves_modDie d fun x => { x with timelines := x.timelines.put k (BitVec.ofNat 64 v) }).trans (State.leaves_settleWaits _)
    split
    · exact h.trans (.same rfl rfl rfl)
    · exact h
  · exact .refl s
theorem State.leaves_signal (s : State) (d c k v : Nat) : s.Leaves (s.signal d c k v) := by
  unfold State.signal; split
  · exact s.leaves_applySignal ..
  · exact .refl s
theorem State.leaves_addFault (s : State) (d : Nat) (f : PFault) : s.Leaves (s.addFault d f) := .same rfl rfl rfl

/-! ### Corrected errors -/

theorem State.leaves_correct (s : State) (x : EccSite) : s.Leaves (s.correct x) := by
  unfold State.correct; dsimp only
  split
  · exact .refl s
  · split <;> exact .same rfl rfl rfl
theorem State.leaves_meetSites (s : State) (f : EccSite → Bool) : s.Leaves (s.meetSites f) := foldState_leaves _ _ (fun x t => t.leaves_correct x) s
theorem State.leaves_meetLine (s : State) (d pa : Nat) : s.Leaves (s.meetLine d pa) := s.leaves_meetSites _

/-! ### Translation -/

theorem State.leaves_chooseOne : ∀ (l : List Nat) (s : State) (n : Nat), s.Leaves (s.chooseOne l n).2
  | [], s, _ => .refl s
  | a :: t, s, n => by
    simp only [State.chooseOne]
    split
    · exact s.leaves_freeBit
    · exact s.leaves_freeBit.trans (State.leaves_chooseOne t _ n)
theorem State.leaves_chooseEntry (s : State) (d : Nat) (c : Option Nat) (asid l va m : Nat) : s.Leaves (s.chooseEntry d c asid l va m).2 :=
  State.leaves_chooseOne ..
theorem State.leaves_cacheWalk (s : State) (d : Nat) (c : Option Nat) (asid l va e : Nat) : s.Leaves (s.cacheWalk d c asid l va e) := by
  unfold State.cacheWalk; dsimp only; split <;> exact .same rfl rfl rfl
theorem State.leaves_walkFrom (d : Nat) (c : Option Nat) (asid va : Nat) : ∀ (n : Nat) (s : State) (t l : Nat),
    s.Leaves (s.walkFrom d c asid va n t l).2
  | 0, s, _, _ => .refl s
  | n + 1, s, t, l => by
    have h0 := s.leaves_meetLine d (t + 8 * fld va (levelShift l) (levelBits l))
    simp only [State.walkFrom]
    generalize s.meetLine d (t + 8 * fld va (levelShift l) (levelBits l)) = z at h0 ⊢
    have h := h0.trans (z.leaves_chooseEntry d c asid l va (z.viewNat d (t + 8 * fld va (levelShift l) (levelBits l)) 8))
    have g := h.trans (State.leaves_cacheWalk _ d c asid l va (z.chooseEntry d c asid l va (z.viewNat d (t + 8 * fld va (levelShift l) (levelBits l)) 8)).1)
    repeat' split
    all_goals first | exact h | exact g | exact g.trans (State.leaves_walkFrom d c asid va n _ _ _)
theorem State.leaves_walk (s : State) (d : Nat) (sp : Space) (va : Nat) (c : Option Nat) : s.Leaves (s.walk d sp va c).2 := by
  unfold State.walk; split
  · exact .refl s
  · exact State.leaves_walkFrom ..
theorem State.leaves_translate (s : State) (d : Nat) (sp : Space) (p w : Bool) (va : Nat) (c : Option Nat) :
    s.Leaves (s.translate d sp p w va c).2 := by
  have h := s.leaves_walk d sp va c
  unfold State.translate; split
  · rename_i hw; rw [hw] at h; exact h
  · rename_i hw; rw [hw] at h; split <;> exact h
theorem State.leaves_leavesOf (d : Nat) (sp : Space) (c : Option Nat) : ∀ (l : List Nat) (s : State), s.Leaves (s.leavesOf d sp c l).2
  | [], s => .refl s
  | va :: t, s => by
    have h := s.leaves_walk d sp va c
    simp only [State.leavesOf]
    split
    · rename_i hw; rw [hw] at h; exact h
    · rename_i s' hw; rw [hw] at h
      have g := State.leaves_leavesOf d sp c t s'
      split <;> (rename_i hl; rw [hl] at g; exact h.trans g)
theorem State.leaves_translateRange (s : State) (d : Nat) (sp : Space) (f : Nat → Bool) (va len : Nat) (c : Option Nat) :
    s.Leaves (s.translateRange d sp f va len c).2 := by
  have h := State.leaves_leavesOf d sp c (granulesOf va len) s
  unfold State.translateRange; split
  · rename_i hl; rw [hl] at h; exact h
  · rename_i hl; rw [hl] at h; split <;> exact h
theorem State.leaves_readVirtual (s : State) (d : Nat) (sp : Space) (p : Bool) (va len : Nat) : s.Leaves (s.readVirtual d sp p va len).2 := by
  have h := s.leaves_translateRange d sp (fun e => readable p e && notControl e) va len none
  unfold State.readVirtual; split <;> (rename_i hl; rw [hl] at h; exact h)

/-! ### QP's stores -/

theorem State.leaves_takeSegment (s : State) (d : Nat) : s.Leaves (s.takeSegment d).2 := by
  unfold State.takeSegment; dsimp only; split
  · exact .refl s
  · exact (s.leaves_modDie d _).trans (State.leaves_engineNat ..)
theorem State.leaves_freeSegment (s : State) (d seg : Nat) : s.Leaves (s.freeSegment d seg) := by
  unfold State.freeSegment; dsimp only
  exact State.Leaves.trans (s.leaves_engineNat d (seg + 0xF80) (s.die d).segpool.toNat 8 qpAgent) (State.leaves_modDie ..)
theorem State.leaves_tailSegment (s : State) (d q : Nat) : s.Leaves (s.tailSegment d q).2 := by
  have set (t : State) (h : s.Leaves t) (f : Queue → Queue) (a n : Nat) : s.Leaves ((t.modQueue d q f).engineNat d a n 8) :=
    h.trans ((t.leaves_modQueue d q f).trans (State.leaves_engineNat ..))
  have h := s.leaves_takeSegment d
  unfold State.tailSegment; dsimp only
  split
  · exact .refl s
  · split
    · exact set s (.refl s) _ _ _
    · split
      · rename_i hl; rw [hl] at h; exact h
      · rename_i hl; rw [hl] at h
        exact set _ (h.trans (State.leaves_engineNat ..)) _ _ _
theorem State.leaves_releaseSegments (d q : Nat) : ∀ (n : Nat) (s : State), s.Leaves (s.releaseSegments d q n)
  | 0, s => .refl s
  | n + 1, s => by
    simp only [State.releaseSegments]
    split
    · refine State.Leaves.trans ?_ (State.leaves_releaseSegments d q n _)
      refine State.Leaves.trans ?_ (State.leaves_engineNat ..)
      split
      · exact s.leaves_modQueue ..
      · exact (s.leaves_modQueue ..).trans (State.leaves_freeSegment ..)
    · exact .refl s
theorem State.leaves_releaseDone (s : State) (d q : Nat) : s.Leaves (s.releaseDone d q) := State.leaves_releaseSegments ..
theorem State.leaves_enqueue (s : State) (d q : Nat) (r : List Byte) : s.Leaves (s.enqueue d q r).2 := by
  have h := s.leaves_tailSegment d q
  unfold State.enqueue; dsimp only
  split
  · exact .refl s
  · split
    · rename_i hl; rw [hl] at h; exact h
    · rename_i hl; rw [hl] at h
      exact (((h.trans (State.leaves_gainWork ..)).trans (State.leaves_engineStore ..)).trans (State.leaves_modQueue ..)).trans
        ((State.leaves_engineNat ..).trans (State.leaves_releaseDone ..))
theorem State.leaves_recordDone (s : State) (d q p : Nat) : s.Leaves (s.recordDone d q p) :=
  (s.leaves_modQueue ..).trans (State.leaves_releaseDone ..)

/-! ### The watch table -/

theorem State.leaves_modWatch (s : State) (e : Nat) (f : Watch → Watch) : s.Leaves (s.modWatch e f) := by
  unfold State.modWatch; split <;> exact .same rfl rfl rfl
theorem State.leaves_placeSpring (s : State) (n slot : Nat) : s.Leaves (s.placeSpring n slot) := by
  unfold State.placeSpring; split <;> exact .same rfl rfl rfl
theorem State.leaves_endSpring (s : State) (slot : Nat) : s.Leaves (s.endSpring slot) := by
  unfold State.endSpring; split <;> exact .same rfl rfl rfl
theorem State.leaves_springRecord (s : State) (e : Nat) (w : Watch) : s.Leaves (s.springRecord e w).2 := State.leaves_readVirtual ..
theorem State.leaves_enqueueSpring (s : State) (e n : Nat) : s.Leaves (s.enqueueSpring e n) := by
  have h := (s.leaves_springRecord e (s.watch e)).trans
    ((s.springRecord e (s.watch e)).2.leaves_enqueue (s.watch e).tdie (s.watch e).queue (s.springRecord e (s.watch e)).1)
  unfold State.enqueueSpring; dsimp only
  split
  · rename_i hl; rw [hl] at h; exact h.trans (State.leaves_placeSpring ..)
  · rename_i hl; rw [hl] at h; exact h.trans (.same rfl rfl rfl)
theorem State.leaves_releaseHeldSpring (s : State) (e : Nat) : s.Leaves (s.releaseHeldSpring e) := by
  unfold State.releaseHeldSpring; split
  · exact .refl s
  · split
    · exact .refl s
    · exact s.leaves_enqueueSpring ..
theorem State.leaves_flood (s : State) (e : Nat) (b : Bool) : s.Leaves (s.flood e b) := by
  unfold State.flood; dsimp only
  exact (((s.leaves_releaseHeldSpring e).trans (State.leaves_modWatch ..)).trans (State.leaves_addFault ..)).trans (State.leaves_note ..)
theorem State.leaves_trigger (s : State) (e g : Nat) : s.Leaves (s.trigger e g) := by
  have h := (s.leaves_modWatch e fun w => w.at_ s.ref).trans (State.leaves_modWatch _ e fun w => { w with trig := w.trig + 1 })
  unfold State.trigger; dsimp only
  split
  · exact h.trans (State.leaves_flood ..)
  · split
    · exact h.trans (.same rfl rfl rfl)
    · split
      · exact h.trans (.after (State.leaves_modWatch ..) rfl rfl rfl)
      · refine State.Leaves.trans (State.Leaves.trans ?_ (State.leaves_modWatch ..)) (State.leaves_enqueueSpring ..)
        exact h.trans (.after (State.leaves_modWatch ..) rfl rfl rfl)
theorem State.leaves_watchCheck (s : State) (w c : List Nat) : s.Leaves (s.watchCheck w c) := by
  unfold State.watchCheck; dsimp only
  refine State.Leaves.trans ?_ (foldState_leaves _ _ (fun e t => ?_) _)
  · split
    · exact s.leaves_freshenAll _
    · exact .refl s
  · split
    · exact .refl t
    · split
      · exact t.leaves_trigger ..
      · exact .refl t

/-! ### What leaves on a port -/

theorem State.leaves_sendTo (s : State) (x : Parcel) : s.Leaves (s.sendTo x) := by
  unfold State.sendTo
  split
  · exact .same rfl rfl rfl
  · split <;> exact .same rfl rfl rfl
theorem State.leaves_sendRequest (s : State) (n : Nat) (o : OutAccess) : s.Leaves (s.sendRequest n o) := by
  unfold State.sendRequest
  split
  · exact s.leaves_sendTo _
  · exact .refl s
theorem State.leaves_sendOutFor (s : State) (o : OutAccess) : s.Leaves (s.sendOutFor o) :=
  .after (State.leaves_sendRequest ..) rfl rfl rfl

/-! ### What reaches the homes -/

theorem State.aside_putHomeByte (s : State) (pa : Nat) (b : Byte) : s.Aside (s.putHomeByte pa b) := .same rfl rfl

theorem State.aside_land (s : State) (src : Option Nat) (a : Nat) (c : List (Nat × Byte)) : s.Aside (s.land src a c) := by
  unfold State.land; dsimp only
  refine State.Aside.trans ?_ (State.leaves_watchCheck ..).toAside
  refine State.Aside.trans ?_ (foldState_leaves _ _ (fun d t => t.leaves_enableStreams d c true) _).toAside
  refine State.Aside.trans ?_ (foldState_aside _ _ (fun (x : Nat × Byte) t => t.aside_putHomeByte x.1 x.2) _)
  have h := (foldState_leaves _ (s.computeDies.filter fun d => some d != src) (fun d t => t.leaves_settleStreams d c) s).trans
    (State.leaves_ageViews _ src a ((foldState (fun d s => s.settleStreams d c) (s.computeDies.filter fun d => some d != src) s).ver + 1) c)
  exact h.toAside.trans (.same rfl rfl)

theorem State.aside_landStore (s : State) (src : Option Nat) (e : PendStore) : s.Aside (s.landStore src e) := by
  have h : s.Aside { s.clearL2 (wholeUnits e.pa e.data.length) with
      poison := s.poison.filter fun u => !(wholeUnits e.pa e.data.length).contains u } := (s.leaves_clearL2 _).toAside.trans (.same rfl rfl)
  unfold State.landStore; dsimp only
  split
  · refine h.trans (foldState_aside _ _ (fun x t => ?_) _)
    exact .same rfl rfl
  · refine State.Aside.trans ?_ (State.aside_land ..)
    split
    · exact h.trans (foldState_leaves _ _ (fun u t => t.leaves_markPoison _) _).toAside
    · exact h

theorem State.aside_rewriteTile (s : State) (d a base : Nat) (m : Option Nat) (k : Nat) (b : List Byte) : s.Aside (s.rewriteTile d a base m k b) :=
  ((s.leaves_settleStreams ..).toAside.trans (State.aside_land ..)).trans (State.leaves_enableStreams ..).toAside

theorem State.aside_landTile (s : State) (d : Nat) (e : PendStore) : s.Aside (s.landTile d e) := by
  have h := (s.leaves_freshen d (s.tileBytes e.pa)).toAside
  unfold State.landTile; dsimp only
  refine State.Aside.trans ?_ ((State.leaves_setTileMarks ..).trans (State.leaves_clearL2 ..)).toAside
  split <;> exact h.trans (State.aside_rewriteTile ..)

theorem State.aside_landAll (d : Nat) : ∀ (l : List PendStore) (s : State), s.Aside (s.landAll d l)
  | [], s => .refl s
  | e :: t, s => by
    have h : s.Aside (if e.rel then s.raiseViews d else s) := by
      split
      · exact (s.leaves_raiseViews d).toAside
      · exact .refl s
    simp only [State.landAll]
    generalize (if e.rel then s.raiseViews d else s) = z at h ⊢
    split
    · exact (h.trans (State.leaves_signalSem ..).toAside).trans (State.aside_landAll d t _)
    · have g : z.Aside (if e.data.isEmpty then z else if e.tile then z.landTile d e else z.landStore (some d) e) := by
        split
        · exact .refl z
        · split
          · exact z.aside_landTile ..
          · exact z.aside_landStore ..
      generalize (if e.data.isEmpty then z else if e.tile then z.landTile d e else z.landStore (some d) e) = y at g ⊢
      refine ((h.trans g).trans ?_).trans (State.aside_landAll d t _)
      split
      · exact (State.leaves_raiseOwn ..).toAside
      · exact .refl _

theorem State.aside_flushSome (s : State) (d : Nat) (sel : List Bool) : s.Aside (s.flushSome d sel) :=
  (s.leaves_modDie d _).toAside.trans (State.aside_landAll ..)
theorem State.aside_flushAll (s : State) (d : Nat) : s.Aside (s.flushAll d) := s.aside_flushSome ..
theorem State.aside_flushBefore (s : State) (d : Nat) (a : List Nat) (r : List (Nat × Nat)) : s.Aside (s.flushBefore d a r) := s.aside_flushSome ..
theorem State.aside_flushFor (s : State) (d a pa len : Nat) : s.Aside (s.flushFor d a pa len) := s.aside_flushSome ..
theorem State.aside_releaseSys (s : State) (d : Nat) : s.Aside (s.releaseSys d) := (s.aside_flushAll d).trans (State.leaves_raiseViews ..).toAside
theorem State.aside_storeAtHome (s : State) (d a pa : Nat) (b : List Byte) : s.Aside (s.storeAtHome d a pa b) :=
  (((s.aside_flushFor ..).trans (State.leaves_settleStreams ..).toAside).trans (State.aside_landStore ..)).trans (State.leaves_enableStreams ..).toAside
theorem State.aside_putAtHome (s : State) (d a pa : Nat) (r : Bool) (b : List Byte) : s.Aside (s.putAtHome d a pa r b) := by
  unfold State.putAtHome; split
  · exact s.aside_landTile ..
  · exact s.aside_storeAtHome ..
theorem State.aside_enterTile (s : State) (d a pa : Nat) : s.Aside (s.enterTile d a pa) :=
  (s.aside_flushFor d a _ 256).trans (State.leaves_freshen ..).toAside
theorem State.aside_takeHome (s : State) (d a pa : Nat) (r : Bool) (n : Nat) : s.Aside (s.takeHome d a pa r n).2 := by
  unfold State.takeHome; split
  · exact s.aside_enterTile ..
  · exact (s.aside_flushFor d a pa n).trans (State.leaves_freshen ..).toAside

/-- An access that does not wait for a region's change of owner happens beside the issue. -/
theorem State.aside_touchRgn (s : State) (d pa : Nat) (r : Bool) (hb : (s.touchRgn d pa r).cur.blocked = false) : s.Aside (s.touchRgn d pa r) := by
  have h := (s.leaves_meetLine d pa).toAside
  revert hb
  unfold State.touchRgn; dsimp only
  split
  · split
    · exact fun _ => h
    · split
      · exact fun hb => absurd hb (by simp)
      · exact fun _ => ((h.trans (State.aside_flushBefore ..)).trans (State.leaves_raiseViews ..).toAside).trans (.same rfl rfl)
  · split
    · exact fun _ => h.trans (.same rfl rfl)
    · exact fun _ => h

end Sys2Proof.Machine
end

