-- ==== Sys2Proof/Laws/GoesOn.lean ====
section
/-! SUPPORT. Laws of going on to the next unit: advance and takeColumns, and how changes of one wave alone compose. -/

namespace Sys2Proof.Machine

open Sys2Proof

/-! ### Changes of one wave -/

theorem State.OnlyWave.refl (s : State) : s.OnlyWave s := ⟨rfl, fun _ _ => rfl, fun _ => rfl⟩

theorem State.OnlyWave.cur {s t : State} (h : s.OnlyWave t) : t.cur = s.cur := by rw [h.rest]

theorem State.OnlyWave.trans {s t u : State} (h : s.OnlyWave t) (g : t.OnlyWave u) : s.OnlyWave u := by
  refine ⟨?_, fun k hk => ?_, fun c => ?_⟩
  · have h1 := h.rest
    have g1 := g.rest
    rw [h1] at g1
    exact g1
  · rw [g.waves k (by rw [h.cur]; exact hk), h.waves k hk]
  · rw [g.cores c, h.cores c]

theorem State.onlyWave_modWave (s : State) (f : Wave → Wave) : s.OnlyWave (s.modWave s.cur.wave f) := by
  refine ⟨?_, fun k hk => State.wave_modWave_other s _ _ f hk, fun c => ?_⟩
  · unfold State.modWave; split <;> rfl
  · unfold State.modWave; split <;> rfl

theorem State.me_modWave (s : State) (f : Wave → Wave) (h : (s.waves.find s.cur.wave).isSome) :
    (s.modWave s.cur.wave f).me = f s.me := by
  have : (s.modWave s.cur.wave f).cur = s.cur := by simp
  rw [State.me, this]
  exact State.wave_modWave_same s _ f h

/-! ### advance -/

theorem State.onlyWave_advance (s : State) (ps : List Nat) (j : Tab Word) : s.OnlyWave (s.advance ps j) := State.onlyWave_modWave s _

@[simp] theorem Wave.advance_length (w : Wave) (ps : List Nat) (n : Word) (j : Tab Word) : (w.advance ps n j).threads.length = w.threads.length := by
  simp [Wave.advance]
@[simp] theorem Wave.advance_w (w : Wave) (ps : List Nat) (n : Word) (j : Tab Word) : (w.advance ps n j).w = w.w := rfl
@[simp] theorem Wave.advance_base (w : Wave) (ps : List Nat) (n : Word) (j : Tab Word) : (w.advance ps n j).base = w.base := rfl

theorem Wave.advance_thread (w : Wave) (ps : List Nat) (n : Word) (j : Tab Word) (p : Nat) (hp : p < w.threads.length) :
    (w.advance ps n j).thread p = if p ∈ ps then (w.thread p).goTo (j.get n p) else w.thread p := by
  simp only [Wave.advance, Wave.thread, List.getD_eq_getElem?_getD, List.getElem?_zipWith, List.getElem?_range hp,
    List.getElem?_eq_getElem hp, Option.getD_some, List.contains_eq_mem, decide_eq_true_eq]

theorem Wave.advance_beyond (w : Wave) (ps : List Nat) (n : Word) (j : Tab Word) (p : Nat) (hp : w.threads.length ≤ p) :
    (w.advance ps n j).thread p = w.thread p := by
  simp only [Wave.advance, Wave.thread, List.getD_eq_getElem?_getD, List.getElem?_zipWith]
  rw [List.getElem?_eq_none hp]
  simp

theorem Wave.advance_rest (w : Wave) (ps : List Nat) (n : Word) (j : Tab Word) :
    w.advance ps n j = { w with threads := (w.advance ps n j).threads } := rfl

/-! ### takeColumns -/

/-- What takeColumns leaves: drain positions of the wave's own threads, and drain contexts, may differ. -/
structure State.Columns (s t : State) : Prop where
  thread : ∀ p, ∃ n, t.me.thread p = (s.me.thread p).skipColumns n
  wave : t.me = { s.me with threads := t.me.threads }
  only : s.OnlyWave t
  find : (t.waves.find t.cur.wave).isSome = (s.waves.find s.cur.wave).isSome

theorem Thread.skipColumns_zero (t : Thread) : t.skipColumns 0 = t := rfl
theorem Thread.skipColumns_add (t : Thread) (a b : Nat) : (t.skipColumns a).skipColumns b = t.skipColumns (a + b) := by
  simp [Thread.skipColumns, Nat.add_assoc]

theorem State.Columns.refl (s : State) : s.Columns s := ⟨fun _ => ⟨0, rfl⟩, rfl, State.OnlyWave.refl s, rfl⟩

theorem State.Columns.trans {s t u : State} (h : s.Columns t) (g : t.Columns u) : s.Columns u := by
  refine ⟨fun p => ?_, ?_, h.only.trans g.only, g.find.trans h.find⟩
  · obtain ⟨a, ha⟩ := h.thread p
    obtain ⟨b, hb⟩ := g.thread p
    exact ⟨a + b, by rw [hb, ha, Thread.skipColumns_add]⟩
  · have h1 := h.wave
    have g1 := g.wave
    rw [h1] at g1
    exact g1

theorem State.columns_skip (s : State) (p n : Nat) : s.Columns (s.modThread s.cur.wave p fun x => x.skipColumns n) := by
  by_cases hf : (s.waves.find s.cur.wave).isSome
  · have hme : (s.modThread s.cur.wave p fun x => x.skipColumns n).me = s.me.modThread p fun x => x.skipColumns n := State.me_modWave s _ hf
    refine ⟨fun q => ?_, ?_, State.onlyWave_modWave s _, ?_⟩
    · rw [hme]
      by_cases hq : q = p
      · subst hq
        by_cases hl : q < s.me.threads.length
        · exact ⟨n, Wave.thread_modThread_same _ _ _ hl⟩
        · exact ⟨0, by rw [Wave.modThread_beyond _ _ _ (Nat.le_of_not_lt hl)]; rfl⟩
      · exact ⟨0, by rw [Wave.thread_modThread_other _ _ _ _ hq]; rfl⟩
    · rw [hme]; rfl
    · simp [State.modThread, State.find_modWave]
  · have he : s.waves.find s.cur.wave = none := by simpa using hf
    have hs : (s.modThread s.cur.wave p fun x => x.skipColumns n) = s := by simp [State.modThread, State.modWave, he]
    rw [hs]
    exact State.Columns.refl s

theorem State.columns_fold (n : Nat → Nat) (ps : List Nat) (m : Nat → Bool) (s : State) :
    s.Columns (foldState (fun p t => if m p then t else t.modThread s.cur.wave p fun x => x.skipColumns (n p)) ps s) := by
  suffices h : ∀ t : State, s.Columns t →
      s.Columns (foldState (fun p t => if m p then t else t.modThread s.cur.wave p fun x => x.skipColumns (n p)) ps t) from
    h s (State.Columns.refl s)
  induction ps with
  | nil => exact fun t ht => ht
  | cons a l ih =>
    intro t ht
    refine ih _ ?_
    dsimp only
    split
    · exact ht
    · have hc : t.cur = s.cur := ht.only.cur
      rw [← hc]
      exact ht.trans (State.columns_skip t a (n a))

theorem State.columns_settle (s : State) : s.Columns (s.settleDrains s.cur.wave) := by
  refine ⟨fun _ => ⟨0, rfl⟩, rfl, ⟨rfl, fun _ _ => rfl, fun c => ?_⟩, rfl⟩
  unfold State.settleDrains
  by_cases h : c = coreOfWave s.cur.wave
  · subst h; rw [State.core_modCore_same]
  · rw [State.core_modCore_other _ _ _ _ h]

theorem State.columns_takeColumns (s : State) (i : Instr) (ps : List Nat) : s.Columns (s.takeColumns i ps) := by
  unfold State.takeColumns
  dsimp only
  split
  · exact State.Columns.refl s
  · have h := State.columns_fold (fun p => ((s.sources i p).filter (· == 0xFC)).length) ps (fun p => s.masked p) s
    have g := State.columns_settle
      (foldState (fun p t => if s.masked p then t else t.modThread s.cur.wave p fun x =>
        x.skipColumns (((s.sources i p).filter (· == 0xFC)).length)) ps s)
    rw [h.only.cur] at g
    exact h.trans g

/-! ### Reads after going on -/

@[simp] theorem Thread.goTo_v (t : Thread) (a : Word) : (t.goTo a).v = t.v := rfl
@[simp] theorem Thread.goTo_o (t : Thread) (a : Word) : (t.goTo a).o = t.o := rfl
@[simp] theorem Thread.goTo_latch (t : Thread) (a : Word) (k : Nat) : (t.goTo a).latch k = t.latch k := rfl
@[simp] theorem Thread.skipColumns_v (t : Thread) (n : Nat) : (t.skipColumns n).v = t.v := rfl
@[simp] theorem Thread.skipColumns_o (t : Thread) (n : Nat) : (t.skipColumns n).o = t.o := rfl
@[simp] theorem Thread.skipColumns_latch (t : Thread) (n k : Nat) : (t.skipColumns n).latch k = t.latch k := rfl

theorem Wave.readCode_advance (w : Wave) (ps : List Nat) (n : Word) (j : Tab Word) (p : Nat) (c : Code) :
    (w.advance ps n j).readCode p c = w.readCode p c := by
  have ht : (w.advance ps n j).thread p = w.thread p ∨ ∃ a, (w.advance ps n j).thread p = (w.thread p).goTo a := by
    by_cases hp : p < w.threads.length
    · have h := Wave.advance_thread w ps n j p hp
      split at h
      · exact .inr ⟨_, h⟩
      · exact .inl h
    · exact .inl (Wave.advance_beyond w ps n j p (Nat.le_of_not_lt hp))
  rcases ht with h | ⟨a, h⟩ <;> refine Wave.readCode_congr ?_ ?_ (fun k => ?_) (Wave.advance_w ..) (Wave.advance_base ..) c <;> simp [h]

theorem State.Columns.readCode {s t : State} (h : s.Columns t) (p : Nat) (c : Code) : t.me.readCode p c = s.me.readCode p c := by
  obtain ⟨n, hn⟩ := h.thread p
  have hw := h.wave
  refine Wave.readCode_congr ?_ ?_ (fun k => ?_) (by rw [hw]) (by rw [hw]) c <;> simp [hn]

/-! ### Moving on -/

/-- A unit is issued in `u`, as far as going on asks: its wave stands in its slot and has the group's threads. -/
structure State.Stands (u : State) : Prop where
  find : (u.waves.find u.cur.wave).isSome = true
  lt : ∀ p ∈ u.cur.group, p < u.me.threads.length

theorem State.issuing_stands {s : State} (h : s.issuing = true) : s.Stands := ⟨State.issuing_find h, fun _ hp => State.issuing_lt h hp⟩

theorem Thread.goTo_core (t : Thread) (a : Word) (n : Nat) :
    { (t.goTo a).skipColumns n with pc := 0, drainPos := 0 } = { t with pc := 0, drainPos := 0 } := rfl
theorem Thread.skip_core (t : Thread) (n : Nat) : { t.skipColumns n with pc := 0, drainPos := 0 } = { t with pc := 0, drainPos := 0 } := rfl

/-- Members of the group that go on, all of them and nowhere but to the next unit. -/
theorem State.movesOn {u : State} (h : u.Stands) (i : Instr) : u.MovesOn ((u.advance u.cur.group []).takeColumns i u.cur.group) := by
  have hadv : (u.advance u.cur.group []).me = u.me.advance u.cur.group u.nextAddr [] := State.me_modWave u _ h.find
  have hcol := State.columns_takeColumns (u.advance u.cur.group []) i u.cur.group
  refine ⟨fun p hp => ?_, fun p hp => ?_, fun p => ?_, ?_, (State.onlyWave_advance _ _ _).trans hcol.only⟩
  · obtain ⟨n, hn⟩ := hcol.thread p
    rw [hn, hadv, Wave.advance_thread _ _ _ _ _ (h.lt p hp), if_pos hp]; rfl
  · obtain ⟨n, hn⟩ := hcol.thread p
    rw [hn, hadv]
    by_cases hl : p < u.me.threads.length
    · rw [Wave.advance_thread _ _ _ _ _ hl, if_neg hp]; rfl
    · rw [Wave.advance_beyond _ _ _ _ _ (Nat.le_of_not_lt hl)]; rfl
  · obtain ⟨n, hn⟩ := hcol.thread p
    rw [hn, hadv]
    by_cases hl : p < u.me.threads.length
    · rw [Wave.advance_thread _ _ _ _ _ hl]
      split
      · exact Thread.goTo_core _ _ n
      · exact Thread.skip_core _ n
    · rw [Wave.advance_beyond _ _ _ _ _ (Nat.le_of_not_lt hl)]
      exact Thread.skip_core _ n
  · have hw := hcol.wave
    rw [hadv, Wave.advance_rest] at hw
    exact hw

/-- A body that all members complete. -/
theorem State.runUnit_all {s : State} {i : Instr} (h : s.passes i = true) (f : State → List Nat → State) {u : State} (hu : f s s.cur.group = u)
    (hc : u.cur = s.cur) (hs : u.Stands) : u.MovesOn (s.runUnit i 0 (allDone f)) := by
  have hh := State.issuing_clear (State.passes_issuing h)
  rw [State.runUnit_passes h (allDone f) (by simpa only [allDone, hu, hc] using hh)]
  simp only [allDone, hu, State.deliverAll_nil]
  rw [← hc]
  exact State.movesOn hs i

theorem State.runUnit_readingAll {s : State} {i : Instr} (h : s.passes i = true) (f : State → List Nat → State) {u : State}
    (hu : f s s.cur.group = u) (hc : u.cur = s.cur) (hs : u.Stands) : u.MovesOn (s.runUnit i 0 (reading i (allDone f))) := by
  have hh := State.issuing_clear (State.passes_issuing h)
  rw [State.runUnit_passes h _ (by simpa only [reading_passes h, allDone, hu, hc] using hh), reading_passes h]
  simp only [allDone, hu, State.deliverAll_nil]
  rw [← hc]
  exact State.movesOn hs i

/-- The lowest member of the group. -/
theorem State.group_cons {s : State} {i : Instr} (h : s.passes i = true) : ∃ t, s.cur.group = s.cur.group.headD 0 :: t := by
  have := State.issuing_nonempty (State.passes_issuing h)
  cases hg : s.cur.group with
  | nil => exact absurd hg this
  | cons a t => exact ⟨t, rfl⟩

/-- An instruction executed once per issue, that raises nothing. -/
theorem State.runUnit_once {s : State} {i : Instr} (h : s.passes i = true) (f : State → Nat → Except Raised State) {u : State}
    (hu : f s (s.cur.group.headD 0) = .ok u) (hc : u.cur = s.cur) (hs : u.Stands) : u.MovesOn (s.runUnit i 0 (once f)) := by
  have hh := State.issuing_clear (State.passes_issuing h)
  obtain ⟨l, hl⟩ := State.group_cons h
  have ho : once f s s.cur.group = { st := u, ok := s.cur.group, raised := [] } := by
    have hb : u.cur.blocked = false := by rw [hc]; exact hh.blocked
    rw [hl]; simp only [once, hu, hb, Bool.false_eq_true, if_false]
  rw [State.runUnit_passes h _ (by simpa only [ho, hc] using hh), ho]
  simp only [State.deliverAll_nil]
  rw [← hc]
  exact State.movesOn hs i

theorem State.runUnit_readingOnce {s : State} {i : Instr} (h : s.passes i = true) (f : State → Nat → Except Raised State) {u : State}
    (hu : f s (s.cur.group.headD 0) = .ok u) (hc : u.cur = s.cur) (hs : u.Stands) : u.MovesOn (s.runUnit i 0 (reading i (once f))) := by
  have hh := State.issuing_clear (State.passes_issuing h)
  obtain ⟨l, hl⟩ := State.group_cons h
  have ho : once f s s.cur.group = { st := u, ok := s.cur.group, raised := [] } := by
    have hb : u.cur.blocked = false := by rw [hc]; exact hh.blocked
    rw [hl]; simp only [once, hu, hb, Bool.false_eq_true, if_false]
  rw [State.runUnit_passes h _ (by simpa only [reading_passes h, ho, hc] using hh), reading_passes h, ho]
  simp only [State.deliverAll_nil]
  rw [← hc]
  exact State.movesOn hs i

/-- Going on may begin in a state that differs in the slots of other waves' table alone: its own wave is the same. -/
theorem State.MovesOn.after {u v t : State} (h : u.OnlyWave v) (m : v.me = u.me) (g : v.MovesOn t) : u.MovesOn t := by
  have hc := h.cur
  have hn : v.nextAddr = u.nextAddr := by simp only [State.nextAddr, hc]
  refine ⟨fun p hp => ?_, fun p hp => ?_, fun p => ?_, ?_, h.trans g.only⟩
  · rw [g.pc p (by rw [hc]; exact hp), hn]
  · rw [g.pcOthers p (by rw [hc]; exact hp), m]
  · rw [g.threads p, m]
  · have w := g.wave
    rw [m] at w
    exact w

theorem State.withW_find (u : State) (b : Bool) (w : Tab Word) :
    ((u.withW b w).waves.find u.cur.wave).isSome = (u.waves.find u.cur.wave).isSome := by
  unfold State.withW
  split
  · simp [State.find_modWave]
  · rfl

/-- W registers that take other values and their own again. -/
theorem State.withW_back {u : State} (hs : u.Stands) (w : Tab Word) :
    u.OnlyWave ((u.withW true w).withW true u.me.w) ∧ ((u.withW true w).withW true u.me.w).me = u.me := by
  have h1 : (u.withW true w).me = { u.me with w := w } := State.me_modWave u _ hs.find
  have o1 : u.OnlyWave (u.withW true w) := State.onlyWave_modWave u _
  have f1 : ((u.withW true w).waves.find (u.withW true w).cur.wave).isSome = true := by
    rw [o1.cur]; simp [State.withW, State.find_modWave, hs.find]
  refine ⟨o1.trans (State.onlyWave_modWave _ _), ?_⟩
  have h2 := State.me_modWave (u.withW true w) (fun x => { x with w := u.me.w }) f1
  rw [h1] at h2
  exact h2

/-- At the first pass over a unit, acting in turn is acting one after another. -/
theorem inTurn_first {s : State} (hl : s.cur.led = false) (f : Bool → State → Nat → Except Raised State) (ps : List Nat) :
    inTurn f s ps = eachMember f true s ps := by
  simp [inTurn, hl, State.withW]

/-- Members that act one after another, when the group is one thread and it completes. -/
theorem State.runUnit_member {s : State} {i : Instr} (h : s.passes i = true) (f : Bool → State → Nat → Except Raised State) {u : State} {p : Nat}
    (hg : s.cur.group = [p]) (hu : f true s p = .ok u) (hc : u.cur = s.cur) (hs : u.Stands) :
    u.MovesOn (s.runUnit i 0 (eachMember f true)) := by
  have hh := State.issuing_clear (State.passes_issuing h)
  obtain ⟨ob, mb⟩ := State.withW_back hs s.me.w
  have hv : ((u.withW true s.me.w).withW true u.me.w).cur = s.cur := ob.cur.trans hc
  have hf := State.withW_find u true s.me.w
  have hg' := State.withW_find (u.withW true s.me.w) true u.me.w
  rw [show (u.withW true s.me.w).cur = u.cur from (State.onlyWave_modWave u _).cur] at hg'
  have ho : eachMember f true s s.cur.group = { st := (u.withW true s.me.w).withW true u.me.w, ok := s.cur.group, raised := [] } := by
    have hb : u.cur.blocked = false := by rw [hc]; exact hh.blocked
    have ha : u.cur.away = false := by rw [hc]; exact State.issuing_away (State.passes_issuing h)
    rw [hg]; simp only [eachMember, hu, hb, ha, Bool.false_eq_true, if_false]
  rw [State.runUnit_passes h _ (by simpa only [ho, hv] using hh), ho]
  simp only [State.deliverAll_nil]
  refine State.MovesOn.after ob mb ?_
  rw [← hv]
  refine State.movesOn ⟨?_, fun p hp => ?_⟩ i
  · rw [hv, ← hc, hg', hf]; exact hs.find
  · rw [mb]; rw [ob.cur] at hp; exact hs.lt p hp

end Sys2Proof.Machine
end

