-- ==== Sys2Proof/Laws/Lane.lean ====
section
/-! SUPPORT. What a lane instruction can do (R17, R46, R78): the spec lemmas of laneOp, laneOp64 and laneNarrow's register part. -/

namespace Sys2Proof.Machine

open Sys2Proof

/-! ### One thread -/

/-- A thread whose V or O register takes a value. -/
def Thread.write (t : Thread) (c : Code) (x : Word) : Thread :=
  if c.toNat < 0xE0 then t.putV c.toNat x else if c.toNat < 0xF0 then t else if c.toNat < 0xF8 then t.putO c.toNat x else t

theorem Wave.writeCode_thread_same (w : Wave) (p : Nat) (c : Code) (x : Word) (hp : p < w.threads.length) :
    (w.writeCode p c x).thread p = (w.thread p).write c x := by
  rcases code_cases c with h | h | h | h
  · simp [Wave.writeCode_v _ _ _ _ h, Wave.thread_modThread_same _ _ _ hp, Thread.write, h]
  · simp [Wave.writeCode_isW _ _ _ _ h.1 h.2, Thread.write, Nat.not_lt.mpr h.1, h.2]
  · simp [Wave.writeCode_o _ _ _ _ h.1 h.2, Wave.thread_modThread_same _ _ _ hp, Thread.write, Nat.not_lt.mpr h.1, h.2,
      show ¬ c.toNat < 0xE0 by omega]
  · simp [Wave.writeCode_none _ _ _ _ h, Thread.write, Nat.not_lt.mpr h, show ¬ c.toNat < 0xE0 by omega, show ¬ c.toNat < 0xF0 by omega]

theorem Thread.write_isW (t : Thread) (c : Code) (x : Word) (h : isW c = true) : t.write c x = t := by
  have h := (isW_iff c).mp h
  simp [Thread.write, Nat.not_lt.mpr h.1, h.2]

@[simp] theorem Thread.write_bare (t : Thread) (c : Code) (x : Word) : (t.write c x).bare = t.bare := by
  unfold Thread.write
  split
  · rfl
  · split
    · rfl
    · split <;> rfl

@[simp] theorem Thread.push_v (t : Thread) (l : Latch) : (t.push l).v = t.v := rfl
@[simp] theorem Thread.push_o (t : Thread) (l : Latch) : (t.push l).o = t.o := rfl

/-- A register that a thread has just been given reads so. -/
theorem Wave.readCode_of_write {w : Wave} {p : Nat} {t : Thread} {c : Code} {x : Word}
    (hv : (w.thread p).v = (t.write c x).v) (ho : (w.thread p).o = (t.write c x).o) (hw : isW c = false) (hc : c.toNat < 0xF8) :
    w.readCode p c = x := by
  rcases code_cases c with h | h | h | h
  · simp [Wave.readCode, h, hv, Thread.write]
  · rw [(isW_iff c).mpr h] at hw; exact absurd hw (by decide)
  · simp [Wave.readCode, show ¬ c.toNat < 0xE0 by omega, Nat.not_lt.mpr h.1, h.2, ho, Thread.write]
  · omega

/-- A register code reads the same when V, O and W do. -/
theorem Wave.readCode_regs {w w' : Wave} {p : Nat} {c : Code} (hc : c.toNat < 0xF8) (hv : (w'.thread p).v = (w.thread p).v)
    (ho : (w'.thread p).o = (w.thread p).o) (hw : w'.w = w.w) : w'.readCode p c = w.readCode p c := by
  simp only [Wave.readCode, hv, ho, hw]
  split
  · rfl
  · split
    · rfl
    · rfl

/-- A V or O register reads the same when the thread's do. -/
theorem Wave.readCode_regs' {w w' : Wave} {p : Nat} {c : Code} (hW : isW c = false) (hc : c.toNat < 0xF8)
    (hv : (w'.thread p).v = (w.thread p).v) (ho : (w'.thread p).o = (w.thread p).o) : w'.readCode p c = w.readCode p c := by
  rcases code_cases c with h | h | h | h
  · simp [Wave.readCode, h, hv]
  · rw [(isW_iff c).mpr h] at hW; exact absurd hW (by decide)
  · simp [Wave.readCode, show ¬ c.toNat < 0xE0 by omega, Nat.not_lt.mpr h.1, h.2, ho]
  · omega

/-! ### One member's destination -/

@[simp] theorem Wave.land_length (w : Wave) (lead : Bool) (p : Nat) (c : Code) (v : Word) :
    (w.land lead p c v).threads.length = w.threads.length := by unfold Wave.land; split <;> simp

/-- The wave after a member's destination is written, before the push. -/
def Wave.landed (w old : Wave) (lead zero masked : Bool) (p : Nat) (c : Code) (v : Word) : Wave :=
  if masked && (!zero || isW c) then w else w.land lead p c (old.received zero masked p c v).val

theorem Wave.dst_eq (w old : Wave) (lead zero masked : Bool) (p : Nat) (c : Code) (v : Word) :
    w.dst old lead zero masked p c v = (w.landed old lead zero masked p c v).modThread p fun t => t.push (old.received zero masked p c v) := rfl

@[simp] theorem Wave.landed_length (w old : Wave) (lead zero masked : Bool) (p : Nat) (c : Code) (v : Word) :
    (w.landed old lead zero masked p c v).threads.length = w.threads.length := by unfold Wave.landed; split <;> simp

@[simp] theorem Wave.dst_length (w old : Wave) (lead zero masked : Bool) (p : Nat) (c : Code) (v : Word) :
    (w.dst old lead zero masked p c v).threads.length = w.threads.length := by simp [Wave.dst_eq]

theorem Wave.land_rest (w : Wave) (lead : Bool) (p : Nat) (c : Code) (v : Word) :
    w.land lead p c v = { w with threads := (w.land lead p c v).threads, w := (w.land lead p c v).w, collector := (w.land lead p c v).collector } := by
  unfold Wave.land
  split
  · rfl
  · exact Wave.writeCode_rest w p c v

theorem Wave.dst_rest (w old : Wave) (lead zero masked : Bool) (p : Nat) (c : Code) (v : Word) :
    ∃ ts ws cs, w.dst old lead zero masked p c v = { w with threads := ts, w := ws, collector := cs } := by
  rw [Wave.dst_eq]
  unfold Wave.landed
  split
  · exact ⟨_, _, _, rfl⟩
  · rw [Wave.land_rest]
    exact ⟨_, _, _, rfl⟩

theorem Wave.dst_thread_other (w old : Wave) (lead zero masked : Bool) (p q : Nat) (c : Code) (v : Word) (hq : q ≠ p) :
    (w.dst old lead zero masked p c v).thread q = w.thread q := by
  rw [Wave.dst_eq, Wave.thread_modThread_other _ _ _ _ hq]
  unfold Wave.landed Wave.land
  split
  · rfl
  · split
    · rfl
    · exact Wave.writeCode_thread_other _ _ _ _ _ hq

/-- The thread of a member after its destination is written and its latch pushed. -/
def Thread.given (t : Thread) (zero masked : Bool) (c : Code) (got : Latch) : Thread :=
  (if masked && (!zero || isW c) then t else t.write c got.val).push got

theorem Wave.dst_thread (w old : Wave) (lead zero masked : Bool) (p : Nat) (c : Code) (v : Word) (hp : p < w.threads.length) :
    (w.dst old lead zero masked p c v).thread p = (w.thread p).given zero masked c (old.received zero masked p c v) := by
  rw [Wave.dst_eq, Wave.thread_modThread_same _ _ _ (by simpa using hp)]
  unfold Wave.landed Wave.land Thread.given
  by_cases h1 : (masked && (!zero || isW c)) = true
  · simp only [h1, if_true]
  · simp only [h1, Bool.false_eq_true, if_false]
    by_cases h2 : (isW c && !lead) = true
    · simp only [h2, if_true]
      have hW : isW c = true := by simp only [Bool.and_eq_true] at h2; exact h2.1
      rw [Thread.write_isW _ _ _ hW]
    · simp only [h2, Bool.false_eq_true, if_false, Wave.writeCode_thread_same _ _ _ _ hp]

/-- The W registers after a member's destination is written. -/
theorem Wave.dst_w (w old : Wave) (lead zero masked : Bool) (p : Nat) (c : Code) (v : Word) :
    (w.dst old lead zero masked p c v).w = if isW c && lead && !masked then (w.writeCode p c v).w else w.w := by
  rw [Wave.dst_eq, Wave.modThread_w]
  unfold Wave.landed Wave.land
  by_cases hW : isW c = true
  · cases masked <;> cases lead <;> simp [hW, Wave.received]
  · have hW : isW c = false := by simpa using hW
    simp only [hW, Bool.false_and, Bool.false_eq_true, if_false, Bool.or_false]
    split
    · rfl
    · exact Wave.writeCode_w _ _ _ _ hW

/-! ### All members -/

theorem writeLanes_length (old : Wave) (vp : VPrefix) (mask : Nat → Bool) (lead : Option Nat) (d : Code) (f : Nat → Word) (ps : List Nat) (w : Wave) :
    (writeLanes old vp mask lead d f ps w).threads.length = w.threads.length := by
  induction ps generalizing w with
  | nil => rfl
  | cons a t ih => simp [writeLanes, ih]

theorem writeLanes_rest (old : Wave) (vp : VPrefix) (mask : Nat → Bool) (lead : Option Nat) (d : Code) (f : Nat → Word) (ps : List Nat) (w : Wave) :
    ∃ ts ws cs, writeLanes old vp mask lead d f ps w = { w with threads := ts, w := ws, collector := cs } := by
  induction ps generalizing w with
  | nil => exact ⟨_, _, _, rfl⟩
  | cons a t ih =>
    obtain ⟨ts, ws, cs, h⟩ := Wave.dst_rest w old (lead == some a) vp.zero (mask a) a d (f a)
    obtain ⟨ts', ws', cs', h'⟩ := ih (w.dst old (lead == some a) vp.zero (mask a) a d (f a))
    refine ⟨ts', ws', cs', ?_⟩
    rw [writeLanes, h', h]

theorem writeLanes_notin (old : Wave) (vp : VPrefix) (mask : Nat → Bool) (lead : Option Nat) (d : Code) (f : Nat → Word) (ps : List Nat) (w : Wave)
    (q : Nat) (hq : q ∉ ps) : (writeLanes old vp mask lead d f ps w).thread q = w.thread q := by
  induction ps generalizing w with
  | nil => rfl
  | cons a t ih =>
    simp only [List.mem_cons, not_or] at hq
    rw [writeLanes, ih _ hq.2, Wave.dst_thread_other _ _ _ _ _ _ _ _ _ hq.1]

theorem writeLanes_mem (old : Wave) (vp : VPrefix) (mask : Nat → Bool) (lead : Option Nat) (d : Code) (f : Nat → Word) (ps : List Nat) (w : Wave)
    (hn : ps.Nodup) (p : Nat) (hp : p ∈ ps) (hl : p < w.threads.length) :
    (writeLanes old vp mask lead d f ps w).thread p =
      (w.thread p).given vp.zero (mask p) d (old.received vp.zero (mask p) p d (f p)) := by
  induction ps generalizing w with
  | nil => simp at hp
  | cons a t ih =>
    obtain ⟨ha, hn⟩ := List.nodup_cons.mp hn
    rw [writeLanes]
    by_cases h : p = a
    · subst h
      rw [writeLanes_notin _ _ _ _ _ _ _ _ _ ha, Wave.dst_thread _ _ _ _ _ _ _ _ hl]
    · rw [ih _ hn ((List.mem_cons.mp hp).resolve_left h) (by simpa using hl), Wave.dst_thread_other _ _ _ _ _ _ _ _ _ h]

/-- The W registers after every member's destination is written: the lead member's value, if there is one. -/
theorem writeLanes_w (old : Wave) (vp : VPrefix) (mask : Nat → Bool) (lead : Option Nat) (d : Code) (f : Nat → Word) (ps : List Nat) (w : Wave)
    (c : Code) (hc : isW c = true) (q : Nat) :
    (writeLanes old vp mask lead d f ps w).readCode q c =
      match lead with
      | some p => if c = d ∧ p ∈ ps ∧ mask p = false then f p else w.readCode q c
      | none => w.readCode q c := by
  have hW : ∀ (w w' : Wave), w'.w = w.w → w'.readCode q c = w.readCode q c := by
    intro w w' h
    have hc := (isW_iff c).mp hc
    simp [Wave.readCode, Nat.not_lt.mpr hc.1, hc.2, h]
  induction ps generalizing w with
  | nil => cases lead <;> simp [writeLanes]
  | cons a t ih =>
    rw [writeLanes, ih]
    have hd := Wave.dst_w w old (lead == some a) vp.zero (mask a) a d (f a)
    cases lead with
    | none =>
      dsimp only
      exact hW _ _ (by rw [hd]; simp)
    | some p =>
      dsimp only
      by_cases h : c = d ∧ p = a ∧ mask a = false
      · obtain ⟨rfl, rfl, hm⟩ := h
        simp only [hm, and_true, List.mem_cons, true_or, if_true]
        split
        · rfl
        · have : (w.dst old (some p == some p) vp.zero (mask p) p c (f p)).readCode q c = (w.writeCode p c (f p)).readCode q c :=
            hW _ _ (by rw [hd]; simp [hc, hm])
          rw [hm] at this
          rw [this, Wave.readCode_writeW _ _ _ _ _ hc]
      · have hsame : (w.dst old (some p == some a) vp.zero (mask a) a d (f a)).readCode q c = w.readCode q c := by
          by_cases h2 : (isW d && (some p == some a) && !mask a) = true
          · rw [h2] at hd
            simp only [if_true] at hd
            rw [hW _ _ hd]
            refine Wave.readCode_writeCode_other _ _ _ _ _ _ (.inl fun e => ?_)
            simp only [Bool.and_eq_true, beq_iff_eq, Option.some.injEq, Bool.not_eq_true'] at h2
            exact h ⟨e, h2.1.2, h2.2⟩
          · rw [Bool.not_eq_true] at h2
            rw [h2] at hd
            exact hW _ _ (by simpa using hd)
        rw [hsame]
        by_cases h3 : c = d ∧ p ∈ t ∧ mask p = false
        · rw [if_pos h3, if_pos ⟨h3.1, List.mem_cons_of_mem _ h3.2.1, h3.2.2⟩]
        · rw [if_neg h3, if_neg]
          rintro ⟨h4, h5, h6⟩
          rcases List.mem_cons.mp h5 with rfl | h5
          · exact h ⟨h4, rfl, h6⟩
          · exact h3 ⟨h4, h5, h6⟩

theorem Thread.given_other (t : Thread) (zero masked : Bool) (d : Code) (got : Latch) (w w' : Wave) (p : Nat) (c : Code) (hc : c.toNat < 0xF8)
    (hW : isW c = false) (hne : c ≠ d) (hw' : w'.thread p = t.given zero masked d got) (hw : w.thread p = t) :
    w'.readCode p c = w.readCode p c := by
  have hn := code_ne hne
  have key : ((t.write d got.val).v.get 0 c.toNat = t.v.get 0 c.toNat) ∧
      (0xF0 ≤ c.toNat → (t.write d got.val).o.get 0 (c.toNat - 0xF0) = t.o.get 0 (c.toNat - 0xF0)) := by
    unfold Thread.write
    split
    · exact ⟨Tab.get_putD_other _ _ _ _ _ hn, fun _ => rfl⟩
    · split
      · exact ⟨rfl, fun _ => rfl⟩
      · split
        · exact ⟨rfl, fun _ => Tab.get_putD_other _ _ _ _ _ (by omega)⟩
        · exact ⟨rfl, fun _ => rfl⟩
  have hcase : c.toNat < 0xE0 ∨ 0xF0 ≤ c.toNat := by
    rcases code_cases c with h | h | h | h
    · exact .inl h
    · rw [(isW_iff c).mpr h] at hW; exact absurd hW (by decide)
    · exact .inr h.1
    · omega
  unfold Thread.given at hw'
  simp only [Wave.readCode, hw', hw]
  split
  · split
    · rfl
    · exact key.1
  · split
    · omega
    · rename_i h2
      have h3 : 0xF0 ≤ c.toNat := by omega
      simp only [Thread.push_o]
      split
      · rfl
      · exact key.2 h3

/-! ### The result of a lane instruction -/

/-- A destination code of the d role: V, O, W or NWB. -/
def dOk (d : Code) : Bool := regOk d || d == 0xFC

theorem Thread.rest_goTo (t : Thread) (a : Word) : (t.goTo a).rest = t.rest := rfl
theorem Thread.rest_skip (t : Thread) (n : Nat) : (t.skipColumns n).rest = t.rest := rfl
theorem Thread.rest_push (t : Thread) (l : Latch) : (t.push l).rest = t.rest := rfl
theorem Thread.rest_write (t : Thread) (c : Code) (x : Word) : (t.write c x).rest = t.rest := by
  unfold Thread.write
  split
  · rfl
  · split
    · rfl
    · split <;> rfl
theorem Thread.rest_given (t : Thread) (zero masked : Bool) (c : Code) (got : Latch) : (t.given zero masked c got).rest = t.rest := by
  unfold Thread.given
  rw [Thread.rest_push]
  split
  · rfl
  · exact Thread.rest_write t c got.val

theorem Thread.given_pc (t : Thread) (zero masked : Bool) (c : Code) (got : Latch) : (t.given zero masked c got).pc = t.pc := by
  unfold Thread.given
  rw [show ∀ t' : Thread, (t'.push got).pc = t'.pc from fun _ => rfl]
  split
  · rfl
  · unfold Thread.write
    split
    · rfl
    · split
      · rfl
      · split <;> rfl

theorem Thread.given_latches (t : Thread) (zero masked : Bool) (c : Code) (got : Latch) :
    (t.given zero masked c got).h0 = got ∧ (t.given zero masked c got).h1 = t.h0 ∧ (t.given zero masked c got).h2 = t.h1
      ∧ (t.given zero masked c got).h3 = t.h2 := by
  unfold Thread.given Thread.write Thread.push
  split
  · exact ⟨rfl, rfl, rfl, rfl⟩
  · split
    · exact ⟨rfl, rfl, rfl, rfl⟩
    · split
      · exact ⟨rfl, rfl, rfl, rfl⟩
      · split <;> exact ⟨rfl, rfl, rfl, rfl⟩

/-- Going on after a change of the issuing wave: `w'` is the wave before going on. -/
theorem State.goesOn_of {s : State} (h : s.issuing = true) (i : Instr) (f : Wave → Wave) (hlen : (f s.me).threads.length = s.me.threads.length)
    (hrest : ∃ ts ws cs, f s.me = { s.me with threads := ts, w := ws, collector := cs })
    (hthreads : ∀ p, ((f s.me).thread p).rest = (s.me.thread p).rest) (hpc : ∀ p, ((f s.me).thread p).pc = (s.me.thread p).pc) :
    let t := (((s.modWave s.cur.wave f).advance s.cur.group []).takeColumns i s.cur.group)
    s.GoesOn t ∧ (∀ p c, t.me.readCode p c = (f s.me).readCode p c) ∧
      (∀ p ∈ s.cur.group, ∃ n, t.me.thread p = (((f s.me).thread p).goTo s.nextAddr).skipColumns n) ∧
      (∀ p, p ∉ s.cur.group → ∃ n, t.me.thread p = ((f s.me).thread p).skipColumns n) := by
  intro t
  have hf := State.issuing_find h
  have hm : (s.modWave s.cur.wave f).me = f s.me := State.me_modWave s f hf
  have hc1 : (s.modWave s.cur.wave f).cur = s.cur := by simp
  have hf1 : ((s.modWave s.cur.wave f).waves.find (s.modWave s.cur.wave f).cur.wave).isSome = true := by
    rw [hc1, State.find_modWave]; exact hf
  have hn : (s.modWave s.cur.wave f).nextAddr = s.nextAddr := by simp [State.nextAddr]
  have hadv : ((s.modWave s.cur.wave f).advance s.cur.group []).me = (f s.me).advance s.cur.group s.nextAddr [] := by
    rw [State.advance, State.me_modWave _ _ hf1, hm, hn]
  have hcol := State.columns_takeColumns ((s.modWave s.cur.wave f).advance s.cur.group []) i s.cur.group
  have hread : ∀ p c, t.me.readCode p c = (f s.me).readCode p c := fun p c => by
    rw [hcol.readCode, hadv, Wave.readCode_advance]
  have hin : ∀ p ∈ s.cur.group, ∃ n, t.me.thread p = (((f s.me).thread p).goTo s.nextAddr).skipColumns n := fun p hp => by
    obtain ⟨n, hn'⟩ := hcol.thread p
    refine ⟨n, ?_⟩
    rw [hn', hadv, Wave.advance_thread _ _ _ _ _ (by rw [hlen]; exact State.issuing_lt h hp), if_pos hp]
    rfl
  have hout : ∀ p, p ∉ s.cur.group → ∃ n, t.me.thread p = ((f s.me).thread p).skipColumns n := fun p hp => by
    obtain ⟨n, hn'⟩ := hcol.thread p
    refine ⟨n, ?_⟩
    rw [hn', hadv]
    by_cases hl : p < (f s.me).threads.length
    · rw [Wave.advance_thread _ _ _ _ _ hl, if_neg hp]
    · rw [Wave.advance_beyond _ _ _ _ _ (Nat.le_of_not_lt hl)]
  refine ⟨⟨fun p hp => ?_, fun p hp => ?_, fun p => ?_, ?_, ?_⟩, hread, hin, hout⟩
  · obtain ⟨n, hn'⟩ := hin p hp
    rw [hn']; rfl
  · obtain ⟨n, hn'⟩ := hout p hp
    rw [hn', ← hpc p]; rfl
  · by_cases hp : p ∈ s.cur.group
    · obtain ⟨n, hn'⟩ := hin p hp
      rw [hn', Thread.rest_skip, Thread.rest_goTo, hthreads]
    · obtain ⟨n, hn'⟩ := hout p hp
      rw [hn', Thread.rest_skip, hthreads]
  · have hw := hcol.wave
    rw [hadv, Wave.advance_rest] at hw
    obtain ⟨ts, ws, cs, hr⟩ := hrest
    change t.me = _ at hw ⊢
    rw [hr] at hw
    rw [hw]
  · exact ((State.onlyWave_modWave s f).trans (State.onlyWave_advance _ _ _)).trans hcol.only

/-- The spec lemma of a 32-bit lane instruction. -/
theorem laneOp_result {s : State} {i : Instr} (h : s.passes i = true) (d : Code) (hd : dOk d = true) (f : State → Nat → Word) :
    s.LaneResult (laneOp i d f s) d (f s) := by
  have hi := State.passes_issuing h
  have hnd := rising_nodup (State.issuing_rising hi)
  have hlt : ∀ p ∈ s.cur.group, p < s.me.threads.length := fun p hp => State.issuing_lt hi hp
  let g : Wave → Wave := fun w => writeLanes s.me s.cur.vp s.masked (s.lead s.cur.group) d (f s) s.cur.group w
  have hrun : laneOp i d f s = (((s.modWave s.cur.wave g).advance s.cur.group []).takeColumns i s.cur.group) := by
    unfold laneOp
    rw [State.runUnit_passes h]
    · rw [reading_passes h]
      simp only [allDone, State.writeResult, State.deliverAll_nil]
      rfl
    · rw [reading_passes h]
      simpa [allDone, State.writeResult] using State.issuing_clear hi
  have hmem : ∀ p ∈ s.cur.group, (g s.me).thread p =
      (s.me.thread p).given s.cur.vp.zero (s.masked p) d (s.me.received s.cur.vp.zero (s.masked p) p d (f s p)) :=
    fun p hp => writeLanes_mem _ _ _ _ _ _ _ _ hnd p hp (hlt p hp)
  have hnot : ∀ p, p ∉ s.cur.group → (g s.me).thread p = s.me.thread p := fun p hp => writeLanes_notin _ _ _ _ _ _ _ _ _ hp
  have hdcode : d ≠ 0xFC → d.toNat < 0xF8 := by
    intro hne
    simp only [dOk, regOk, Bool.or_eq_true, decide_eq_true_eq, beq_iff_eq] at hd
    exact hd.resolve_right hne
  obtain ⟨hgo, hread, hin, hout⟩ := State.goesOn_of hi i g (writeLanes_length ..) (writeLanes_rest ..)
    (fun p => by
      by_cases hp : p ∈ s.cur.group
      · rw [hmem p hp, Thread.rest_given]
      · rw [hnot p hp])
    (fun p => by
      by_cases hp : p ∈ s.cur.group
      · rw [hmem p hp]
        exact Thread.given_pc _ _ _ _ _
      · rw [hnot p hp])
  rw [← hrun] at hgo hread hin hout
  refine ⟨fun p hp hm hne hw => ?_, fun p hp hm => ?_, fun p hp => ?_, fun p hp hm hW hne => ?_, fun p c hc hwr => ?_, hgo⟩
  · rw [hread]
    by_cases hW : isW d = true
    · have := writeLanes_w s.me s.cur.vp s.masked (s.lead s.cur.group) d (f s) s.cur.group s.me d hW p
      refine Eq.trans this ?_
      simp only [hw hW, hp, hm, and_self, if_true]
    · have hW : isW d = false := by simpa using hW
      refine Wave.readCode_of_write (t := s.me.thread p) ?_ ?_ hW (hdcode hne)
      · rw [hmem p hp]; simp [Thread.given, hm, Wave.received]
      · rw [hmem p hp]; simp [Thread.given, hm, Wave.received]
  · obtain ⟨n, hn⟩ := hin p hp
    rw [hn]
    change ((g s.me).thread p).h0 = _
    rw [hmem p hp, (Thread.given_latches _ _ _ _ _).1]
    simp [Wave.received, hm]
  · obtain ⟨n, hn⟩ := hin p hp
    rw [hn]
    change ((g s.me).thread p).h1 = _ ∧ ((g s.me).thread p).h2 = _ ∧ ((g s.me).thread p).h3 = _
    rw [hmem p hp]
    exact (Thread.given_latches _ _ _ _ _).2
  · rw [hread]
    by_cases hz : s.cur.vp.zero = true
    · rw [if_pos hz]
      refine Wave.readCode_of_write (t := s.me.thread p) ?_ ?_ hW (hdcode hne)
      · rw [hmem p hp]; simp [Thread.given, hm, Wave.received, hz, hW]
      · rw [hmem p hp]; simp [Thread.given, hm, Wave.received, hz, hW]
    · rw [if_neg hz]
      have hz : s.cur.vp.zero = false := by simpa using hz
      refine Wave.readCode_regs' hW (hdcode hne) ?_ ?_
      · rw [hmem p hp]; simp [Thread.given, hm, hz]
      · rw [hmem p hp]; simp [Thread.given, hm, hz]
  · rw [hread]
    simp only [State.writes, Bool.and_eq_false_iff, beq_eq_false_iff_ne, ne_eq, Bool.or_eq_false_iff, List.contains_eq_mem,
      decide_eq_false_iff_not] at hwr
    by_cases hW : isW c = true
    · have := writeLanes_w s.me s.cur.vp s.masked (s.lead s.cur.group) d (f s) s.cur.group s.me c hW p
      rw [this]
      have hne : c ≠ d := by
        rcases hwr with e | e
        · exact e
        · rw [hW] at e; exact absurd e.1 (by decide)
      cases s.lead s.cur.group with
      | none => rfl
      | some q => exact if_neg fun e => hne e.1
    · have hW : isW c = false := by simpa using hW
      by_cases hp : p ∈ s.cur.group
      · have hne : c ≠ d := hwr.resolve_right fun e => e.2 hp
        exact Thread.given_other (s.me.thread p) _ _ d _ s.me (g s.me) p c hc hW hne (hmem p hp) rfl
      · exact Wave.readCode_regs' hW hc (by rw [hnot p hp]) (by rw [hnot p hp])

end Sys2Proof.Machine
end

