-- ==== Sys2Proof/Laws/Values.lean ====
section
/-! SUPPORT. The word operations of the lane meanings against the spec's wording of them (R82, R91, R97, R98). -/

namespace Sys2Proof.Machine

open Sys2Proof

theorem pick_min (a b : Word) : pick (icmpLe a b) a b = if a.toInt ≤ b.toInt then a else b := by
  unfold pick icmpLe; split <;> simp_all

theorem pick_max (a b : Word) : pick (icmpLe b a) a b = if a.toInt ≤ b.toInt then b else a := by
  unfold pick icmpLe
  by_cases h : a.toInt ≤ b.toInt <;> by_cases g : b.toInt ≤ a.toInt <;> simp [h, g]
  · exact BitVec.eq_of_toInt_eq (le_antisymm h g)
  · omega

theorem pick_minu (a b : Word) : pick (icmpLeu a b) a b = if a.toNat ≤ b.toNat then a else b := by
  unfold pick icmpLeu; split <;> simp_all

theorem pick_maxu (a b : Word) : pick (icmpLeu b a) a b = if a.toNat ≤ b.toNat then b else a := by
  unfold pick icmpLeu
  by_cases h : a.toNat ≤ b.toNat <;> by_cases g : b.toNat ≤ a.toNat <;> simp [h, g]
  · exact BitVec.eq_of_toNat_eq (le_antisymm h g)
  · omega

theorem highWord_eq (x : Int) : highWord x = highOf x := by
  unfold highWord highOf
  apply BitVec.eq_of_toNat_eq
  simp only [BitVec.extractLsb'_toNat, BitVec.toNat_ofInt, Nat.shiftRight_eq_div_pow]
  rw [Int.fdiv_eq_ediv_of_nonneg _ (by decide)]
  omega

theorem rotateLeft_eq (a : Word) (b : Word) : rotateLeft a (count b) = BitVec.rotateLeft a (shiftCount b) := by
  have h : b.toNat % 32 < 32 := Nat.mod_lt _ (by decide)
  simp only [rotateLeft, count, shiftCount, BitVec.rotateLeft, BitVec.rotateLeftAux, Nat.mod_eq_of_lt h]

theorem addSat_eq (a b : Word) : addSat a b = satInt (a.toInt + b.toInt) := by
  unfold addSat satInt
  split
  · rw [max_eq_left (by omega)]; rfl
  · split
    · rw [min_eq_left (by omega), max_eq_right (by omega)]; rfl
    · rw [min_eq_right (by omega), max_eq_right (by omega)]

theorem fcopysign_eq (a b : Word) : fcopysign a b = b.extractLsb' 31 1 ++ a.extractLsb' 0 31 := by
  unfold fcopysign
  refine BitVec.eq_of_getLsbD_eq fun k hk => ?_
  have hk : k < 32 := hk
  simp only [BitVec.getLsbD_or, BitVec.getLsbD_and, BitVec.getLsbD_append, BitVec.getLsbD_extractLsb']
  interval_cases k <;> simp

theorem fabs_eq (a : Word) : a &&& 0x7FFFFFFF = 0#1 ++ a.extractLsb' 0 31 := by
  refine BitVec.eq_of_getLsbD_eq fun k hk => ?_
  have hk : k < 32 := hk
  simp only [BitVec.getLsbD_and, BitVec.getLsbD_append, BitVec.getLsbD_extractLsb']
  interval_cases k <;> simp

theorem fneg_eq (a : Word) : a ^^^ 0x80000000 = (~~~a.extractLsb' 31 1) ++ a.extractLsb' 0 31 := by
  refine BitVec.eq_of_getLsbD_eq fun k hk => ?_
  have hk : k < 32 := hk
  simp only [BitVec.getLsbD_xor, BitVec.getLsbD_append, BitVec.getLsbD_extractLsb', BitVec.getLsbD_not]
  interval_cases k <;> simp

theorem absInt_eq (a : Word) : absInt a = if a.toInt < 0 then 0 - a else a := by
  unfold absInt
  have : a.getLsbD 31 = decide (a.toInt < 0) := by
    rw [← BitVec.msb_eq_toInt, BitVec.msb_eq_getLsbD_last]
  rw [this]
  simp

theorem classMask_eq (k : Nat) : word (2 ^ k) = 1#32 <<< k := by
  apply BitVec.eq_of_toNat_eq
  simp [word, Nat.shiftLeft_eq]

theorem imulw_eq (a b : Word) : BitVec.ofInt 64 (a.toInt * b.toInt) = a.signExtend 64 * b.signExtend 64 := by
  apply BitVec.eq_of_toInt_eq
  rw [BitVec.toInt_mul, BitVec.toInt_signExtend_of_le (by decide), BitVec.toInt_signExtend_of_le (by decide), BitVec.toInt_ofInt]

theorem imulwu_eq (a b : Word) : BitVec.ofNat 64 (a.toNat * b.toNat) = a.zeroExtend 64 * b.zeroExtend 64 := by
  apply BitVec.eq_of_toNat_eq
  have ha := a.isLt
  have hb := b.isLt
  simp only [BitVec.toNat_ofNat, BitVec.toNat_mul, BitVec.truncate_eq_setWidth, BitVec.toNat_setWidth]
  rw [Nat.mod_eq_of_lt (a := a.toNat) (by omega), Nat.mod_eq_of_lt (a := b.toNat) (by omega)]

end Sys2Proof.Machine
end

