-- ==== Sys2Proof/Laws/Each.lean ====
section
/-! SUPPORT. What an instruction that gives each member a value without pushing a latch can do (R107, R143): the spec lemmas of writeEach,
writeEach64 and the frames around them. -/

namespace Sys2Proof.Machine

open Sys2Proof

/-- Only registers of the issuing wave differ. -/
structure State.RegsOnly (s u : State) : Prop where
  bare : ∀ p, (u.me.thread p).bare = (s.me.thread p).bare
  wave : u.me = { s.me with threads := u.me.threads, w := u.me.w, collector := u.me.collector }
  length : u.me.threads.length = s.me.threads.length
  only : s.OnlyWave u
  find : (u.waves.find u.cur.wave).isSome = (s.waves.find s.cur.wave).isSome

theorem State.RegsOnly.refl (s : State) : s.RegsOnly s := ⟨fun _ => rfl, rfl, rfl, State.OnlyWave.refl s, rfl⟩

theorem State.RegsOnly.trans {s t u : State} (h : s.RegsOnly t) (g : t.RegsOnly u) : s.RegsOnly u := by
  refine ⟨fun p => (g.bare p).trans (h.bare p), ?_, g.length.trans h.length, h.only.trans g.only, g.find.trans h.find⟩
  have h1 := h.wave
  have g1 := g.wave
  rw [h1] at g1
  exact g1

theorem State.RegsOnly.cur {s u : State} (h : s.RegsOnly u) : u.cur = s.cur := h.only.cur

theorem State.RegsOnly.stands {s u : State} (h : s.RegsOnly u) (hs : s.Stands) : u.Stands :=
  ⟨by rw [h.find]; exact hs.find, fun p hp => by rw [h.length]; rw [h.cur] at hp; exact hs.lt p hp⟩

theorem State.regsOnly_writeCode {s : State} (hf : (s.waves.find s.cur.wave).isSome = true) (p : Nat) (c : Code) (x : Word) :
    s.RegsOnly (s.modWave s.cur.wave fun w => w.writeCode p c x) := by
  have hm := State.me_modWave s (fun w => w.writeCode p c x) hf
  refine ⟨fun q => ?_, ?_, ?_, State.onlyWave_modWave s _, ?_⟩
  · rw [hm]; exact Wave.writeCode_bare _ _ _ _ _
  · rw [hm]; exact Wave.writeCode_rest _ _ _ _
  · rw [hm]; exact Wave.writeCode_length _ _ _ _
  · simp [State.find_modWave]

/-! ### One member -/

theorem State.regsOnly_writeR {s : State} (hf : (s.waves.find s.cur.wave).isSome = true) (ps : List Nat) (p : Nat) (c : Code) (x : Word) :
    s.RegsOnly (s.writeR ps p c x) := by
  unfold State.writeR
  split
  · exact State.RegsOnly.refl s
  · exact State.regsOnly_writeCode hf p c x

/-- Whether the member's value is the one that D keeps for position q. -/
def keepsFor (ps : List Nat) (d : Code) (p q : Nat) : Prop := if isW d = true then ps.head? = some p else q = p

theorem Wave.readCode_writeCode_elsewhere (w : Wave) (p q : Nat) (c c' : Code) (x : Word) (h : ¬ (c' = c ∧ (isW c = true ∨ q = p))) :
    (w.writeCode p c x).readCode q c' = w.readCode q c' := by
  refine Wave.readCode_writeCode_other _ _ _ _ _ _ ?_
  by_cases e : c' = c
  · have h2 : ¬ (isW c = true ∨ q = p) := fun g => h ⟨e, g⟩
    simp only [not_or, Bool.not_eq_true] at h2
    exact .inr ⟨h2.2, h2.1⟩
  · exact .inl e

theorem State.writeR_read {s : State} (hs : (s.waves.find s.cur.wave).isSome = true) {ps : List Nat} {p : Nat} (hp : p < s.me.threads.length)
    {d : Code} (hd : d.toNat < 0xF8) (x : Word) (q : Nat) (c : Code) [Decidable (c = d ∧ keepsFor ps d p q)] :
    (s.writeR ps p d x).me.readCode q c = if c = d ∧ keepsFor ps d p q then x else s.me.readCode q c := by
  have hm := State.me_modWave s (fun w => w.writeCode p d x) hs
  unfold State.writeR keepsFor
  by_cases hw : isW d = true
  · by_cases hh : ps.head? = some p
    · simp only [hw, hh, bne_self_eq_false, Bool.and_false, Bool.false_eq_true, if_false, if_true, and_true]
      rw [hm]
      split
      · subst c; exact Wave.readCode_writeW _ _ _ _ _ hw
      · exact Wave.readCode_writeCode_other _ _ _ _ _ _ (.inl ‹_›)
    · have : (ps.head? != some p) = true := by simpa using hh
      simp only [hw, this, Bool.and_true, if_true, hh, and_false, if_false]
  · have hw : isW d = false := by simpa using hw
    simp only [hw, Bool.false_and, Bool.false_eq_true, if_false]
    rw [hm]
    split
    · rename_i h
      obtain ⟨rfl, rfl⟩ := h
      exact Wave.readCode_writeCode_same _ _ _ _ hp hd
    · rename_i h
      exact Wave.readCode_writeCode_elsewhere _ _ _ _ _ _ (by simpa [hw] using h)

/-! ### Every member -/

theorem State.regsOnly_fold {s : State} (hf : (s.waves.find s.cur.wave).isSome = true) (ps : List Nat) (d : Code) (f : Nat → Word) (l : List Nat) :
    s.RegsOnly (foldState (fun p s => s.writeR ps p d (f p)) l s) := by
  induction l generalizing s with
  | nil => exact State.RegsOnly.refl s
  | cons a t ih =>
    have h := State.regsOnly_writeR hf ps a d (f a)
    exact h.trans (ih (by rw [h.find]; exact hf))

open Classical in
theorem State.writeR_fold {s : State} (hf : (s.waves.find s.cur.wave).isSome = true) (ps : List Nat) {d : Code} (hd : d.toNat < 0xF8) (f : Nat → Word)
    (l : List Nat) (hl : ∀ p ∈ l, p < s.me.threads.length) (q : Nat) (c : Code) :
    (foldState (fun p s => s.writeR ps p d (f p)) l s).me.readCode q c =
      if c = d ∧ ∃ p ∈ l, keepsFor ps d p q then (if isW d = true then f (ps.headD 0) else f q) else s.me.readCode q c := by
  induction l generalizing s with
  | nil => simp [foldState]
  | cons a t ih =>
    have h := State.regsOnly_writeR hf ps a d (f a)
    rw [foldState, ih (by rw [h.find]; exact hf) fun p hp => by rw [h.length]; exact hl p (List.mem_cons_of_mem _ hp)]
    rw [State.writeR_read hf (hl a List.mem_cons_self) hd]
    by_cases hc : c = d
    · subst hc
      simp only [true_and]
      by_cases ht : ∃ p ∈ t, keepsFor ps c p q
      · have : ∃ p ∈ a :: t, keepsFor ps c p q := by
          obtain ⟨p, hp, hk⟩ := ht
          exact ⟨p, List.mem_cons_of_mem _ hp, hk⟩
        rw [if_pos ht, if_pos this]
      · rw [if_neg ht]
        by_cases ha : keepsFor ps c a q
        · rw [if_pos ha, if_pos ⟨a, List.mem_cons_self, ha⟩]
          unfold keepsFor at ha
          by_cases hw : isW c = true
          · simp only [hw, if_true] at ha ⊢
            cases ps with
            | nil => simp at ha
            | cons b l => simp at ha; simp [ha]
          · simp only [hw] at ha ⊢
            rw [ha]; simp
        · rw [if_neg ha, if_neg]
          rintro ⟨p, hp, hk⟩
          rcases List.mem_cons.mp hp with rfl | hp
          · exact ha hk
          · exact ht ⟨p, hp, hk⟩
    · simp [hc]

/-- What writing D of every member leaves of the registers. -/
theorem State.writeEach_read {s : State} (hs : s.Stands) {d : Code} (hd : d.toNat < 0xF8) (f : Nat → Word) :
    (∀ p ∈ s.cur.group, (isW d = true → s.cur.group.head? = some p) → (s.writeEach s.cur.group d f).me.readCode p d = f p) ∧
      s.KeepsRegs (s.writeEach s.cur.group d f) (s.writes d) := by
  classical
  constructor
  · intro p hp hw
    rw [State.writeEach, State.writeR_fold hs.find _ hd f _ hs.lt]
    by_cases hW : isW d = true
    · have hh := hw hW
      rw [if_pos ⟨rfl, p, hp, by simp [keepsFor, hW, hh]⟩]
      have : s.cur.group.headD 0 = p := by
        cases hg : s.cur.group with
        | nil => rw [hg] at hh; simp at hh
        | cons b l => rw [hg] at hh; simpa using hh
      rw [if_pos hW, this]
    · rw [if_pos ⟨rfl, p, hp, by simp [keepsFor, hW]⟩, if_neg hW]
  · intro p c hc hwr
    rw [State.writeEach, State.writeR_fold hs.find _ hd f _ hs.lt, if_neg]
    rintro ⟨rfl, q, hq, hk⟩
    simp only [State.writes, beq_self_eq_true, Bool.true_and, Bool.or_eq_false_iff, List.contains_eq_mem, decide_eq_false_iff_not] at hwr
    simp only [keepsFor, hwr.1, Bool.false_eq_true, if_false] at hk
    subst hk
    exact hwr.2 hq

theorem State.regsOnly_writeEach {s : State} (hs : s.Stands) (ps : List Nat) (d : Code) (f : Nat → Word) : s.RegsOnly (s.writeEach ps d f) :=
  State.regsOnly_fold hs.find ps d f ps

/-! ### Results -/

theorem Thread.core_latch {t t' : Thread} (h : { t with pc := 0, drainPos := 0 } = { t' with pc := 0, drainPos := 0 }) :
    t.v = t'.v ∧ t.o = t'.o ∧ t.h0 = t'.h0 ∧ t.h1 = t'.h1 ∧ t.h2 = t'.h2 ∧ t.h3 = t'.h3 ∧ t.rest = t'.rest := by
  have hv := congrArg Thread.v h
  have ho := congrArg Thread.o h
  have h0 := congrArg Thread.h0 h
  have h1 := congrArg Thread.h1 h
  have h2 := congrArg Thread.h2 h
  have h3 := congrArg Thread.h3 h
  have hr := congrArg Thread.rest h
  exact ⟨hv, ho, h0, h1, h2, h3, hr⟩

theorem Thread.bare_latch {t t' : Thread} (h : t.bare = t'.bare) :
    t.h0 = t'.h0 ∧ t.h1 = t'.h1 ∧ t.h2 = t'.h2 ∧ t.h3 = t'.h3 ∧ t.pc = t'.pc ∧ t.rest = t'.rest := by
  have h0 := congrArg Thread.h0 h
  have h1 := congrArg Thread.h1 h
  have h2 := congrArg Thread.h2 h
  have h3 := congrArg Thread.h3 h
  have h4 := congrArg Thread.pc h
  have hr := congrArg Thread.rest h
  exact ⟨h0, h1, h2, h3, h4, hr⟩

theorem State.MovesOn.readCode {u t : State} (h : u.MovesOn t) (p : Nat) (c : Code) : t.me.readCode p c = u.me.readCode p c := by
  obtain ⟨hv, ho, h0, h1, h2, h3, -⟩ := Thread.core_latch (h.threads p)
  have hw := h.wave
  refine Wave.readCode_congr hv ho (fun k => ?_) (by rw [hw]) (by rw [hw]) c
  match k with
  | 0 => exact h0
  | 1 => exact h1
  | 2 => exact h2
  | _ + 3 => exact h3

/-- Registers are written, and then the members go on: what `GoesOn` asks. -/
theorem State.RegsOnly.goesOn {s u t : State} (h : s.RegsOnly u) (g : u.MovesOn t) : s.GoesOn t := by
  have hc := h.cur
  refine ⟨fun p hp => ?_, fun p hp => ?_, fun p => ?_, ?_, h.only.trans g.only⟩
  · rw [g.pc p (by rw [hc]; exact hp), State.nextAddr, hc]; rfl
  · rw [g.pcOthers p (by rw [hc]; exact hp), (Thread.bare_latch (h.bare p)).2.2.2.2.1]
  · rw [(Thread.core_latch (g.threads p)).2.2.2.2.2.2, (Thread.bare_latch (h.bare p)).2.2.2.2.2]
  · have h1 := h.wave
    have g1 := g.wave
    rw [h1] at g1
    rw [g1]

theorem State.eachResult_of {s t : State} (hs : s.Stands) {d : Code} (hd : d.toNat < 0xF8) (f : Nat → Word)
    (g : (s.writeEach s.cur.group d f).MovesOn t) : s.EachResult t d f := by
  have h := State.regsOnly_writeEach hs s.cur.group d f
  obtain ⟨hval, hregs⟩ := State.writeEach_read hs hd f
  refine ⟨fun p hp hw => ?_, fun p => ?_, fun p c hc hwr => ?_, h.goesOn g⟩
  · rw [g.readCode]; exact hval p hp hw
  · obtain ⟨-, -, a0, a1, a2, a3, -⟩ := Thread.core_latch (g.threads p)
    obtain ⟨b0, b1, b2, b3, -, -⟩ := Thread.bare_latch (h.bare p)
    exact ⟨a0.trans b0, a1.trans b1, a2.trans b2, a3.trans b3⟩
  · rw [g.readCode]; exact hregs p c hc hwr

/-- The spec lemma of a unit that writes D of every member. -/
theorem runUnit_each {s : State} {i : Instr} (h : s.passes i = true) {d : Code} (hd : d.toNat < 0xF8) (f : State → Nat → Word) :
    s.EachResult (s.runUnit i 0 (allDone fun s ps => s.writeEach ps d (f s))) d (f s) := by
  have hs := State.issuing_stands (State.passes_issuing h)
  have hr := State.regsOnly_writeEach hs s.cur.group d (f s)
  exact State.eachResult_of hs hd (f s) (State.runUnit_all h _ rfl hr.cur (hr.stands hs))

/-- The same for a unit that checks its reads first; the members are those of the group. -/
theorem crossOp_result {s : State} {i : Instr} (h : s.passes i = true) {d : Code} (hd : d.toNat < 0xF8) (f : State → List Nat → Nat → Word) :
    s.EachResult (crossOp i d f s) d (f s s.cur.group) := by
  have hs := State.issuing_stands (State.passes_issuing h)
  have hr := State.regsOnly_writeEach hs s.cur.group d (f s s.cur.group)
  exact State.eachResult_of hs hd _ (State.runUnit_readingAll h _ rfl hr.cur (hr.stands hs))

end Sys2Proof.Machine
end

