-- ==== Sys2Proof/Laws/Memory.lean ====
section
/-! SUPPORT. Memory keeps its canonical form: what puts a byte at its home keeps it, and every operation over memory either keeps it through
that one operation or leaves the homes as they are (Laws/Aside). -/

namespace Sys2Proof.Machine

open Sys2Proof

/-! ### One byte -/

/-- Every listed address of memory is at or above a bound. -/
def Memory.from_ (n : Nat) (m : List Host.Cell) : Prop := ∀ c ∈ m.head?, n ≤ c.1

theorem Memory.wf_cons (c : Host.Cell) (t : List Host.Cell) :
    Memory.wf (c :: t) = true ↔ c.2 ≠ 0 ∧ Memory.from_ (c.1 + 1) t ∧ Memory.wf t = true := by
  cases t with
  | nil => simp [Memory.wf, Memory.from_]
  | cons d t => simp [Memory.wf, Memory.from_, and_assoc]

theorem Memory.from_put {n pa : Nat} {m : List Host.Cell} (b : Byte) (h : Memory.from_ n m) (hp : n ≤ pa) :
    Memory.from_ n (Tab.put m pa b) := by
  cases m with
  | nil => simpa [Tab.put, Memory.from_] using hp
  | cons c t =>
    obtain ⟨j, a⟩ := c
    simp only [Memory.from_, List.head?_cons, Option.mem_def, Option.some.injEq, forall_eq'] at h
    simp only [Tab.put]
    split <;> [skip; split] <;> simp_all [Memory.from_]

theorem Memory.wf_put {m : List Host.Cell} (h : Memory.wf m = true) (pa : Nat) (b : Byte) (hb : b ≠ 0) :
    Memory.wf (Tab.put m pa b) = true := by
  induction m with
  | nil => simpa [Tab.put, Memory.wf] using hb
  | cons c t ih =>
    obtain ⟨j, a⟩ := c
    obtain ⟨ha, hj, ht⟩ := (Memory.wf_cons _ _).mp h
    simp only [Tab.put]
    split
    · exact (Memory.wf_cons _ _).mpr ⟨hb, by simp [Memory.from_]; omega, h⟩
    · split
      · rename_i hk; subst hk; exact (Memory.wf_cons _ _).mpr ⟨hb, hj, ht⟩
      · exact (Memory.wf_cons _ _).mpr ⟨ha, Memory.from_put b hj (by simp; omega), ih ht⟩

theorem Memory.from_mono {n k : Nat} {m : List Host.Cell} (h : Memory.from_ n m) (hk : k ≤ n) : Memory.from_ k m :=
  fun c hc => le_trans hk (h c hc)

theorem Memory.from_del {n : Nat} {m : List Host.Cell} (h : Memory.from_ n m) (hm : Memory.wf m = true) (pa : Nat) :
    Memory.from_ n (Tab.del m pa) := by
  induction m generalizing n with
  | nil => exact h
  | cons c t ih =>
    obtain ⟨j, a⟩ := c
    obtain ⟨-, hj, ht⟩ := (Memory.wf_cons _ _).mp hm
    have hn : n ≤ j := h (j, a) (by simp)
    simp only [Tab.del]
    split
    · exact ih (Memory.from_mono hj (by simp; omega)) ht
    · simpa [Memory.from_] using hn

theorem Memory.wf_del {m : List Host.Cell} (h : Memory.wf m = true) (pa : Nat) : Memory.wf (Tab.del m pa) = true := by
  induction m with
  | nil => rfl
  | cons c t ih =>
    obtain ⟨j, a⟩ := c
    obtain ⟨ha, hj, ht⟩ := (Memory.wf_cons _ _).mp h
    simp only [Tab.del]
    split
    · exact ih ht
    · exact (Memory.wf_cons _ _).mpr ⟨ha, Memory.from_del hj ht pa, ih ht⟩

/-- A byte put at its home keeps the canonical form. -/
theorem State.wf_putHomeByte {s : State} (h : Memory.wf s.mem = true) (pa : Nat) (b : Byte) : Memory.wf (s.putHomeByte pa b).mem = true := by
  simp only [State.putHomeByte, Tab.putD]
  split
  · exact Memory.wf_del h pa
  · exact Memory.wf_put h pa b ‹_›

/-- The machine after reset has memory in canonical form. -/
theorem State.wf_reset : Memory.wf State.reset.mem = true := rfl

/-! ### Operations that put bytes at their homes -/

theorem State.Leaves.wf {s t : State} (h : s.Leaves t) (hs : Memory.wf s.mem = true) : Memory.wf t.mem = true := by rw [h.mem]; exact hs

/-- A loop keeps the form when each round does. -/
theorem State.wf_fold {α : Type} (f : α → State → State) (l : List α) (hf : ∀ a t, Memory.wf t.mem = true → Memory.wf (f a t).mem = true) {s : State}
    (h : Memory.wf s.mem = true) : Memory.wf (foldState f l s).mem = true :=
  foldState_keeps (P := fun t => Memory.wf t.mem = true) f l hf s h

/-- Stores that land keep the canonical form. -/
theorem State.wf_land {s : State} (h : Memory.wf s.mem = true) (src : Option Nat) (agent : Nat) (cells : List (Nat × Byte)) :
    Memory.wf (s.land src agent cells).mem = true := by
  unfold State.land; dsimp only
  refine (State.leaves_watchCheck ..).wf ?_
  refine (foldState_leaves _ _ (fun d t => t.leaves_enableStreams d cells true) _).wf ?_
  refine State.wf_fold _ _ (fun c t ht => State.wf_putHomeByte ht c.1 c.2) ?_
  exact (State.leaves_ageViews ..).wf ((foldState_leaves _ _ (fun d t => t.leaves_settleStreams d cells) s).wf h)

theorem State.wf_landStore {s : State} (h : Memory.wf s.mem = true) (src : Option Nat) (e : PendStore) :
    Memory.wf (s.landStore src e).mem = true := by
  have g : Memory.wf (s.clearL2 (wholeUnits e.pa e.data.length)).mem = true := (s.leaves_clearL2 _).wf h
  unfold State.landStore; dsimp only
  split
  · refine State.wf_fold _ _ (fun c t ht => ?_) g
    exact ht
  · refine State.wf_land ?_ src _ _
    split
    · exact State.wf_fold _ _ (fun u t ht => (t.leaves_markPoison _).wf ht) g
    · exact g

theorem State.wf_rewriteTile {s : State} (h : Memory.wf s.mem = true) (d agent base : Nat) (m : Option Nat) (k : Nat) (b : List Byte) :
    Memory.wf (s.rewriteTile d agent base m k b).mem = true := by
  unfold State.rewriteTile; dsimp only
  exact (State.leaves_enableStreams ..).wf (State.wf_land ((State.leaves_settleStreams ..).wf h) _ _ _)

theorem State.wf_landTile {s : State} (h : Memory.wf s.mem = true) (d : Nat) (e : PendStore) : Memory.wf (s.landTile d e).mem = true := by
  have g := (s.leaves_freshen d (s.tileBytes e.pa)).wf h
  unfold State.landTile; dsimp only
  refine ((State.leaves_setTileMarks ..).trans (State.leaves_clearL2 ..)).wf ?_
  split <;> exact State.wf_rewriteTile g ..

theorem State.wf_landAll (d : Nat) : ∀ (l : List PendStore) {s : State}, Memory.wf s.mem = true → Memory.wf (s.landAll d l).mem = true
  | [], _, h => h
  | e :: t, s, h => by
    have g : Memory.wf (if e.rel then s.raiseViews d else s).mem = true := by
      split
      · exact (s.leaves_raiseViews d).wf h
      · exact h
    simp only [State.landAll]
    generalize (if e.rel then s.raiseViews d else s) = z at g ⊢
    split
    · exact State.wf_landAll d t ((State.leaves_signalSem ..).wf g)
    · have k : Memory.wf (if e.data.isEmpty then z else if e.tile then z.landTile d e else z.landStore (some d) e).mem = true := by
        split
        · exact g
        · split
          · exact State.wf_landTile g d e
          · exact State.wf_landStore g _ e
      refine State.wf_landAll d t ?_
      split
      · exact (State.leaves_raiseOwn ..).wf k
      · exact k

theorem State.wf_flushSome {s : State} (h : Memory.wf s.mem = true) (d : Nat) (sel : List Bool) :
    Memory.wf (s.flushSome d sel).mem = true := State.wf_landAll d _ ((s.leaves_modDie d _).wf h)
theorem State.wf_flushAll {s : State} (h : Memory.wf s.mem = true) (d : Nat) : Memory.wf (s.flushAll d).mem = true := State.wf_flushSome h d _
theorem State.wf_flushBefore {s : State} (h : Memory.wf s.mem = true) (d : Nat) (a : List Nat) (r : List (Nat × Nat)) :
    Memory.wf (s.flushBefore d a r).mem = true := State.wf_flushSome h d _
theorem State.wf_flushFor {s : State} (h : Memory.wf s.mem = true) (d a pa len : Nat) : Memory.wf (s.flushFor d a pa len).mem = true :=
  State.wf_flushSome h d _
theorem State.wf_releaseSys {s : State} (h : Memory.wf s.mem = true) (d : Nat) : Memory.wf (s.releaseSys d).mem = true :=
  (State.leaves_raiseViews ..).wf (State.wf_flushAll h d)
theorem State.wf_sendPend {s : State} (h : Memory.wf s.mem = true) (d i : Nat) (e : PendStore) : Memory.wf (s.sendPend d i e).mem = true := by
  unfold State.sendPend
  split
  · exact h
  · split
    · exact h
    · dsimp only
      have g : Memory.wf (if e.rel then s.fresh.2.raiseViews d else s.fresh.2).mem = true := by
        split
        · exact (State.leaves_raiseViews ..).wf h
        · exact h
      split
      · exact (State.leaves_sendOutFor ..).wf ((State.leaves_modDie ..).wf g)
      · rw [State.sendStore]
        split
        · exact (State.leaves_sendTo ..).wf (State.wf_landStore ((State.leaves_modDie ..).wf g) _ _)
        · exact State.wf_landStore ((State.leaves_modDie ..).wf g) _ _
theorem State.wf_storeAtHome {s : State} (h : Memory.wf s.mem = true) (d a pa : Nat) (b : List Byte) :
    Memory.wf (s.storeAtHome d a pa b).mem = true := by
  unfold State.storeAtHome; dsimp only
  exact (State.leaves_enableStreams ..).wf (State.wf_landStore ((State.leaves_settleStreams ..).wf (State.wf_flushFor h ..)) _ _)
theorem State.wf_putAtHome {s : State} (h : Memory.wf s.mem = true) (d a pa : Nat) (r : Bool) (b : List Byte) :
    Memory.wf (s.putAtHome d a pa r b).mem = true := by
  unfold State.putAtHome; split
  · exact State.wf_landTile h d _
  · exact State.wf_storeAtHome h ..
theorem State.wf_enterTile {s : State} (h : Memory.wf s.mem = true) (d a pa : Nat) : Memory.wf (s.enterTile d a pa).mem = true :=
  (State.leaves_freshen ..).wf (State.wf_flushFor h d a _ 256)
theorem State.wf_takeHome {s : State} (h : Memory.wf s.mem = true) (d a pa : Nat) (r : Bool) (n : Nat) :
    Memory.wf (s.takeHome d a pa r n).2.mem = true := by
  unfold State.takeHome; split
  · exact State.wf_enterTile h ..
  · exact (State.leaves_freshen ..).wf (State.wf_flushFor h d a pa n)
theorem State.wf_touchRgn {s : State} (h : Memory.wf s.mem = true) (d pa : Nat) (r : Bool) : Memory.wf (s.touchRgn d pa r).mem = true := by
  have g := (s.leaves_meetLine d pa).wf h
  unfold State.touchRgn; dsimp only
  split
  · split
    · exact g
    · split
      · exact g
      · exact (State.leaves_raiseViews ..).wf (State.wf_flushBefore g ..)
  · split <;> exact g

/-- Reading a byte after one was put at its home. -/
theorem State.homeByte_put_same (s : State) (pa : Nat) (b : Byte) : (s.putHomeByte pa b).homeByte pa = b := Tab.get_putD_same ..
theorem State.homeByte_put_other (s : State) (pa a : Nat) (b : Byte) (h : a ≠ pa) : (s.putHomeByte pa b).homeByte a = s.homeByte a :=
  Tab.get_putD_other _ _ _ _ _ h

end Sys2Proof.Machine
end

