-- ==== Sys2Proof/Laws/PerInstr.lean ====
section
/-! SUPPORT. The family Encoding: every instruction that has an encoding is what its own bytes decode to, one lemma per constructor. -/

namespace Sys2Proof

set_option linter.unusedSimpArgs false

/-- Decoding the encoding of a well-formed instruction gives it back, with the bytes that follow. -/
def Laws.Encoding.Statement (i : Instr) : Prop :=
  i.encoded = true → i.wellFormed = true → ∀ rest : List Byte, decode (encode i ++ rest) = .ok (i, rest)

/-! ### Fields -/

theorem field_low7 : ∀ (z : BitVec 1) (x : BitVec 7), (z ++ x).extractLsb' 0 7 = x ∧ (z ++ x).extractLsb' 7 1 = z := by decide
theorem field_low6 : ∀ x : BitVec 6, (0#2 ++ x).extractLsb' 0 6 = x := by decide
theorem field_low4 : ∀ x : BitVec 4, (0#4 ++ x).extractLsb' 0 4 = x ∧ (8#4 ++ x).extractLsb' 0 4 = x := by decide
theorem field_low5 : ∀ x : BitVec 5, (0#3 ++ x).extractLsb' 0 5 = x := by decide
theorem field_low3 : ∀ x : BitVec 3, (0#5 ++ x).extractLsb' 0 3 = x := by decide
theorem field_low2 : ∀ x : BitVec 2, (0#6 ++ x).extractLsb' 0 2 = x := by decide
theorem field_low1 : ∀ x : BitVec 1, (0#7 ++ x).extractLsb' 0 1 = x := by decide
theorem field_pair : ∀ x y : BitVec 3, (0#2 ++ x ++ y).extractLsb' 0 3 = y ∧ (0#2 ++ x ++ y).extractLsb' 3 3 = x := by decide
theorem field_slot : ∀ (s : BitVec 1) (n : BitVec 4), (0#3 ++ s ++ n).extractLsb' 0 4 = n ∧ (0#3 ++ s ++ n).extractLsb' 4 1 = s := by decide

theorem zero_low7 : ∀ x : BitVec 7, (0#1 ++ x) &&& 0x80#8 = 0x00#8 := by decide
theorem one_low7 : ∀ x : BitVec 7, (1#1 ++ x) &&& 0x80#8 = 0x80#8 := by decide
theorem zero_low6 : ∀ x : BitVec 6, (0#2 ++ x) &&& 0xC0#8 = 0x00#8 := by decide
theorem zero_low5 : ∀ x : BitVec 5, (0#3 ++ x) &&& 0xE0#8 = 0x00#8 := by decide
theorem zero_low4 : ∀ x : BitVec 4, (0#4 ++ x) &&& 0xF0#8 = 0x00#8 ∧ (8#4 ++ x) &&& 0xF0#8 = 0x80#8 := by decide
theorem zero_low3 : ∀ x : BitVec 3, (0#5 ++ x) &&& 0xF8#8 = 0x00#8 := by decide
theorem zero_low2 : ∀ x : BitVec 2, (0#6 ++ x) &&& 0xFC#8 = 0x00#8 := by decide
theorem zero_low1 : ∀ x : BitVec 1, (0#7 ++ x) &&& 0xFE#8 = 0x00#8 := by decide
theorem zero_pair : ∀ x y : BitVec 3, (0#2 ++ x ++ y) &&& 0xC0#8 = 0x00#8 := by decide
theorem zero_slot : ∀ (s : BitVec 1) (n : BitVec 4), (0#3 ++ s ++ n) &&& 0xE0#8 = 0x00#8 := by decide
theorem zero_pred : ∀ (n : BitVec 1) (p : BitVec 3), (0#4 ++ n ++ p) &&& 0xF0#8 = 0x00#8 := by decide

theorem field_imm16 (i : BitVec 16) : i.extractLsb' 8 8 ++ i.extractLsb' 0 8 = i := by
  refine BitVec.eq_of_getLsbD_eq fun k hk => ?_
  have hk : k < 16 := hk
  interval_cases k <;> simp only [BitVec.getLsbD_append, BitVec.getLsbD_extractLsb'] <;> rfl
theorem field_imm13 (i : BitVec 13) (m : BitVec 3) : i.extractLsb' 5 8 ++ (i.extractLsb' 0 5 ++ m).extractLsb' 3 5 = i := by
  refine BitVec.eq_of_getLsbD_eq fun k hk => ?_
  have hk : k < 13 := hk
  interval_cases k <;> simp only [BitVec.getLsbD_append, BitVec.getLsbD_extractLsb'] <;> rfl
theorem field_pred13 : ∀ (x : BitVec 5) (m : BitVec 3), (x ++ m).extractLsb' 0 3 = m := by decide
theorem field_off20 (o : BitVec 20) (n : BitVec 1) (p : BitVec 3) :
    o.extractLsb' 12 8 ++ o.extractLsb' 4 8 ++ (o.extractLsb' 0 4 ++ n ++ p).extractLsb' 4 4 = o := by
  refine BitVec.eq_of_getLsbD_eq fun k hk => ?_
  have hk : k < 20 := hk
  interval_cases k <;> simp only [BitVec.getLsbD_append, BitVec.getLsbD_extractLsb'] <;> rfl
theorem field_branch : ∀ (x : BitVec 4) (n : BitVec 1) (p : BitVec 3),
    (x ++ n ++ p).extractLsb' 0 3 = p ∧ (x ++ n ++ p).extractLsb' 3 1 = n ∧ (x ++ n ++ p).extractLsb' 4 4 = x := by decide
theorem field_imm8 : ∀ i : BitVec 8, i.extractLsb' 4 4 ++ i.extractLsb' 0 4 = i := by decide
theorem two_bits : ∀ k : BitVec 2, k = 0#2 ∨ k = 1#2 ∨ k = 2#2 ∨ k = 3#2 := by decide
theorem one_ne_zero8 : ∀ x : BitVec 7, ¬ (1#1 ++ x) &&& 0x80#8 = 0x00#8 := by decide
theorem eight_low4 : ∀ x : BitVec 4, ¬ (8#4 ++ x) &&& 0xE0#8 = 0x00#8 := by decide
theorem field_half (d : BitVec 6) (s : BitVec 5) (k : BitVec 5) :
    ((s ++ d.extractLsb' 3 3) ++ (d.extractLsb' 0 3 ++ k)).extractLsb' 1 4 = k.extractLsb' 1 4
      ∧ ((s ++ d.extractLsb' 3 3) ++ (d.extractLsb' 0 3 ++ k)).extractLsb' 5 6 = d
      ∧ ((s ++ d.extractLsb' 3 3) ++ (d.extractLsb' 0 3 ++ k)).extractLsb' 11 5 = s := by
  refine ⟨?_, ?_, ?_⟩ <;> refine BitVec.eq_of_getLsbD_eq fun k hk => ?_ <;> interval_cases k <;>
    simp only [BitVec.getLsbD_append, BitVec.getLsbD_extractLsb'] <;> rfl
theorem even_half (d : BitVec 6) : (d.extractLsb' 0 3 ++ 0#5).getLsbD 0 = false := by
  simp only [BitVec.getLsbD_append]; rfl

/-! ### A whole instruction -/

theorem decode_word {i : Instr} {lo d a b : Byte} (hl : lo.getLsbD 0 = true) (he : encode i = [lo, d, a, b]) (hd : decode32 lo d a b = some i)
    (hw : i.wellFormed = true) (rest : List Byte) : decode (encode i ++ rest) = .ok (i, rest) := by
  rw [he]
  simp only [List.cons_append, List.nil_append, decode, hl, if_true, hd, checked, hw]
  rfl

theorem decode_half {i : Instr} {lo d : Byte} (hl : lo.getLsbD 0 = false) (he : encode i = [lo, d]) (hd : decode16 (d ++ lo) = some i)
    (hw : i.wellFormed = true) (rest : List Byte) : decode (encode i ++ rest) = .ok (i, rest) := by
  rw [he]
  simp only [List.cons_append, List.nil_append, decode, hl, Bool.false_eq_true, if_false, hd, checked, hw]
  rfl

/-- A format-C16 instruction, by its operation number. -/
theorem decode_c16 {i : Instr} (op : BitVec 5) (d : BitVec 6) (s : BitVec 5) (f : BitVec 6 → BitVec 5 → Instr)
    (hk : op.getLsbD 0 = false) (he : encode (f d s) = [d.extractLsb' 0 3 ++ op, s ++ d.extractLsb' 3 3])
    (hd : ∀ h : BitVec 16, h.extractLsb' 1 4 = op.extractLsb' 1 4 → decode16 h = some (f (h.extractLsb' 5 6) (h.extractLsb' 11 5)))
    (hi : i = f d s) (hw : i.wellFormed = true) (rest : List Byte) : decode (encode i ++ rest) = .ok (i, rest) := by
  subst hi
  refine decode_half (lo := d.extractLsb' 0 3 ++ op) (d := s ++ d.extractLsb' 3 3) ?_ he ?_ hw rest
  · simp only [BitVec.getLsbD_append]; simpa using hk
  · obtain ⟨h1, h2, h3⟩ := field_half d s op
    rw [hd _ h1, h2, h3]

/-! ### The constructors -/


theorem Laws.Encoding.iadd (d) (a) (b) : Statement (.iadd d a b) := fun _ hw => decode_word rfl rfl rfl hw
theorem Laws.Encoding.isub (d) (a) (b) : Statement (.isub d a b) := fun _ hw => decode_word rfl rfl rfl hw
theorem Laws.Encoding.imul (d) (a) (b) : Statement (.imul d a b) := fun _ hw => decode_word rfl rfl rfl hw
theorem Laws.Encoding.imulh (d) (a) (b) : Statement (.imulh d a b) := fun _ hw => decode_word rfl rfl rfl hw
theorem Laws.Encoding.imulhu (d) (a) (b) : Statement (.imulhu d a b) := fun _ hw => decode_word rfl rfl rfl hw
theorem Laws.Encoding.imad (d) (a) (b) : Statement (.imad d a b) := fun _ hw => decode_word rfl rfl rfl hw
theorem Laws.Encoding.imin (d) (a) (b) : Statement (.imin d a b) := fun _ hw => decode_word rfl rfl rfl hw
theorem Laws.Encoding.imax (d) (a) (b) : Statement (.imax d a b) := fun _ hw => decode_word rfl rfl rfl hw
theorem Laws.Encoding.iminu (d) (a) (b) : Statement (.iminu d a b) := fun _ hw => decode_word rfl rfl rfl hw
theorem Laws.Encoding.imaxu (d) (a) (b) : Statement (.imaxu d a b) := fun _ hw => decode_word rfl rfl rfl hw
theorem Laws.Encoding.and (d) (a) (b) : Statement (.and d a b) := fun _ hw => decode_word rfl rfl rfl hw
theorem Laws.Encoding.or (d) (a) (b) : Statement (.or d a b) := fun _ hw => decode_word rfl rfl rfl hw
theorem Laws.Encoding.xor (d) (a) (b) : Statement (.xor d a b) := fun _ hw => decode_word rfl rfl rfl hw
theorem Laws.Encoding.andn (d) (a) (b) : Statement (.andn d a b) := fun _ hw => decode_word rfl rfl rfl hw
theorem Laws.Encoding.shl (d) (a) (b) : Statement (.shl d a b) := fun _ hw => decode_word rfl rfl rfl hw
theorem Laws.Encoding.shrl (d) (a) (b) : Statement (.shrl d a b) := fun _ hw => decode_word rfl rfl rfl hw
theorem Laws.Encoding.shra (d) (a) (b) : Statement (.shra d a b) := fun _ hw => decode_word rfl rfl rfl hw
theorem Laws.Encoding.rotl (d) (a) (b) : Statement (.rotl d a b) := fun _ hw => decode_word rfl rfl rfl hw
theorem Laws.Encoding.bfx (d) (a) (b) : Statement (.bfx d a b) := fun _ hw => decode_word rfl rfl rfl hw
theorem Laws.Encoding.bfi (d) (a) (b) : Statement (.bfi d a b) := fun _ hw => decode_word rfl rfl rfl hw
theorem Laws.Encoding.iadd64 (d) (a) (b) : Statement (.iadd64 d a b) := fun _ hw => decode_word rfl rfl rfl hw
theorem Laws.Encoding.isub64 (d) (a) (b) : Statement (.isub64 d a b) := fun _ hw => decode_word rfl rfl rfl hw
theorem Laws.Encoding.imulw (d) (a) (b) : Statement (.imulw d a b) := fun _ hw => decode_word rfl rfl rfl hw
theorem Laws.Encoding.imulwu (d) (a) (b) : Statement (.imulwu d a b) := fun _ hw => decode_word rfl rfl rfl hw
theorem Laws.Encoding.icmpEq (m) (a) (b) : Statement (.icmpEq m a b) := fun _ hw => decode_word rfl rfl (by refine (if_pos ?_).trans ?_ <;> simp only [field_low7, field_low6, field_low5, field_low4, field_low3, field_low2, field_low1, field_pair, field_slot, zero_low7, one_low7, zero_low6, zero_low5, zero_low4, zero_low3, zero_low2, zero_low1, zero_pair, zero_slot, zero_pred, field_imm16, field_imm13, field_pred13, field_off20, field_branch, field_imm8, and_self, and_true, true_and]) hw
theorem Laws.Encoding.icmpNe (m) (a) (b) : Statement (.icmpNe m a b) := fun _ hw => decode_word rfl rfl (by refine (if_pos ?_).trans ?_ <;> simp only [field_low7, field_low6, field_low5, field_low4, field_low3, field_low2, field_low1, field_pair, field_slot, zero_low7, one_low7, zero_low6, zero_low5, zero_low4, zero_low3, zero_low2, zero_low1, zero_pair, zero_slot, zero_pred, field_imm16, field_imm13, field_pred13, field_off20, field_branch, field_imm8, and_self, and_true, true_and]) hw
theorem Laws.Encoding.icmpLt (m) (a) (b) : Statement (.icmpLt m a b) := fun _ hw => decode_word rfl rfl (by refine (if_pos ?_).trans ?_ <;> simp only [field_low7, field_low6, field_low5, field_low4, field_low3, field_low2, field_low1, field_pair, field_slot, zero_low7, one_low7, zero_low6, zero_low5, zero_low4, zero_low3, zero_low2, zero_low1, zero_pair, zero_slot, zero_pred, field_imm16, field_imm13, field_pred13, field_off20, field_branch, field_imm8, and_self, and_true, true_and]) hw
theorem Laws.Encoding.icmpLe (m) (a) (b) : Statement (.icmpLe m a b) := fun _ hw => decode_word rfl rfl (by refine (if_pos ?_).trans ?_ <;> simp only [field_low7, field_low6, field_low5, field_low4, field_low3, field_low2, field_low1, field_pair, field_slot, zero_low7, one_low7, zero_low6, zero_low5, zero_low4, zero_low3, zero_low2, zero_low1, zero_pair, zero_slot, zero_pred, field_imm16, field_imm13, field_pred13, field_off20, field_branch, field_imm8, and_self, and_true, true_and]) hw
theorem Laws.Encoding.icmpLtu (m) (a) (b) : Statement (.icmpLtu m a b) := fun _ hw => decode_word rfl rfl (by refine (if_pos ?_).trans ?_ <;> simp only [field_low7, field_low6, field_low5, field_low4, field_low3, field_low2, field_low1, field_pair, field_slot, zero_low7, one_low7, zero_low6, zero_low5, zero_low4, zero_low3, zero_low2, zero_low1, zero_pair, zero_slot, zero_pred, field_imm16, field_imm13, field_pred13, field_off20, field_branch, field_imm8, and_self, and_true, true_and]) hw
theorem Laws.Encoding.icmpLeu (m) (a) (b) : Statement (.icmpLeu m a b) := fun _ hw => decode_word rfl rfl (by refine (if_pos ?_).trans ?_ <;> simp only [field_low7, field_low6, field_low5, field_low4, field_low3, field_low2, field_low1, field_pair, field_slot, zero_low7, one_low7, zero_low6, zero_low5, zero_low4, zero_low3, zero_low2, zero_low1, zero_pair, zero_slot, zero_pred, field_imm16, field_imm13, field_pred13, field_off20, field_branch, field_imm8, and_self, and_true, true_and]) hw
theorem Laws.Encoding.sel (d) (a) (b) : Statement (.sel d a b) := fun _ hw => decode_word rfl rfl rfl hw
theorem Laws.Encoding.iaddsat (d) (a) (b) : Statement (.iaddsat d a b) := fun _ hw => decode_word rfl rfl rfl hw
theorem Laws.Encoding.fadd (d) (a) (b) : Statement (.fadd d a b) := fun _ hw => decode_word rfl rfl rfl hw
theorem Laws.Encoding.fsub (d) (a) (b) : Statement (.fsub d a b) := fun _ hw => decode_word rfl rfl rfl hw
theorem Laws.Encoding.fmul (d) (a) (b) : Statement (.fmul d a b) := fun _ hw => decode_word rfl rfl rfl hw
theorem Laws.Encoding.ffma (d) (a) (b) : Statement (.ffma d a b) := fun _ hw => decode_word rfl rfl rfl hw
theorem Laws.Encoding.fmin (d) (a) (b) : Statement (.fmin d a b) := fun _ hw => decode_word rfl rfl rfl hw
theorem Laws.Encoding.fmax (d) (a) (b) : Statement (.fmax d a b) := fun _ hw => decode_word rfl rfl rfl hw
theorem Laws.Encoding.fcmpEq (m) (a) (b) : Statement (.fcmpEq m a b) := fun _ hw => decode_word rfl rfl (by refine (if_pos ?_).trans ?_ <;> simp only [field_low7, field_low6, field_low5, field_low4, field_low3, field_low2, field_low1, field_pair, field_slot, zero_low7, one_low7, zero_low6, zero_low5, zero_low4, zero_low3, zero_low2, zero_low1, zero_pair, zero_slot, zero_pred, field_imm16, field_imm13, field_pred13, field_off20, field_branch, field_imm8, and_self, and_true, true_and]) hw
theorem Laws.Encoding.fcmpLt (m) (a) (b) : Statement (.fcmpLt m a b) := fun _ hw => decode_word rfl rfl (by refine (if_pos ?_).trans ?_ <;> simp only [field_low7, field_low6, field_low5, field_low4, field_low3, field_low2, field_low1, field_pair, field_slot, zero_low7, one_low7, zero_low6, zero_low5, zero_low4, zero_low3, zero_low2, zero_low1, zero_pair, zero_slot, zero_pred, field_imm16, field_imm13, field_pred13, field_off20, field_branch, field_imm8, and_self, and_true, true_and]) hw
theorem Laws.Encoding.fcmpLe (m) (a) (b) : Statement (.fcmpLe m a b) := fun _ hw => decode_word rfl rfl (by refine (if_pos ?_).trans ?_ <;> simp only [field_low7, field_low6, field_low5, field_low4, field_low3, field_low2, field_low1, field_pair, field_slot, zero_low7, one_low7, zero_low6, zero_low5, zero_low4, zero_low3, zero_low2, zero_low1, zero_pair, zero_slot, zero_pred, field_imm16, field_imm13, field_pred13, field_off20, field_branch, field_imm8, and_self, and_true, true_and]) hw
theorem Laws.Encoding.fcmpUn (m) (a) (b) : Statement (.fcmpUn m a b) := fun _ hw => decode_word rfl rfl (by refine (if_pos ?_).trans ?_ <;> simp only [field_low7, field_low6, field_low5, field_low4, field_low3, field_low2, field_low1, field_pair, field_slot, zero_low7, one_low7, zero_low6, zero_low5, zero_low4, zero_low3, zero_low2, zero_low1, zero_pair, zero_slot, zero_pred, field_imm16, field_imm13, field_pred13, field_off20, field_branch, field_imm8, and_self, and_true, true_and]) hw
theorem Laws.Encoding.fcopysign (d) (a) (b) : Statement (.fcopysign d a b) := fun _ hw => decode_word rfl rfl rfl hw
theorem Laws.Encoding.fscale (d) (a) (b) : Statement (.fscale d a b) := fun _ hw => decode_word rfl rfl rfl hw
theorem Laws.Encoding.fdot2Bf16 (d) (a) (b) : Statement (.fdot2Bf16 d a b) := fun _ hw => decode_word rfl rfl rfl hw
theorem Laws.Encoding.fdot4E4m3 (d) (a) (b) : Statement (.fdot4E4m3 d a b) := fun _ hw => decode_word rfl rfl rfl hw
theorem Laws.Encoding.fdot4E5m2 (d) (a) (b) : Statement (.fdot4E5m2 d a b) := fun _ hw => decode_word rfl rfl rfl hw
theorem Laws.Encoding.hadd2Bf16 (d) (a) (b) : Statement (.hadd2Bf16 d a b) := fun _ hw => decode_word rfl rfl rfl hw
theorem Laws.Encoding.hmul2Bf16 (d) (a) (b) : Statement (.hmul2Bf16 d a b) := fun _ hw => decode_word rfl rfl rfl hw
theorem Laws.Encoding.hfma2Bf16 (d) (a) (b) : Statement (.hfma2Bf16 d a b) := fun _ hw => decode_word rfl rfl rfl hw
theorem Laws.Encoding.hmin2Bf16 (d) (a) (b) : Statement (.hmin2Bf16 d a b) := fun _ hw => decode_word rfl rfl rfl hw
theorem Laws.Encoding.hmax2Bf16 (d) (a) (b) : Statement (.hmax2Bf16 d a b) := fun _ hw => decode_word rfl rfl rfl hw
theorem Laws.Encoding.hadd2F16 (d) (a) (b) : Statement (.hadd2F16 d a b) := fun _ hw => decode_word rfl rfl rfl hw
theorem Laws.Encoding.hmul2F16 (d) (a) (b) : Statement (.hmul2F16 d a b) := fun _ hw => decode_word rfl rfl rfl hw
theorem Laws.Encoding.hfma2F16 (d) (a) (b) : Statement (.hfma2F16 d a b) := fun _ hw => decode_word rfl rfl rfl hw
theorem Laws.Encoding.hmin2F16 (d) (a) (b) : Statement (.hmin2F16 d a b) := fun _ hw => decode_word rfl rfl rfl hw
theorem Laws.Encoding.hmax2F16 (d) (a) (b) : Statement (.hmax2F16 d a b) := fun _ hw => decode_word rfl rfl rfl hw
theorem Laws.Encoding.pack2Bf16 (d) (a) (b) : Statement (.pack2Bf16 d a b) := fun _ hw => decode_word rfl rfl rfl hw
theorem Laws.Encoding.pack2F16 (d) (a) (b) : Statement (.pack2F16 d a b) := fun _ hw => decode_word rfl rfl rfl hw
theorem Laws.Encoding.pack4E4m3 (d) (a) (b) : Statement (.pack4E4m3 d a b) := fun _ hw => decode_word rfl rfl rfl hw
theorem Laws.Encoding.pack4E5m2 (d) (a) (b) : Statement (.pack4E5m2 d a b) := fun _ hw => decode_word rfl rfl rfl hw
theorem Laws.Encoding.bmix (d) (a) (b) : Statement (.bmix d a b) := fun _ hw => decode_word rfl rfl rfl hw
theorem Laws.Encoding.iaddi (d) (i) : Statement (.iaddi d i) := fun _ hw => decode_word rfl rfl (congrArg (fun x => some (Instr.iaddi d x)) (field_imm16 i)) hw
theorem Laws.Encoding.andi (d) (i) : Statement (.andi d i) := fun _ hw => decode_word rfl rfl (congrArg (fun x => some (Instr.andi d x)) (field_imm16 i)) hw
theorem Laws.Encoding.ori (d) (i) : Statement (.ori d i) := fun _ hw => decode_word rfl rfl (congrArg (fun x => some (Instr.ori d x)) (field_imm16 i)) hw
theorem Laws.Encoding.xori (d) (i) : Statement (.xori d i) := fun _ hw => decode_word rfl rfl (congrArg (fun x => some (Instr.xori d x)) (field_imm16 i)) hw
theorem Laws.Encoding.movi (d) (i) : Statement (.movi d i) := fun _ hw => decode_word rfl rfl (congrArg (fun x => some (Instr.movi d x)) (field_imm16 i)) hw
theorem Laws.Encoding.movhi (d) (i) : Statement (.movhi d i) := fun _ hw => decode_word rfl rfl (congrArg (fun x => some (Instr.movhi d x)) (field_imm16 i)) hw
theorem Laws.Encoding.shli (d) (i) : Statement (.shli d i) := fun _ hw => decode_word rfl rfl (by refine (if_pos ?_).trans ?_ <;> simp only [field_low7, field_low6, field_low5, field_low4, field_low3, field_low2, field_low1, field_pair, field_slot, zero_low7, one_low7, zero_low6, zero_low5, zero_low4, zero_low3, zero_low2, zero_low1, zero_pair, zero_slot, zero_pred, field_imm16, field_imm13, field_pred13, field_off20, field_branch, field_imm8, and_self, and_true, true_and]) hw
theorem Laws.Encoding.shrli (d) (i) : Statement (.shrli d i) := fun _ hw => decode_word rfl rfl (by refine (if_pos ?_).trans ?_ <;> simp only [field_low7, field_low6, field_low5, field_low4, field_low3, field_low2, field_low1, field_pair, field_slot, zero_low7, one_low7, zero_low6, zero_low5, zero_low4, zero_low3, zero_low2, zero_low1, zero_pair, zero_slot, zero_pred, field_imm16, field_imm13, field_pred13, field_off20, field_branch, field_imm8, and_self, and_true, true_and]) hw
theorem Laws.Encoding.shrai (d) (i) : Statement (.shrai d i) := fun _ hw => decode_word rfl rfl (by refine (if_pos ?_).trans ?_ <;> simp only [field_low7, field_low6, field_low5, field_low4, field_low3, field_low2, field_low1, field_pair, field_slot, zero_low7, one_low7, zero_low6, zero_low5, zero_low4, zero_low3, zero_low2, zero_low1, zero_pair, zero_slot, zero_pred, field_imm16, field_imm13, field_pred13, field_off20, field_branch, field_imm8, and_self, and_true, true_and]) hw
theorem Laws.Encoding.icmpiEq (s) (m) (i) : Statement (.icmpiEq s m i) := fun _ hw => decode_word rfl rfl ((congr (congrArg (fun m x => some (Instr.icmpiEq s m x)) (field_pred13 _ m)) (field_imm13 i m))) hw
theorem Laws.Encoding.icmpiLt (s) (m) (i) : Statement (.icmpiLt s m i) := fun _ hw => decode_word rfl rfl ((congr (congrArg (fun m x => some (Instr.icmpiLt s m x)) (field_pred13 _ m)) (field_imm13 i m))) hw
theorem Laws.Encoding.fmovi (d) (i) : Statement (.fmovi d i) := fun _ hw => decode_word rfl rfl (congrArg (fun x => some (Instr.fmovi d x)) (field_imm16 i)) hw
theorem Laws.Encoding.lxPick (d) (a) (b) : Statement (.lxPick d a b) := fun _ hw => decode_word rfl rfl rfl hw
theorem Laws.Encoding.lxMirror (d) (a) (b) : Statement (.lxMirror d a b) := fun _ hw => decode_word rfl rfl rfl hw
theorem Laws.Encoding.lxRot (d) (a) (b) : Statement (.lxRot d a b) := fun _ hw => decode_word rfl rfl rfl hw
theorem Laws.Encoding.lxSlide (d) (a) (b) : Statement (.lxSlide d a b) := fun _ hw => decode_word rfl rfl rfl hw
theorem Laws.Encoding.ldB (d) (a) (o) : Statement (.ldB d a o) := fun _ hw => decode_word rfl rfl rfl hw
theorem Laws.Encoding.ldBs (d) (a) (o) : Statement (.ldBs d a o) := fun _ hw => decode_word rfl rfl rfl hw
theorem Laws.Encoding.ldH (d) (a) (o) : Statement (.ldH d a o) := fun _ hw => decode_word rfl rfl rfl hw
theorem Laws.Encoding.ldHs (d) (a) (o) : Statement (.ldHs d a o) := fun _ hw => decode_word rfl rfl rfl hw
theorem Laws.Encoding.ldW (d) (a) (o) : Statement (.ldW d a o) := fun _ hw => decode_word rfl rfl rfl hw
theorem Laws.Encoding.ldD (d) (a) (o) : Statement (.ldD d a o) := fun _ hw => decode_word rfl rfl rfl hw
theorem Laws.Encoding.ldQ (d) (a) (o) : Statement (.ldQ d a o) := fun _ hw => decode_word rfl rfl rfl hw
theorem Laws.Encoding.stB (d) (a) (o) : Statement (.stB d a o) := fun _ hw => decode_word rfl rfl rfl hw
theorem Laws.Encoding.stH (d) (a) (o) : Statement (.stH d a o) := fun _ hw => decode_word rfl rfl rfl hw
theorem Laws.Encoding.stW (d) (a) (o) : Statement (.stW d a o) := fun _ hw => decode_word rfl rfl rfl hw
theorem Laws.Encoding.stD (d) (a) (o) : Statement (.stD d a o) := fun _ hw => decode_word rfl rfl rfl hw
theorem Laws.Encoding.stQ (d) (a) (o) : Statement (.stQ d a o) := fun _ hw => decode_word rfl rfl rfl hw
theorem Laws.Encoding.ldc (d) (a) (o) : Statement (.ldc d a o) := fun _ hw => decode_word rfl rfl rfl hw
theorem Laws.Encoding.ldrawW (d) (a) (o) : Statement (.ldrawW d a o) := fun _ hw => decode_word rfl rfl rfl hw
theorem Laws.Encoding.strawW (d) (a) (o) : Statement (.strawW d a o) := fun _ hw => decode_word rfl rfl rfl hw
theorem Laws.Encoding.atomAdd (d) (a) (b) : Statement (.atomAdd d a b) := fun _ hw => decode_word rfl rfl rfl hw
theorem Laws.Encoding.atomSmin (d) (a) (b) : Statement (.atomSmin d a b) := fun _ hw => decode_word rfl rfl rfl hw
theorem Laws.Encoding.atomSmax (d) (a) (b) : Statement (.atomSmax d a b) := fun _ hw => decode_word rfl rfl rfl hw
theorem Laws.Encoding.atomUmin (d) (a) (b) : Statement (.atomUmin d a b) := fun _ hw => decode_word rfl rfl rfl hw
theorem Laws.Encoding.atomUmax (d) (a) (b) : Statement (.atomUmax d a b) := fun _ hw => decode_word rfl rfl rfl hw
theorem Laws.Encoding.atomAnd (d) (a) (b) : Statement (.atomAnd d a b) := fun _ hw => decode_word rfl rfl rfl hw
theorem Laws.Encoding.atomOr (d) (a) (b) : Statement (.atomOr d a b) := fun _ hw => decode_word rfl rfl rfl hw
theorem Laws.Encoding.atomXor (d) (a) (b) : Statement (.atomXor d a b) := fun _ hw => decode_word rfl rfl rfl hw
theorem Laws.Encoding.atomXchg (d) (a) (b) : Statement (.atomXchg d a b) := fun _ hw => decode_word rfl rfl rfl hw
theorem Laws.Encoding.atomCas (d) (a) (b) : Statement (.atomCas d a b) := fun _ hw => decode_word rfl rfl rfl hw
theorem Laws.Encoding.atomFadd (d) (a) (b) : Statement (.atomFadd d a b) := fun _ hw => decode_word rfl rfl rfl hw
theorem Laws.Encoding.atomaggAdd (d) (a) (b) : Statement (.atomaggAdd d a b) := fun _ hw => decode_word rfl rfl rfl hw
theorem Laws.Encoding.ldt (d) (a) (o) : Statement (.ldt d a o) := fun _ hw => decode_word rfl rfl rfl hw
theorem Laws.Encoding.stt (d) (a) (o) : Statement (.stt d a o) := fun _ hw => decode_word rfl rfl rfl hw
theorem Laws.Encoding.tatomAdd (d) (a) (b) : Statement (.tatomAdd d a b) := fun _ hw => decode_word rfl rfl rfl hw
theorem Laws.Encoding.tatomCas (d) (a) (b) : Statement (.tatomCas d a b) := fun _ hw => decode_word rfl rfl rfl hw
theorem Laws.Encoding.bra (p) (n) (o) : Statement (.bra p n o) := fun _ hw => decode_word rfl rfl ((congr (congr (congrArg (fun p n x => some (Instr.bra p n x)) (field_branch _ n p).1) (field_branch _ n p).2.1) (field_off20 o n p))) hw
theorem Laws.Encoding.call (p) (n) (o) : Statement (.call p n o) := fun _ hw => decode_word rfl rfl ((congr (congr (congrArg (fun p n x => some (Instr.call p n x)) (field_branch _ n p).1) (field_branch _ n p).2.1) (field_off20 o n p))) hw
theorem Laws.Encoding.bri (a) (t) : Statement (.bri a t) := fun _ hw => decode_word rfl rfl (by refine (if_pos ?_).trans ?_ <;> simp only [field_low7, field_low6, field_low5, field_low4, field_low3, field_low2, field_low1, field_pair, field_slot, zero_low7, one_low7, zero_low6, zero_low5, zero_low4, zero_low3, zero_low2, zero_low1, zero_pair, zero_slot, zero_pred, field_imm16, field_imm13, field_pred13, field_off20, field_branch, field_imm8, and_self, and_true, true_and]) hw
theorem Laws.Encoding.calli (a) (t) : Statement (.calli a t) := fun _ hw => decode_word rfl rfl (by refine (if_pos ?_).trans ?_ <;> simp only [field_low7, field_low6, field_low5, field_low4, field_low3, field_low2, field_low1, field_pair, field_slot, zero_low7, one_low7, zero_low6, zero_low5, zero_low4, zero_low3, zero_low2, zero_low1, zero_pair, zero_slot, zero_pred, field_imm16, field_imm13, field_pred13, field_off20, field_branch, field_imm8, and_self, and_true, true_and]) hw
theorem Laws.Encoding.ret (p) (n) : Statement (.ret p n) := fun _ hw => decode_word rfl rfl (by refine (if_pos ?_).trans ?_ <;> simp only [field_low7, field_low6, field_low5, field_low4, field_low3, field_low2, field_low1, field_pair, field_slot, zero_low7, one_low7, zero_low6, zero_low5, zero_low4, zero_low3, zero_low2, zero_low1, zero_pair, zero_slot, zero_pred, field_imm16, field_imm13, field_pred13, field_off20, field_branch, field_imm8, and_self, and_true, true_and]) hw
theorem Laws.Encoding.exit (p) (n) : Statement (.exit p n) := fun _ hw => decode_word rfl rfl (by refine (if_pos ?_).trans ?_ <;> simp only [field_low7, field_low6, field_low5, field_low4, field_low3, field_low2, field_low1, field_pair, field_slot, zero_low7, one_low7, zero_low6, zero_low5, zero_low4, zero_low3, zero_low2, zero_low1, zero_pair, zero_slot, zero_pred, field_imm16, field_imm13, field_pred13, field_off20, field_branch, field_imm8, and_self, and_true, true_and]) hw
theorem Laws.Encoding.trap (p) (n) (i) : Statement (.trap p n i) := fun _ hw => decode_word rfl rfl (by refine (if_pos ?_).trans ?_ <;> simp only [field_low7, field_low6, field_low5, field_low4, field_low3, field_low2, field_low1, field_pair, field_slot, zero_low7, one_low7, zero_low6, zero_low5, zero_low4, zero_low3, zero_low2, zero_low1, zero_pair, zero_slot, zero_pred, field_imm16, field_imm13, field_pred13, field_off20, field_branch, field_imm8, and_self, and_true, true_and]) hw
theorem Laws.Encoding.mma (t) (r) (a) (b) : Statement (.mma t r a b) := fun _ hw => decode_word rfl rfl ((congr (congrArg (fun t r => some (Instr.mma t r a b)) (field_low7 r t).1) (field_low7 r t).2)) hw
theorem Laws.Encoding.mvs (t) (a) (b) : Statement (.mvs t a b) := fun _ hw => decode_word rfl rfl (by refine (if_pos ?_).trans ?_ <;> simp only [field_low7, field_low6, field_low5, field_low4, field_low3, field_low2, field_low1, field_pair, field_slot, zero_low7, one_low7, zero_low6, zero_low5, zero_low4, zero_low3, zero_low2, zero_low1, zero_pair, zero_slot, zero_pred, field_imm16, field_imm13, field_pred13, field_off20, field_branch, field_imm8, and_self, and_true, true_and]) hw
theorem Laws.Encoding.mzero (t) : Statement (.mzero t) := fun _ hw => decode_word rfl rfl (by refine (if_pos ?_).trans ?_ <;> simp only [field_low7, field_low6, field_low5, field_low4, field_low3, field_low2, field_low1, field_pair, field_slot, zero_low7, one_low7, zero_low6, zero_low5, zero_low4, zero_low3, zero_low2, zero_low1, zero_pair, zero_slot, zero_pred, field_imm16, field_imm13, field_pred13, field_off20, field_branch, field_imm8, and_self, and_true, true_and]) hw
theorem Laws.Encoding.mcfg (a) : Statement (.mcfg a) := fun _ hw => decode_word rfl rfl rfl hw
theorem Laws.Encoding.mdrain (t) (a) : Statement (.mdrain t a) := fun _ hw => decode_word rfl rfl (by refine (if_pos ?_).trans ?_ <;> simp only [field_low7, field_low6, field_low5, field_low4, field_low3, field_low2, field_low1, field_pair, field_slot, zero_low7, one_low7, zero_low6, zero_low5, zero_low4, zero_low3, zero_low2, zero_low1, zero_pair, zero_slot, zero_pred, field_imm16, field_imm13, field_pred13, field_off20, field_branch, field_imm8, and_self, and_true, true_and]) hw
theorem Laws.Encoding.mtbl (t) (a) : Statement (.mtbl t a) := fun _ hw => decode_word rfl rfl (by refine (if_pos ?_).trans ?_ <;> simp only [field_low7, field_low6, field_low5, field_low4, field_low3, field_low2, field_low1, field_pair, field_slot, zero_low7, one_low7, zero_low6, zero_low5, zero_low4, zero_low3, zero_low2, zero_low1, zero_pair, zero_slot, zero_pred, field_imm16, field_imm13, field_pred13, field_off20, field_branch, field_imm8, and_self, and_true, true_and]) hw
theorem Laws.Encoding.mstat (d) : Statement (.mstat d) := fun _ hw => decode_word rfl rfl rfl hw
theorem Laws.Encoding.cvtF32I32 (d) (a) : Statement (.cvtF32I32 d a) := fun _ hw => decode_word rfl rfl rfl hw
theorem Laws.Encoding.cvtF32U32 (d) (a) : Statement (.cvtF32U32 d a) := fun _ hw => decode_word rfl rfl rfl hw
theorem Laws.Encoding.cvtI32F32 (d) (a) : Statement (.cvtI32F32 d a) := fun _ hw => decode_word rfl rfl rfl hw
theorem Laws.Encoding.cvtU32F32 (d) (a) : Statement (.cvtU32F32 d a) := fun _ hw => decode_word rfl rfl rfl hw
theorem Laws.Encoding.cvtF32Bf16 (d) (a) : Statement (.cvtF32Bf16 d a) := fun _ hw => decode_word rfl rfl rfl hw
theorem Laws.Encoding.cvtF32Bf16h (d) (a) : Statement (.cvtF32Bf16h d a) := fun _ hw => decode_word rfl rfl rfl hw
theorem Laws.Encoding.cvtF32F16 (d) (a) : Statement (.cvtF32F16 d a) := fun _ hw => decode_word rfl rfl rfl hw
theorem Laws.Encoding.cvtF32F16h (d) (a) : Statement (.cvtF32F16h d a) := fun _ hw => decode_word rfl rfl rfl hw
theorem Laws.Encoding.cvtBf16F32 (d) (a) : Statement (.cvtBf16F32 d a) := fun _ hw => decode_word rfl rfl rfl hw
theorem Laws.Encoding.cvtF16F32 (d) (a) : Statement (.cvtF16F32 d a) := fun _ hw => decode_word rfl rfl rfl hw
theorem Laws.Encoding.cvtE4m3F32 (d) (a) : Statement (.cvtE4m3F32 d a) := fun _ hw => decode_word rfl rfl rfl hw
theorem Laws.Encoding.cvtE5m2F32 (d) (a) : Statement (.cvtE5m2F32 d a) := fun _ hw => decode_word rfl rfl rfl hw
theorem Laws.Encoding.cvtF32E4m3Bk (d) (a) (k) : Statement (.cvtF32E4m3Bk d a k) := fun _ hw => decode_word rfl rfl (by rcases two_bits k with rfl | rfl | rfl | rfl <;> rfl) hw
theorem Laws.Encoding.cvtF32E5m2Bk (d) (a) (k) : Statement (.cvtF32E5m2Bk d a k) := fun _ hw => decode_word rfl rfl (by rcases two_bits k with rfl | rfl | rfl | rfl <;> rfl) hw
theorem Laws.Encoding.frnd (d) (a) : Statement (.frnd d a) := fun _ hw => decode_word rfl rfl rfl hw
theorem Laws.Encoding.fclass (d) (a) : Statement (.fclass d a) := fun _ hw => decode_word rfl rfl rfl hw
theorem Laws.Encoding.fabs (d) (a) : Statement (.fabs d a) := fun _ hw => decode_word rfl rfl rfl hw
theorem Laws.Encoding.fneg (d) (a) : Statement (.fneg d a) := fun _ hw => decode_word rfl rfl rfl hw
theorem Laws.Encoding.ineg (d) (a) : Statement (.ineg d a) := fun _ hw => decode_word rfl rfl rfl hw
theorem Laws.Encoding.iabs (d) (a) : Statement (.iabs d a) := fun _ hw => decode_word rfl rfl rfl hw
theorem Laws.Encoding.not (d) (a) : Statement (.not d a) := fun _ hw => decode_word rfl rfl rfl hw
theorem Laws.Encoding.popc (d) (a) : Statement (.popc d a) := fun _ hw => decode_word rfl rfl rfl hw
theorem Laws.Encoding.clz (d) (a) : Statement (.clz d a) := fun _ hw => decode_word rfl rfl rfl hw
theorem Laws.Encoding.brev (d) (a) : Statement (.brev d a) := fun _ hw => decode_word rfl rfl rfl hw
theorem Laws.Encoding.mov (d) (a) : Statement (.mov d a) := fun _ hw => decode_word rfl rfl rfl hw
theorem Laws.Encoding.rcp (d) (a) : Statement (.rcp d a) := fun _ hw => decode_word rfl rfl rfl hw
theorem Laws.Encoding.rsq (d) (a) : Statement (.rsq d a) := fun _ hw => decode_word rfl rfl rfl hw
theorem Laws.Encoding.sqrt (d) (a) : Statement (.sqrt d a) := fun _ hw => decode_word rfl rfl rfl hw
theorem Laws.Encoding.exp2 (d) (a) : Statement (.exp2 d a) := fun _ hw => decode_word rfl rfl rfl hw
theorem Laws.Encoding.log2 (d) (a) : Statement (.log2 d a) := fun _ hw => decode_word rfl rfl rfl hw
theorem Laws.Encoding.sin (d) (a) : Statement (.sin d a) := fun _ hw => decode_word rfl rfl rfl hw
theorem Laws.Encoding.cos (d) (a) : Statement (.cos d a) := fun _ hw => decode_word rfl rfl rfl hw
theorem Laws.Encoding.tanh (d) (a) : Statement (.tanh d a) := fun _ hw => decode_word rfl rfl rfl hw
theorem Laws.Encoding.sigm (d) (a) : Statement (.sigm d a) := fun _ hw => decode_word rfl rfl rfl hw
theorem Laws.Encoding.voteAny (d) (a) : Statement (.voteAny d a) := fun _ hw => decode_word rfl rfl (by refine (if_pos ?_).trans ?_ <;> simp only [field_low7, field_low6, field_low5, field_low4, field_low3, field_low2, field_low1, field_pair, field_slot, zero_low7, one_low7, zero_low6, zero_low5, zero_low4, zero_low3, zero_low2, zero_low1, zero_pair, zero_slot, zero_pred, field_imm16, field_imm13, field_pred13, field_off20, field_branch, field_imm8, and_self, and_true, true_and]) hw
theorem Laws.Encoding.voteAll (d) (a) : Statement (.voteAll d a) := fun _ hw => decode_word rfl rfl (by refine (if_pos ?_).trans ?_ <;> simp only [field_low7, field_low6, field_low5, field_low4, field_low3, field_low2, field_low1, field_pair, field_slot, zero_low7, one_low7, zero_low6, zero_low5, zero_low4, zero_low3, zero_low2, zero_low1, zero_pair, zero_slot, zero_pred, field_imm16, field_imm13, field_pred13, field_off20, field_branch, field_imm8, and_self, and_true, true_and]) hw
theorem Laws.Encoding.ballot (d) (a) : Statement (.ballot d a) := fun _ hw => decode_word rfl rfl (by refine (if_pos ?_).trans ?_ <;> simp only [field_low7, field_low6, field_low5, field_low4, field_low3, field_low2, field_low1, field_pair, field_slot, zero_low7, one_low7, zero_low6, zero_low5, zero_low4, zero_low3, zero_low2, zero_low1, zero_pair, zero_slot, zero_pred, field_imm16, field_imm13, field_pred13, field_off20, field_branch, field_imm8, and_self, and_true, true_and]) hw
theorem Laws.Encoding.reduceIadd (d) (a) : Statement (.reduceIadd d a) := fun _ hw => decode_word rfl rfl rfl hw
theorem Laws.Encoding.reduceFadd (d) (a) : Statement (.reduceFadd d a) := fun _ hw => decode_word rfl rfl rfl hw
theorem Laws.Encoding.reduceFmin (d) (a) : Statement (.reduceFmin d a) := fun _ hw => decode_word rfl rfl rfl hw
theorem Laws.Encoding.reduceFmax (d) (a) : Statement (.reduceFmax d a) := fun _ hw => decode_word rfl rfl rfl hw
theorem Laws.Encoding.reduceUmin (d) (a) : Statement (.reduceUmin d a) := fun _ hw => decode_word rfl rfl rfl hw
theorem Laws.Encoding.reduceUmax (d) (a) : Statement (.reduceUmax d a) := fun _ hw => decode_word rfl rfl rfl hw
theorem Laws.Encoding.reduceAnd (d) (a) : Statement (.reduceAnd d a) := fun _ hw => decode_word rfl rfl rfl hw
theorem Laws.Encoding.reduceOr (d) (a) : Statement (.reduceOr d a) := fun _ hw => decode_word rfl rfl rfl hw
theorem Laws.Encoding.reduceXor (d) (a) : Statement (.reduceXor d a) := fun _ hw => decode_word rfl rfl rfl hw
theorem Laws.Encoding.scanIadd (d) (a) : Statement (.scanIadd d a) := fun _ hw => decode_word rfl rfl rfl hw
theorem Laws.Encoding.scanFadd (d) (a) : Statement (.scanFadd d a) := fun _ hw => decode_word rfl rfl rfl hw
theorem Laws.Encoding.bcast (d) (a) : Statement (.bcast d a) := fun _ hw => decode_word rfl rfl rfl hw
theorem Laws.Encoding.mand (d) (s) (t) : Statement (.mand d s t) := fun _ hw => decode_word rfl rfl (by refine (if_pos ?_).trans ?_ <;> simp only [field_low7, field_low6, field_low5, field_low4, field_low3, field_low2, field_low1, field_pair, field_slot, zero_low7, one_low7, zero_low6, zero_low5, zero_low4, zero_low3, zero_low2, zero_low1, zero_pair, zero_slot, zero_pred, field_imm16, field_imm13, field_pred13, field_off20, field_branch, field_imm8, and_self, and_true, true_and]) hw
theorem Laws.Encoding.mor (d) (s) (t) : Statement (.mor d s t) := fun _ hw => decode_word rfl rfl (by refine (if_pos ?_).trans ?_ <;> simp only [field_low7, field_low6, field_low5, field_low4, field_low3, field_low2, field_low1, field_pair, field_slot, zero_low7, one_low7, zero_low6, zero_low5, zero_low4, zero_low3, zero_low2, zero_low1, zero_pair, zero_slot, zero_pred, field_imm16, field_imm13, field_pred13, field_off20, field_branch, field_imm8, and_self, and_true, true_and]) hw
theorem Laws.Encoding.mxor (d) (s) (t) : Statement (.mxor d s t) := fun _ hw => decode_word rfl rfl (by refine (if_pos ?_).trans ?_ <;> simp only [field_low7, field_low6, field_low5, field_low4, field_low3, field_low2, field_low1, field_pair, field_slot, zero_low7, one_low7, zero_low6, zero_low5, zero_low4, zero_low3, zero_low2, zero_low1, zero_pair, zero_slot, zero_pred, field_imm16, field_imm13, field_pred13, field_off20, field_branch, field_imm8, and_self, and_true, true_and]) hw
theorem Laws.Encoding.mnot (d) (s) : Statement (.mnot d s) := fun _ hw => decode_word rfl rfl (by refine (if_pos ?_).trans ?_ <;> simp only [field_low7, field_low6, field_low5, field_low4, field_low3, field_low2, field_low1, field_pair, field_slot, zero_low7, one_low7, zero_low6, zero_low5, zero_low4, zero_low3, zero_low2, zero_low1, zero_pair, zero_slot, zero_pred, field_imm16, field_imm13, field_pred13, field_off20, field_branch, field_imm8, and_self, and_true, true_and]) hw
theorem Laws.Encoding.mmov (d) (s) : Statement (.mmov d s) := fun _ hw => decode_word rfl rfl (by refine (if_pos ?_).trans ?_ <;> simp only [field_low7, field_low6, field_low5, field_low4, field_low3, field_low2, field_low1, field_pair, field_slot, zero_low7, one_low7, zero_low6, zero_low5, zero_low4, zero_low3, zero_low2, zero_low1, zero_pair, zero_slot, zero_pred, field_imm16, field_imm13, field_pred13, field_off20, field_branch, field_imm8, and_self, and_true, true_and]) hw
theorem Laws.Encoding.mfromv (d) (a) : Statement (.mfromv d a) := fun _ hw => decode_word rfl rfl (by refine (if_pos ?_).trans ?_ <;> simp only [field_low7, field_low6, field_low5, field_low4, field_low3, field_low2, field_low1, field_pair, field_slot, zero_low7, one_low7, zero_low6, zero_low5, zero_low4, zero_low3, zero_low2, zero_low1, zero_pair, zero_slot, zero_pred, field_imm16, field_imm13, field_pred13, field_off20, field_branch, field_imm8, and_self, and_true, true_and]) hw
theorem Laws.Encoding.mtov (d) (a) : Statement (.mtov d a) := fun _ hw => decode_word rfl rfl (by refine (if_pos ?_).trans ?_ <;> simp only [field_low7, field_low6, field_low5, field_low4, field_low3, field_low2, field_low1, field_pair, field_slot, zero_low7, one_low7, zero_low6, zero_low5, zero_low4, zero_low3, zero_low2, zero_low1, zero_pair, zero_slot, zero_pred, field_imm16, field_imm13, field_pred13, field_off20, field_branch, field_imm8, and_self, and_true, true_and]) hw
theorem Laws.Encoding.srd (d) (n) : Statement (.srd d n) := fun _ hw => decode_word rfl rfl rfl hw
theorem Laws.Encoding.swr (n) (a) : Statement (.swr n a) := fun _ hw => decode_word rfl rfl (by refine (if_pos ?_).trans ?_ <;> simp only [field_low7, field_low6, field_low5, field_low4, field_low3, field_low2, field_low1, field_pair, field_slot, zero_low7, one_low7, zero_low6, zero_low5, zero_low4, zero_low3, zero_low2, zero_low1, zero_pair, zero_slot, zero_pred, field_imm16, field_imm13, field_pred13, field_off20, field_branch, field_imm8, and_self, and_true, true_and]) hw
theorem Laws.Encoding.swrOther (n) (a) : Statement (.swrOther n a) := fun _ hw => decode_word rfl rfl ((if_neg (one_ne_zero8 n)).trans (by refine (if_pos ?_).trans ?_ <;> simp only [field_low7, field_low6, field_low5, field_low4, field_low3, field_low2, field_low1, field_pair, field_slot, zero_low7, one_low7, zero_low6, zero_low5, zero_low4, zero_low3, zero_low2, zero_low1, zero_pair, zero_slot, zero_pred, field_imm16, field_imm13, field_pred13, field_off20, field_branch, field_imm8, and_self, and_true, true_and])) hw
theorem Laws.Encoding.c16Mov (d) (s) : Statement (.c16Mov d s) := fun _ hw => decode_c16 0x0#5 d s Instr.c16Mov rfl rfl (fun h e => by simp only [decode16, e]; rfl) rfl hw
theorem Laws.Encoding.c16Iadd (d) (s) : Statement (.c16Iadd d s) := fun _ hw => decode_c16 0x2#5 d s Instr.c16Iadd rfl rfl (fun h e => by simp only [decode16, e]; rfl) rfl hw
theorem Laws.Encoding.c16Isub (d) (s) : Statement (.c16Isub d s) := fun _ hw => decode_c16 0x4#5 d s Instr.c16Isub rfl rfl (fun h e => by simp only [decode16, e]; rfl) rfl hw
theorem Laws.Encoding.c16Imul (d) (s) : Statement (.c16Imul d s) := fun _ hw => decode_c16 0x6#5 d s Instr.c16Imul rfl rfl (fun h e => by simp only [decode16, e]; rfl) rfl hw
theorem Laws.Encoding.c16And (d) (s) : Statement (.c16And d s) := fun _ hw => decode_c16 0x8#5 d s Instr.c16And rfl rfl (fun h e => by simp only [decode16, e]; rfl) rfl hw
theorem Laws.Encoding.c16Or (d) (s) : Statement (.c16Or d s) := fun _ hw => decode_c16 0xA#5 d s Instr.c16Or rfl rfl (fun h e => by simp only [decode16, e]; rfl) rfl hw
theorem Laws.Encoding.c16Xor (d) (s) : Statement (.c16Xor d s) := fun _ hw => decode_c16 0xC#5 d s Instr.c16Xor rfl rfl (fun h e => by simp only [decode16, e]; rfl) rfl hw
theorem Laws.Encoding.c16Shl (d) (s) : Statement (.c16Shl d s) := fun _ hw => decode_c16 0xE#5 d s Instr.c16Shl rfl rfl (fun h e => by simp only [decode16, e]; rfl) rfl hw
theorem Laws.Encoding.c16Shrl (d) (s) : Statement (.c16Shrl d s) := fun _ hw => decode_c16 0x10#5 d s Instr.c16Shrl rfl rfl (fun h e => by simp only [decode16, e]; rfl) rfl hw
theorem Laws.Encoding.c16Shra (d) (s) : Statement (.c16Shra d s) := fun _ hw => decode_c16 0x12#5 d s Instr.c16Shra rfl rfl (fun h e => by simp only [decode16, e]; rfl) rfl hw
theorem Laws.Encoding.c16Fadd (d) (s) : Statement (.c16Fadd d s) := fun _ hw => decode_c16 0x14#5 d s Instr.c16Fadd rfl rfl (fun h e => by simp only [decode16, e]; rfl) rfl hw
theorem Laws.Encoding.c16Fsub (d) (s) : Statement (.c16Fsub d s) := fun _ hw => decode_c16 0x16#5 d s Instr.c16Fsub rfl rfl (fun h e => by simp only [decode16, e]; rfl) rfl hw
theorem Laws.Encoding.c16Fmul (d) (s) : Statement (.c16Fmul d s) := fun _ hw => decode_c16 0x18#5 d s Instr.c16Fmul rfl rfl (fun h e => by simp only [decode16, e]; rfl) rfl hw
theorem Laws.Encoding.c16Fmax (d) (s) : Statement (.c16Fmax d s) := fun _ hw => decode_c16 0x1A#5 d s Instr.c16Fmax rfl rfl (fun h e => by simp only [decode16, e]; rfl) rfl hw
theorem Laws.Encoding.c16Fmin (d) (s) : Statement (.c16Fmin d s) := fun _ hw => decode_c16 0x1C#5 d s Instr.c16Fmin rfl rfl (fun h e => by simp only [decode16, e]; rfl) rfl hw
theorem Laws.Encoding.nop : Statement (.nop) := fun _ hw => decode_half rfl rfl rfl hw
theorem Laws.Encoding.c16Yield : Statement (.c16Yield) := fun _ hw => decode_half rfl rfl rfl hw
theorem Laws.Encoding.tcopyIn (t) (a) : Statement (.tcopyIn t a) := fun _ hw => decode_word rfl rfl (by refine (if_pos ?_).trans ?_ <;> simp only [field_low7, field_low6, field_low5, field_low4, field_low3, field_low2, field_low1, field_pair, field_slot, zero_low7, one_low7, zero_low6, zero_low5, zero_low4, zero_low3, zero_low2, zero_low1, zero_pair, zero_slot, zero_pred, field_imm16, field_imm13, field_pred13, field_off20, field_branch, field_imm8, and_self, and_true, true_and]) hw
theorem Laws.Encoding.tcopyOut (t) (a) : Statement (.tcopyOut t a) := fun _ hw => decode_word rfl rfl (by refine (if_pos ?_).trans ?_ <;> simp only [field_low7, field_low6, field_low5, field_low4, field_low3, field_low2, field_low1, field_pair, field_slot, zero_low7, one_low7, zero_low6, zero_low5, zero_low4, zero_low3, zero_low2, zero_low1, zero_pair, zero_slot, zero_pred, field_imm16, field_imm13, field_pred13, field_off20, field_branch, field_imm8, and_self, and_true, true_and]) hw
theorem Laws.Encoding.waitany (a) : Statement (.waitany a) := fun _ hw => decode_word rfl rfl rfl hw
theorem Laws.Encoding.waitall (a) : Statement (.waitall a) := fun _ hw => decode_word rfl rfl rfl hw
theorem Laws.Encoding.tffr (d) : Statement (.tffr d) := fun _ hw => decode_word rfl rfl rfl hw
theorem Laws.Encoding.tclr (a) : Statement (.tclr a) := fun _ hw => decode_word rfl rfl rfl hw
theorem Laws.Encoding.park (a) : Statement (.park a) := fun _ hw => decode_word rfl rfl rfl hw
theorem Laws.Encoding.yield : Statement (.yield) := fun _ hw => decode_word rfl rfl rfl hw
theorem Laws.Encoding.ovlLoad (n) (s) : Statement (.ovlLoad n s) := fun _ hw => decode_word rfl rfl (by refine (if_pos ?_).trans ?_ <;> simp only [field_low7, field_low6, field_low5, field_low4, field_low3, field_low2, field_low1, field_pair, field_slot, zero_low7, one_low7, zero_low6, zero_low5, zero_low4, zero_low3, zero_low2, zero_low1, zero_pair, zero_slot, zero_pred, field_imm16, field_imm13, field_pred13, field_off20, field_branch, field_imm8, and_self, and_true, true_and]) hw
theorem Laws.Encoding.ovlLoadTab (n) (a) : Statement (.ovlLoadTab n a) := fun _ hw => decode_word rfl rfl ((if_neg (by simp only [eight_low4, false_and, not_false_eq_true])).trans (by refine (if_pos ?_).trans ?_ <;> simp only [field_low7, field_low6, field_low5, field_low4, field_low3, field_low2, field_low1, field_pair, field_slot, zero_low7, one_low7, zero_low6, zero_low5, zero_low4, zero_low3, zero_low2, zero_low1, zero_pair, zero_slot, zero_pred, field_imm16, field_imm13, field_pred13, field_off20, field_branch, field_imm8, and_self, and_true, true_and])) hw
theorem Laws.Encoding.ovlWait (s) : Statement (.ovlWait s) := fun _ hw => decode_word rfl rfl (by refine (if_pos ?_).trans ?_ <;> simp only [field_low7, field_low6, field_low5, field_low4, field_low3, field_low2, field_low1, field_pair, field_slot, zero_low7, one_low7, zero_low6, zero_low5, zero_low4, zero_low3, zero_low2, zero_low1, zero_pair, zero_slot, zero_pred, field_imm16, field_imm13, field_pred13, field_off20, field_branch, field_imm8, and_self, and_true, true_and]) hw
theorem Laws.Encoding.vfPush (f) (a) : Statement (.vfPush f a) := fun _ hw => decode_word rfl rfl (by refine (if_pos ?_).trans ?_ <;> simp only [field_low7, field_low6, field_low5, field_low4, field_low3, field_low2, field_low1, field_pair, field_slot, zero_low7, one_low7, zero_low6, zero_low5, zero_low4, zero_low3, zero_low2, zero_low1, zero_pair, zero_slot, zero_pred, field_imm16, field_imm13, field_pred13, field_off20, field_branch, field_imm8, and_self, and_true, true_and]) hw
theorem Laws.Encoding.vfPop (d) (f) : Statement (.vfPop d f) := fun _ hw => decode_word rfl rfl (by refine (if_pos ?_).trans ?_ <;> simp only [field_low7, field_low6, field_low5, field_low4, field_low3, field_low2, field_low1, field_pair, field_slot, zero_low7, one_low7, zero_low6, zero_low5, zero_low4, zero_low3, zero_low2, zero_low1, zero_pair, zero_slot, zero_pred, field_imm16, field_imm13, field_pred13, field_off20, field_branch, field_imm8, and_self, and_true, true_and]) hw
theorem Laws.Encoding.vfFree (d) (f) : Statement (.vfFree d f) := fun _ hw => decode_word rfl rfl (by refine (if_pos ?_).trans ?_ <;> simp only [field_low7, field_low6, field_low5, field_low4, field_low3, field_low2, field_low1, field_pair, field_slot, zero_low7, one_low7, zero_low6, zero_low5, zero_low4, zero_low3, zero_low2, zero_low1, zero_pair, zero_slot, zero_pred, field_imm16, field_imm13, field_pred13, field_off20, field_branch, field_imm8, and_self, and_true, true_and]) hw
theorem Laws.Encoding.barInit (n) (a) : Statement (.barInit n a) := fun _ hw => decode_word rfl rfl (by refine (if_pos ?_).trans ?_ <;> simp only [field_low7, field_low6, field_low5, field_low4, field_low3, field_low2, field_low1, field_pair, field_slot, zero_low7, one_low7, zero_low6, zero_low5, zero_low4, zero_low3, zero_low2, zero_low1, zero_pair, zero_slot, zero_pred, field_imm16, field_imm13, field_pred13, field_off20, field_branch, field_imm8, and_self, and_true, true_and]) hw
theorem Laws.Encoding.barArrive (n) : Statement (.barArrive n) := fun _ hw => decode_word rfl rfl (by refine (if_pos ?_).trans ?_ <;> simp only [field_low7, field_low6, field_low5, field_low4, field_low3, field_low2, field_low1, field_pair, field_slot, zero_low7, one_low7, zero_low6, zero_low5, zero_low4, zero_low3, zero_low2, zero_low1, zero_pair, zero_slot, zero_pred, field_imm16, field_imm13, field_pred13, field_off20, field_branch, field_imm8, and_self, and_true, true_and]) hw
theorem Laws.Encoding.barWait (n) : Statement (.barWait n) := fun _ hw => decode_word rfl rfl (by refine (if_pos ?_).trans ?_ <;> simp only [field_low7, field_low6, field_low5, field_low4, field_low3, field_low2, field_low1, field_pair, field_slot, zero_low7, one_low7, zero_low6, zero_low5, zero_low4, zero_low3, zero_low2, zero_low1, zero_pair, zero_slot, zero_pred, field_imm16, field_imm13, field_pred13, field_off20, field_branch, field_imm8, and_self, and_true, true_and]) hw
theorem Laws.Encoding.barSync (n) : Statement (.barSync n) := fun _ hw => decode_word rfl rfl (by refine (if_pos ?_).trans ?_ <;> simp only [field_low7, field_low6, field_low5, field_low4, field_low3, field_low2, field_low1, field_pair, field_slot, zero_low7, one_low7, zero_low6, zero_low5, zero_low4, zero_low3, zero_low2, zero_low1, zero_pair, zero_slot, zero_pred, field_imm16, field_imm13, field_pred13, field_off20, field_branch, field_imm8, and_self, and_true, true_and]) hw
theorem Laws.Encoding.barExpect (n) (a) : Statement (.barExpect n a) := fun _ hw => decode_word rfl rfl (by refine (if_pos ?_).trans ?_ <;> simp only [field_low7, field_low6, field_low5, field_low4, field_low3, field_low2, field_low1, field_pair, field_slot, zero_low7, one_low7, zero_low6, zero_low5, zero_low4, zero_low3, zero_low2, zero_low1, zero_pair, zero_slot, zero_pred, field_imm16, field_imm13, field_pred13, field_off20, field_branch, field_imm8, and_self, and_true, true_and]) hw
theorem Laws.Encoding.xcopy (c) (a) : Statement (.xcopy c a) := fun _ hw => decode_word rfl rfl (by refine (if_pos ?_).trans ?_ <;> simp only [field_low7, field_low6, field_low5, field_low4, field_low3, field_low2, field_low1, field_pair, field_slot, zero_low7, one_low7, zero_low6, zero_low5, zero_low4, zero_low3, zero_low2, zero_low1, zero_pair, zero_slot, zero_pred, field_imm16, field_imm13, field_pred13, field_off20, field_branch, field_imm8, and_self, and_true, true_and]) hw
theorem Laws.Encoding.xchain (c) (a) : Statement (.xchain c a) := fun _ hw => decode_word rfl rfl (by refine (if_pos ?_).trans ?_ <;> simp only [field_low7, field_low6, field_low5, field_low4, field_low3, field_low2, field_low1, field_pair, field_slot, zero_low7, one_low7, zero_low6, zero_low5, zero_low4, zero_low3, zero_low2, zero_low1, zero_pair, zero_slot, zero_pred, field_imm16, field_imm13, field_pred13, field_off20, field_branch, field_imm8, and_self, and_true, true_and]) hw
theorem Laws.Encoding.xstat (d) (c) : Statement (.xstat d c) := fun _ hw => decode_word rfl rfl (by refine (if_pos ?_).trans ?_ <;> simp only [field_low7, field_low6, field_low5, field_low4, field_low3, field_low2, field_low1, field_pair, field_slot, zero_low7, one_low7, zero_low6, zero_low5, zero_low4, zero_low3, zero_low2, zero_low1, zero_pair, zero_slot, zero_pred, field_imm16, field_imm13, field_pred13, field_off20, field_branch, field_imm8, and_self, and_true, true_and]) hw
theorem Laws.Encoding.gateReq (p) : Statement (.gateReq p) := fun _ hw => decode_word rfl rfl (by refine (if_pos ?_).trans ?_ <;> simp only [field_low7, field_low6, field_low5, field_low4, field_low3, field_low2, field_low1, field_pair, field_slot, zero_low7, one_low7, zero_low6, zero_low5, zero_low4, zero_low3, zero_low2, zero_low1, zero_pair, zero_slot, zero_pred, field_imm16, field_imm13, field_pred13, field_off20, field_branch, field_imm8, and_self, and_true, true_and]) hw
theorem Laws.Encoding.gateWake (p) : Statement (.gateWake p) := fun _ hw => decode_word rfl rfl (by refine (if_pos ?_).trans ?_ <;> simp only [field_low7, field_low6, field_low5, field_low4, field_low3, field_low2, field_low1, field_pair, field_slot, zero_low7, one_low7, zero_low6, zero_low5, zero_low4, zero_low3, zero_low2, zero_low1, zero_pair, zero_slot, zero_pred, field_imm16, field_imm13, field_pred13, field_off20, field_branch, field_imm8, and_self, and_true, true_and]) hw
theorem Laws.Encoding.gateStat (d) (p) : Statement (.gateStat d p) := fun _ hw => decode_word rfl rfl (by refine (if_pos ?_).trans ?_ <;> simp only [field_low7, field_low6, field_low5, field_low4, field_low3, field_low2, field_low1, field_pair, field_slot, zero_low7, one_low7, zero_low6, zero_low5, zero_low4, zero_low3, zero_low2, zero_low1, zero_pair, zero_slot, zero_pred, field_imm16, field_imm13, field_pred13, field_off20, field_branch, field_imm8, and_self, and_true, true_and]) hw
theorem Laws.Encoding.nthint (h) : Statement (.nthint h) := fun _ hw => decode_word rfl rfl (by refine (if_pos ?_).trans ?_ <;> simp only [field_low7, field_low6, field_low5, field_low4, field_low3, field_low2, field_low1, field_pair, field_slot, zero_low7, one_low7, zero_low6, zero_low5, zero_low4, zero_low3, zero_low2, zero_low1, zero_pair, zero_slot, zero_pred, field_imm16, field_imm13, field_pred13, field_off20, field_branch, field_imm8, and_self, and_true, true_and]) hw
theorem Laws.Encoding.spawn (a) : Statement (.spawn a) := fun _ hw => decode_word rfl rfl rfl hw
theorem Laws.Encoding.gang (a) : Statement (.gang a) := fun _ hw => decode_word rfl rfl rfl hw
theorem Laws.Encoding.done : Statement (.done) := fun _ hw => decode_word rfl rfl rfl hw
theorem Laws.Encoding.join (a) : Statement (.join a) := fun _ hw => decode_word rfl rfl rfl hw
theorem Laws.Encoding.tsbSet (a) : Statement (.tsbSet a) := fun _ hw => decode_word rfl rfl rfl hw
theorem Laws.Encoding.tsbRet : Statement (.tsbRet) := fun _ hw => decode_word rfl rfl rfl hw
theorem Laws.Encoding.pmask : Statement (.pmask) := fun _ hw => decode_word rfl rfl rfl hw
theorem Laws.Encoding.punmask : Statement (.punmask) := fun _ hw => decode_word rfl rfl rfl hw
theorem Laws.Encoding.strmPut (s) (a) : Statement (.strmPut s a) := fun _ hw => decode_word rfl rfl rfl hw
theorem Laws.Encoding.strmGet (d) (s) : Statement (.strmGet d s) := fun _ hw => decode_word rfl rfl rfl hw
theorem Laws.Encoding.strmEos (s) : Statement (.strmEos s) := fun _ hw => decode_word rfl rfl rfl hw
theorem Laws.Encoding.tlSig (k) (a) : Statement (.tlSig k a) := fun _ hw => decode_word rfl rfl rfl hw
theorem Laws.Encoding.tlWait (k) (a) : Statement (.tlWait k a) := fun _ hw => decode_word rfl rfl rfl hw
theorem Laws.Encoding.tlRead (d) (k) : Statement (.tlRead d k) := fun _ hw => decode_word rfl rfl rfl hw
theorem Laws.Encoding.pref (k) (a) : Statement (.pref k a) := fun _ hw => decode_word rfl rfl rfl hw
theorem Laws.Encoding.swin (a) : Statement (.swin a) := fun _ hw => decode_word rfl rfl rfl hw
theorem Laws.Encoding.rft : Statement (.rft) := fun _ hw => decode_word rfl rfl rfl hw
theorem Laws.Encoding.cclr (a) : Statement (.cclr a) := fun _ hw => decode_word rfl rfl rfl hw
theorem Laws.Encoding.freply (c) (a) : Statement (.freply c a) := fun _ hw => decode_word rfl rfl (by refine (if_pos ?_).trans ?_ <;> simp only [field_low7, field_low6, field_low5, field_low4, field_low3, field_low2, field_low1, field_pair, field_slot, zero_low7, one_low7, zero_low6, zero_low5, zero_low4, zero_low3, zero_low2, zero_low1, zero_pair, zero_slot, zero_pred, field_imm16, field_imm13, field_pred13, field_off20, field_branch, field_imm8, and_self, and_true, true_and]) hw
theorem Laws.Encoding.watchArm (d) (a) : Statement (.watchArm d a) := fun _ hw => decode_word rfl rfl rfl hw
theorem Laws.Encoding.watchOff (a) : Statement (.watchOff a) := fun _ hw => decode_word rfl rfl rfl hw
theorem Laws.Encoding.watchStat (d) (a) : Statement (.watchStat d a) := fun _ hw => decode_word rfl rfl rfl hw
theorem Laws.Encoding.xsemSig (d) (a) : Statement (.xsemSig d a) := fun _ hw => decode_word rfl rfl rfl hw
theorem Laws.Encoding.xsemWait (d) (a) : Statement (.xsemWait d a) := fun _ hw => decode_word rfl rfl rfl hw
theorem Laws.Encoding.cmpClear (a) : Statement (.cmpClear a) := fun _ hw => decode_word rfl rfl rfl hw
theorem Laws.Encoding.cmpDecomp (a) : Statement (.cmpDecomp a) := fun _ hw => decode_word rfl rfl rfl hw
theorem Laws.Encoding.cmpStat (d) (a) : Statement (.cmpStat d a) := fun _ hw => decode_word rfl rfl rfl hw
theorem Laws.Encoding.fence : Statement (.fence) := fun _ hw => decode_word rfl rfl rfl hw
theorem Laws.Encoding.rayGo (d) (a) : Statement (.rayGo d a) := fun _ hw => decode_word rfl rfl rfl hw
theorem Laws.Encoding.rayGet (d) (a) : Statement (.rayGet d a) := fun _ hw => decode_word rfl rfl rfl hw
theorem Laws.Encoding.rayPoll (m) (a) : Statement (.rayPoll m a) := fun _ hw => decode_word rfl rfl (by refine (if_pos ?_).trans ?_ <;> simp only [field_low7, field_low6, field_low5, field_low4, field_low3, field_low2, field_low1, field_pair, field_slot, zero_low7, one_low7, zero_low6, zero_low5, zero_low4, zero_low3, zero_low2, zero_low1, zero_pair, zero_slot, zero_pred, field_imm16, field_imm13, field_pred13, field_off20, field_branch, field_imm8, and_self, and_true, true_and]) hw
theorem Laws.Encoding.genPin (d) (a) : Statement (.genPin d a) := fun _ hw => decode_word rfl rfl rfl hw
theorem Laws.Encoding.genUnpin (d) (a) : Statement (.genUnpin d a) := fun _ hw => decode_word rfl rfl rfl hw
theorem Laws.Encoding.bldBuild (a) : Statement (.bldBuild a) := fun _ hw => decode_word rfl rfl rfl hw
theorem Laws.Encoding.bldBuildNft (a) : Statement (.bldBuildNft a) := fun _ hw => decode_word rfl rfl rfl hw
theorem Laws.Encoding.bldRefit (a) : Statement (.bldRefit a) := fun _ hw => decode_word rfl rfl rfl hw
theorem Laws.Encoding.bldRebal (a) : Statement (.bldRebal a) := fun _ hw => decode_word rfl rfl rfl hw
theorem Laws.Encoding.bldStat (d) (a) : Statement (.bldStat d a) := fun _ hw => decode_word rfl rfl rfl hw
theorem Laws.Encoding.bldQual (d) (a) : Statement (.bldQual d a) := fun _ hw => decode_word rfl rfl rfl hw
theorem Laws.Encoding.mvEmit (a) : Statement (.mvEmit a) := fun _ hw => decode_word rfl rfl rfl hw
theorem Laws.Encoding.mvEnd : Statement (.mvEnd) := fun _ hw => decode_word rfl rfl rfl hw
theorem Laws.Encoding.atlReq (d) (a) : Statement (.atlReq d a) := fun _ hw => decode_word rfl rfl rfl hw
theorem Laws.Encoding.atlSmp (d) (a) : Statement (.atlSmp d a) := fun _ hw => decode_word rfl rfl rfl hw
theorem Laws.Encoding.atlDone (a) : Statement (.atlDone a) := fun _ hw => decode_word rfl rfl rfl hw
theorem Laws.Encoding.rgnWait (a) : Statement (.rgnWait a) := fun _ hw => decode_word rfl rfl rfl hw
theorem Laws.Encoding.notedCauseDelivery : Statement (.notedCauseDelivery) := fun h => absurd h Bool.false_ne_true
theorem Laws.Encoding.windowEnter (x0) : Statement (.windowEnter x0) := fun h => absurd h Bool.false_ne_true
theorem Laws.Encoding.shotReservation (x0) : Statement (.shotReservation x0) := fun h => absurd h Bool.false_ne_true
theorem Laws.Encoding.shotRingVisit (x0) : Statement (.shotRingVisit x0) := fun h => absurd h Bool.false_ne_true
theorem Laws.Encoding.shotReservoirFill (x0) : Statement (.shotReservoirFill x0) := fun h => absurd h Bool.false_ne_true
theorem Laws.Encoding.islandEnterNear (x0) (x1) : Statement (.islandEnterNear x0 x1) := fun h => absurd h Bool.false_ne_true
theorem Laws.Encoding.islandSwitchNominal (x0) (x1) : Statement (.islandSwitchNominal x0 x1) := fun h => absurd h Bool.false_ne_true
theorem Laws.Encoding.parkWriteOut (x0) : Statement (.parkWriteOut x0) := fun h => absurd h Bool.false_ne_true
theorem Laws.Encoding.continuationResume (x0) (x1) : Statement (.continuationResume x0 x1) := fun h => absurd h Bool.false_ne_true
theorem Laws.Encoding.teamAdmit (x0) (x1) : Statement (.teamAdmit x0 x1) := fun h => absurd h Bool.false_ne_true
theorem Laws.Encoding.tcopyComplete (x0) (x1) : Statement (.tcopyComplete x0 x1) := fun h => absurd h Bool.false_ne_true
theorem Laws.Encoding.ovlLoadComplete (x0) (x1) : Statement (.ovlLoadComplete x0 x1) := fun h => absurd h Bool.false_ne_true
theorem Laws.Encoding.drainColumnReady (x0) (x1) : Statement (.drainColumnReady x0 x1) := fun h => absurd h Bool.false_ne_true
theorem Laws.Encoding.eccScrub (x0) : Statement (.eccScrub x0) := fun h => absurd h Bool.false_ne_true
theorem Laws.Encoding.copyRecordStart (x0) (x1) : Statement (.copyRecordStart x0 x1) := fun h => absurd h Bool.false_ne_true
theorem Laws.Encoding.copyRecordComplete (x0) (x1) : Statement (.copyRecordComplete x0 x1) := fun h => absurd h Bool.false_ne_true
theorem Laws.Encoding.gateDrainDone (x0) (x1) : Statement (.gateDrainDone x0 x1) := fun h => absurd h Bool.false_ne_true
theorem Laws.Encoding.gateHoldEnd (x0) (x1) : Statement (.gateHoldEnd x0 x1) := fun h => absurd h Bool.false_ne_true
theorem Laws.Encoding.gateRampStart (x0) (x1) : Statement (.gateRampStart x0 x1) := fun h => absurd h Bool.false_ne_true
theorem Laws.Encoding.gateRampDone (x0) (x1) : Statement (.gateRampDone x0 x1) := fun h => absurd h Bool.false_ne_true
theorem Laws.Encoding.gateRampFail (x0) (x1) : Statement (.gateRampFail x0 x1) := fun h => absurd h Bool.false_ne_true
theorem Laws.Encoding.gateMcWake (x0) (x1) : Statement (.gateMcWake x0 x1) := fun h => absurd h Bool.false_ne_true
theorem Laws.Encoding.xinvPage (x0) (x1) : Statement (.xinvPage x0 x1) := fun h => absurd h Bool.false_ne_true
theorem Laws.Encoding.xinvAsid (x0) (x1) : Statement (.xinvAsid x0 x1) := fun h => absurd h Bool.false_ne_true
theorem Laws.Encoding.xinvAll (x0) : Statement (.xinvAll x0) := fun h => absurd h Bool.false_ne_true
theorem Laws.Encoding.xinvComplete (x0) : Statement (.xinvComplete x0) := fun h => absurd h Bool.false_ne_true
theorem Laws.Encoding.fqcfgWrite (x0) (x1) : Statement (.fqcfgWrite x0 x1) := fun h => absurd h Bool.false_ne_true
theorem Laws.Encoding.faultRecordWrite (x0) : Statement (.faultRecordWrite x0) := fun h => absurd h Bool.false_ne_true
theorem Laws.Encoding.prefComplete (x0) (x1) : Statement (.prefComplete x0 x1) := fun h => absurd h Bool.false_ne_true
theorem Laws.Encoding.timelineValueStore (x0) (x1) (x2) : Statement (.timelineValueStore x0 x1 x2) := fun h => absurd h Bool.false_ne_true
theorem Laws.Encoding.storeReachHome (x0) (x1) : Statement (.storeReachHome x0 x1) := fun h => absurd h Bool.false_ne_true
theorem Laws.Encoding.viewUpdate (x0) (x1) : Statement (.viewUpdate x0 x1) := fun h => absurd h Bool.false_ne_true
theorem Laws.Encoding.qtbaseWrite (x0) (x1) : Statement (.qtbaseWrite x0 x1) := fun h => absurd h Bool.false_ne_true
theorem Laws.Encoding.coreenWrite (x0) (x1) (x2) : Statement (.coreenWrite x0 x1 x2) := fun h => absurd h Bool.false_ne_true
theorem Laws.Encoding.preemptWrite (x0) (x1) : Statement (.preemptWrite x0 x1) := fun h => absurd h Bool.false_ne_true
theorem Laws.Encoding.preemptSelect (x0) (x1) : Statement (.preemptSelect x0 x1) := fun h => absurd h Bool.false_ne_true
theorem Laws.Encoding.pmaskTimeout (x0) : Statement (.pmaskTimeout x0) := fun h => absurd h Bool.false_ne_true
theorem Laws.Encoding.queueEnable (x0) (x1) : Statement (.queueEnable x0 x1) := fun h => absurd h Bool.false_ne_true
theorem Laws.Encoding.queueTailStore (x0) (x1) (x2) : Statement (.queueTailStore x0 x1 x2) := fun h => absurd h Bool.false_ne_true
theorem Laws.Encoding.recordTake (x0) (x1) : Statement (.recordTake x0 x1) := fun h => absurd h Bool.false_ne_true
theorem Laws.Encoding.remapTick (x0) : Statement (.remapTick x0) := fun h => absurd h Bool.false_ne_true
theorem Laws.Encoding.queueAging (x0) (x1) : Statement (.queueAging x0 x1) := fun h => absurd h Bool.false_ne_true
theorem Laws.Encoding.launchComplete (x0) : Statement (.launchComplete x0) := fun h => absurd h Bool.false_ne_true
theorem Laws.Encoding.completionWrite (x0) : Statement (.completionWrite x0) := fun h => absurd h Bool.false_ne_true
theorem Laws.Encoding.streamEnable (x0) (x1) : Statement (.streamEnable x0 x1) := fun h => absurd h Bool.false_ne_true
theorem Laws.Encoding.springRetry (x0) : Statement (.springRetry x0) := fun h => absurd h Bool.false_ne_true
theorem Laws.Encoding.doneTakeEffect (x0) : Statement (.doneTakeEffect x0) := fun h => absurd h Bool.false_ne_true
theorem Laws.Encoding.builderJobStart (x0) : Statement (.builderJobStart x0) := fun h => absurd h Bool.false_ne_true
theorem Laws.Encoding.builderPublish (x0) (x1) : Statement (.builderPublish x0 x1) := fun h => absurd h Bool.false_ne_true
theorem Laws.Encoding.builderJobFail (x0) (x1) : Statement (.builderJobFail x0 x1) := fun h => absurd h Bool.false_ne_true
theorem Laws.Encoding.rayQueryComplete (x0) : Statement (.rayQueryComplete x0) := fun h => absurd h Bool.false_ne_true
theorem Laws.Encoding.rayQueryFault (x0) : Statement (.rayQueryFault x0) := fun h => absurd h Bool.false_ne_true
theorem Laws.Encoding.semaphoreStore (x0) (x1) : Statement (.semaphoreStore x0 x1) := fun h => absurd h Bool.false_ne_true
theorem Laws.Encoding.watchHoldoffEnd (x0) : Statement (.watchHoldoffEnd x0) := fun h => absurd h Bool.false_ne_true
theorem Laws.Encoding.watchIntervalEnd (x0) : Statement (.watchIntervalEnd x0) := fun h => absurd h Bool.false_ne_true
theorem Laws.Encoding.memoryPatrolScrub (x0) : Statement (.memoryPatrolScrub x0) := fun h => absurd h Bool.false_ne_true
theorem Laws.Encoding.frameStart (x0) (x1) : Statement (.frameStart x0 x1) := fun h => absurd h Bool.false_ne_true
theorem Laws.Encoding.packetForward (x0) : Statement (.packetForward x0) := fun h => absurd h Bool.false_ne_true
theorem Laws.Encoding.watermarkUpdate (x0) (x1) : Statement (.watermarkUpdate x0 x1) := fun h => absurd h Bool.false_ne_true
theorem Laws.Encoding.packetConsume (x0) (x1) : Statement (.packetConsume x0 x1) := fun h => absurd h Bool.false_ne_true
theorem Laws.Encoding.atlasRequestWalk (x0) : Statement (.atlasRequestWalk x0) := fun h => absurd h Bool.false_ne_true
theorem Laws.Encoding.moduleBoot (x0) (x1) (x2) : Statement (.moduleBoot x0 x1 x2) := fun h => absurd h Bool.false_ne_true
theorem Laws.Encoding.freqSwitch : Statement (.freqSwitch) := fun h => absurd h Bool.false_ne_true
theorem Laws.Encoding.powerSample (x0) (x1) : Statement (.powerSample x0 x1) := fun h => absurd h Bool.false_ne_true
theorem Laws.Encoding.thermalCut (x0) : Statement (.thermalCut x0) := fun h => absurd h Bool.false_ne_true
theorem Laws.Encoding.sensorSample (x0) : Statement (.sensorSample x0) := fun h => absurd h Bool.false_ne_true
theorem Laws.Encoding.reasonClear (x0) : Statement (.reasonClear x0) := fun h => absurd h Bool.false_ne_true
theorem Laws.Encoding.snapArm (x0) : Statement (.snapArm x0) := fun h => absurd h Bool.false_ne_true
theorem Laws.Encoding.snapFire (x0) : Statement (.snapFire x0) := fun h => absurd h Bool.false_ne_true
theorem Laws.Encoding.snapPin : Statement (.snapPin) := fun h => absurd h Bool.false_ne_true
theorem Laws.Encoding.snapLatch : Statement (.snapLatch) := fun h => absurd h Bool.false_ne_true
theorem Laws.Encoding.mbLog : Statement (.mbLog) := fun h => absurd h Bool.false_ne_true
theorem Laws.Encoding.mbStage : Statement (.mbStage) := fun h => absurd h Bool.false_ne_true
theorem Laws.Encoding.mbActivate : Statement (.mbActivate) := fun h => absurd h Bool.false_ne_true
theorem Laws.Encoding.mbAttest : Statement (.mbAttest) := fun h => absurd h Bool.false_ne_true
theorem Laws.Encoding.mbSnapread : Statement (.mbSnapread) := fun h => absurd h Bool.false_ne_true
theorem Laws.Encoding.mbCert : Statement (.mbCert) := fun h => absurd h Bool.false_ne_true
theorem Laws.Encoding.flitReceive (x0) (x1) : Statement (.flitReceive x0 x1) := fun h => absurd h Bool.false_ne_true
theorem Laws.Encoding.portRetrain (x0) : Statement (.portRetrain x0) := fun h => absurd h Bool.false_ne_true
theorem Laws.Encoding.remoteAccessTimeout (x0) : Statement (.remoteAccessTimeout x0) := fun h => absurd h Bool.false_ne_true
theorem Laws.Encoding.hostWrite (x0) (x1) (x2) : Statement (.hostWrite x0 x1 x2) := fun h => absurd h Bool.false_ne_true
theorem Laws.Encoding.hostRead (x0) (x1) (x2) : Statement (.hostRead x0 x1 x2) := fun h => absurd h Bool.false_ne_true
theorem Laws.Encoding.registerWrite (x0) (x1) : Statement (.registerWrite x0 x1) := fun h => absurd h Bool.false_ne_true
theorem Laws.Encoding.illegalEncoding : Statement (.illegalEncoding) := fun h => absurd h Bool.false_ne_true
theorem Laws.Encoding.portTrain (x0) (x1) (x2) : Statement (.portTrain x0 x1 x2) := fun h => absurd h Bool.false_ne_true
theorem Laws.Encoding.queueDisable (x0) (x1) : Statement (.queueDisable x0 x1) := fun h => absurd h Bool.false_ne_true
theorem Laws.Encoding.byteBudgetInterval (x0) : Statement (.byteBudgetInterval x0) := fun h => absurd h Bool.false_ne_true
theorem Laws.Encoding.eccError (x0) (x1) : Statement (.eccError x0 x1) := fun h => absurd h Bool.false_ne_true
theorem Laws.Encoding.supplyLoss (x0) : Statement (.supplyLoss x0) := fun h => absurd h Bool.false_ne_true
theorem Laws.Encoding.mcNominalDemand (x0) (x1) : Statement (.mcNominalDemand x0 x1) := fun h => absurd h Bool.false_ne_true
theorem Laws.Encoding.pcieCompletion (x0) (x1) : Statement (.pcieCompletion x0 x1) := fun h => absurd h Bool.false_ne_true

end Sys2Proof
end

