-- ==== Sys2Proof/Laws/Pred.lean ====
section
/-! SUPPORT. What an instruction that writes a predicate in every member can do (R14, R84, R124): the spec lemma of predOp. -/

namespace Sys2Proof.Machine

open Sys2Proof

theorem bit_set (m : BitVec 8) (k : BitVec 3) : (m ||| (1#8 <<< k.toNat)).getLsbD k.toNat = true := by
  revert m k; decide
theorem bit_clear (m : BitVec 8) (k : BitVec 3) : (m &&& ~~~(1#8 <<< k.toNat)).getLsbD k.toNat = false := by
  revert m k; decide
theorem bit_set_other (m : BitVec 8) (k n : BitVec 3) (h : n ≠ k) : (m ||| (1#8 <<< k.toNat)).getLsbD n.toNat = m.getLsbD n.toNat := by
  have : n.toNat ≠ k.toNat := fun e => h (BitVec.eq_of_toNat_eq e)
  have hk := k.isLt
  have hn := n.isLt
  simp only [BitVec.getLsbD_or, BitVec.getLsbD_shiftLeft, BitVec.getLsbD_one]
  by_cases hl : n.toNat < k.toNat
  · simp [hl]
  · have : ¬ n.toNat - k.toNat = 0 := by omega
    simp [this]
theorem bit_clear_other (m : BitVec 8) (k n : BitVec 3) (h : n ≠ k) : (m &&& ~~~(1#8 <<< k.toNat)).getLsbD n.toNat = m.getLsbD n.toNat := by
  have : n.toNat ≠ k.toNat := fun e => h (BitVec.eq_of_toNat_eq e)
  have hk := k.isLt
  have hn := n.isLt
  have h8 : n.toNat < 8 := by omega
  simp only [BitVec.getLsbD_and, BitVec.getLsbD_not, BitVec.getLsbD_shiftLeft, BitVec.getLsbD_one]
  by_cases hl : n.toNat < k.toNat
  · simp [hl, h8]
  · have : ¬ n.toNat - k.toNat = 0 := by omega
    simp [this, h8]

theorem Thread.pred_setPred (t : Thread) (m : PredNo) (b : Bool) : (t.setPred m b).pred m = (m == 0 || b) := by
  unfold Thread.setPred Thread.pred
  by_cases h : m = 0
  · subst h; simp
  · have h : (m == 0) = false := by simpa using h
    simp only [h, Bool.false_or]
    cases b
    · exact bit_clear _ _
    · exact bit_set _ _

theorem Thread.pred_setPred_other (t : Thread) (m n : PredNo) (b : Bool) (h : n ≠ m) : (t.setPred m b).pred n = t.pred n := by
  unfold Thread.setPred Thread.pred
  by_cases h0 : m = 0
  · subst h0; simp
  · have h0 : (m == 0) = false := by simpa using h0
    simp only [h0]
    cases b
    · simp only [Bool.false_eq_true, if_false, bit_clear_other _ _ _ h]
    · simp only [Bool.false_eq_true, if_false, if_true, bit_set_other _ _ _ h]

theorem Thread.setPred_core (t : Thread) (m : PredNo) (b : Bool) : { t.setPred m b with m := 0 } = { t with m := 0 } := by
  unfold Thread.setPred; split <;> rfl

@[simp] theorem Wave.setPreds_length (m : PredNo) (f : Nat → Bool) (ps : List Nat) (w : Wave) :
    (w.setPreds m f ps).threads.length = w.threads.length := by
  induction ps generalizing w with
  | nil => rfl
  | cons a t ih => simp [Wave.setPreds, ih]

theorem Wave.setPreds_notin (m : PredNo) (f : Nat → Bool) (ps : List Nat) (w : Wave) (q : Nat) (hq : q ∉ ps) :
    (w.setPreds m f ps).thread q = w.thread q := by
  induction ps generalizing w with
  | nil => rfl
  | cons a t ih =>
    simp only [List.mem_cons, not_or] at hq
    rw [Wave.setPreds, ih _ hq.2, Wave.thread_modThread_other _ _ _ _ hq.1]

theorem Wave.setPreds_mem (m : PredNo) (f : Nat → Bool) (ps : List Nat) (w : Wave) (hn : ps.Nodup) (p : Nat) (hp : p ∈ ps)
    (hl : p < w.threads.length) : (w.setPreds m f ps).thread p = (w.thread p).setPred m (f p) := by
  induction ps generalizing w with
  | nil => simp at hp
  | cons a t ih =>
    obtain ⟨ha, hn⟩ := List.nodup_cons.mp hn
    rw [Wave.setPreds]
    by_cases h : p = a
    · subst h
      rw [Wave.setPreds_notin _ _ _ _ _ ha, Wave.thread_modThread_same _ _ _ hl]
    · rw [ih _ hn ((List.mem_cons.mp hp).resolve_left h) (by simpa using hl), Wave.thread_modThread_other _ _ _ _ h]

theorem Wave.setPreds_rest (m : PredNo) (f : Nat → Bool) (ps : List Nat) (w : Wave) :
    w.setPreds m f ps = { w with threads := (w.setPreds m f ps).threads } := by
  induction ps generalizing w with
  | nil => rfl
  | cons a t ih =>
    rw [Wave.setPreds]
    exact ih _

/-- Predicates of the group are written, and the members go on. -/
theorem State.predResult_of {s t : State} {i : Instr} (h : s.passes i = true) (m : PredNo) (f : Nat → Bool)
    (g : (s.modWave s.cur.wave fun w => w.setPreds m f s.cur.group).MovesOn t) : s.PredResult t m f := by
  have hi := State.passes_issuing h
  have hnd := rising_nodup (State.issuing_rising hi)
  have hm := State.me_modWave s (fun w => w.setPreds m f s.cur.group) (State.issuing_find hi)
  have hc : (s.modWave s.cur.wave fun w => w.setPreds m f s.cur.group).cur = s.cur := by simp
  have hth : ∀ p ∈ s.cur.group, (s.me.setPreds m f s.cur.group).thread p = (s.me.thread p).setPred m (f p) := fun p hp =>
    Wave.setPreds_mem _ _ _ _ hnd p hp (State.issuing_lt hi hp)
  have hcore : ∀ p, { t.me.thread p with pc := 0, drainPos := 0 } =
      { (s.me.setPreds m f s.cur.group).thread p with pc := 0, drainPos := 0 } := fun p => by rw [g.threads p, hm]
  have hpred : ∀ p n, (t.me.thread p).pred n = ((s.me.setPreds m f s.cur.group).thread p).pred n := fun p n => by
    have hmm := congrArg Thread.m (hcore p)
    simp only at hmm
    simp only [Thread.pred, hmm]
  have hsame : ∀ p, { (s.me.setPreds m f s.cur.group).thread p with m := 0 } = { s.me.thread p with m := 0 } := fun p => by
    by_cases hp : p ∈ s.cur.group
    · rw [hth p hp, Thread.setPred_core]
    · rw [Wave.setPreds_notin _ _ _ _ _ hp]
  refine ⟨fun p hp => ?_, fun p n hn => ?_, fun p c => ?_, fun p hp => ?_, fun p => ?_, ?_⟩
  · rw [hpred, hth p hp, Thread.pred_setPred]
  · rw [hpred]
    by_cases hp : p ∈ s.cur.group
    · rw [hth p hp, Thread.pred_setPred_other _ _ _ _ (hn.resolve_right fun e => e hp)]
    · rw [Wave.setPreds_notin _ _ _ _ _ hp]
  · rw [g.readCode, hm]
    have h1 := hsame p
    have hv := congrArg Thread.v h1
    have ho := congrArg Thread.o h1
    have e0 := congrArg Thread.h0 h1
    have e1 := congrArg Thread.h1 h1
    have e2 := congrArg Thread.h2 h1
    have e3 := congrArg Thread.h3 h1
    have hl : ∀ k, ((s.me.setPreds m f s.cur.group).thread p).latch k = (s.me.thread p).latch k := fun k => by
      match k with
      | 0 => exact e0
      | 1 => exact e1
      | 2 => exact e2
      | _ + 3 => exact e3
    exact Wave.readCode_congr hv ho hl (by rw [Wave.setPreds_rest]) (by rw [Wave.setPreds_rest]) c
  · rw [g.pc p (by rw [hc]; exact hp), State.nextAddr, hc]; rfl
  · have h1 := congrArg (fun x : Thread => { x with m := 0 }) (hcore p)
    have h2 := congrArg (fun x : Thread => { x with pc := 0, drainPos := 0 }) (hsame p)
    exact h1.trans h2
  · exact (State.onlyWave_modWave s _).trans g.only

/-- The state whose wave has its predicates written still stands. -/
theorem State.stands_setPreds {s : State} (hs : s.Stands) (m : PredNo) (f : Nat → Bool) (ps : List Nat) :
    (s.modWave s.cur.wave fun w => w.setPreds m f ps).Stands := by
  have hm := State.me_modWave s (fun w => w.setPreds m f ps) hs.find
  have hc : (s.modWave s.cur.wave fun w => w.setPreds m f ps).cur = s.cur := by simp
  exact ⟨by rw [hc, State.find_modWave]; exact hs.find, fun p hp => by rw [hm, Wave.setPreds_length]; rw [hc] at hp; exact hs.lt p hp⟩

/-- The spec lemma of a unit that writes a predicate of every member. -/
theorem predOp_result {s : State} {i : Instr} (h : s.passes i = true) (m : PredNo) (f : State → Nat → Bool) :
    s.PredResult (predOp i m f s) m (f s) := by
  have hs := State.issuing_stands (State.passes_issuing h)
  exact State.predResult_of h m (f s) (State.runUnit_readingAll h _ rfl (by simp) (State.stands_setPreds hs m (f s) _))

/-- The same for a unit that reads no register; the predicate may depend on the group. -/
theorem runUnit_pred {s : State} {i : Instr} (h : s.passes i = true) (m : PredNo) (f : State → List Nat → Nat → Bool) :
    s.PredResult (s.runUnit i 0 (allDone fun s ps => s.modWave s.cur.wave fun w => w.setPreds m (f s ps) ps)) m (f s s.cur.group) := by
  have hs := State.issuing_stands (State.passes_issuing h)
  exact State.predResult_of h m _ (State.runUnit_all h _ rfl (by simp) (State.stands_setPreds hs m _ _))

end Sys2Proof.Machine
end

