-- ==== Sys2Proof/Tests/Slice0.lean ====
section
/-! SUPPORT. Tests of the model: words, examples and figures of the spec, an ill-formed term for each check, and for every statement with hypotheses
concrete states that meet them. -/

namespace Sys2Proof.Tests

open Sys2Proof Sys2Proof.Machine

set_option Elab.async false

/-! ### The machine that the tests run -/

/-- A thread with V1 = 0x0009A5F0, V2 = 0x8C04, V3 = 7, V4 = 1.0, V5 = 2.0 and every latch valid. -/
def thread : Thread :=
  { v := [(1, 0x0009A5F0), (2, 0x8C04), (3, 7), (4, 0x3F800000), (5, 0x40000000)],
    h0 := ⟨true, 1⟩, h1 := ⟨true, 2⟩, h2 := ⟨true, 3⟩, h3 := ⟨true, 4⟩, lfsr := 0xACE1 }

/-- The flagship after reset, in which the threads at `group` of one 16-wide wave issue a unit at code address 0. -/
def bench (group : List Nat) (t : Thread := thread) (f : Wave → Wave := id) : State :=
  { (State.reset.withFetchWord 32 0).modWave fetchWave fun w => f { w with threads := List.replicate 16 t, tvec := 0x100 } with
    cur := { wave := fetchWave, group := group, ready := group, full := group, first := 0x1234 } }

/-- The same with prefixes. -/
def withPrefix (v : VPrefix) (s : State) (m : MPrefix := {}) : State := { s with cur := { s.cur with vp := v, mp := m } }

/-- A register of a thread after an instruction. -/
def reg (o : Host.Outcome State Fault Refusal) (p : Nat) (c : Code) : Option Word :=
  match o with | .next t => some (t.me.readCode p c) | .fault _ | .refused _ => none

/-- What a state of an answer holds. -/
def after {α : Type} (o : Host.Outcome State Fault Refusal) (f : State → α) : Option α :=
  match o with | .next t => some (f t) | .fault _ | .refused _ => none

/-- A state whose next step issues the unit of some bytes at code address 0. -/
def fetched (bs : List Byte) : State :=
  (State.reset.withFetchWord 32 0).modCore (coreOfWave fetchWave) fun c =>
    { c with slot0 := { st := .resident, code := (cellsOf 0 bs).filter fun x => x.2 != 0 } }

/-! ### Well-formed instructions: one ill-formed term for each check of an operand field -/

/-- One term for each field check of `Operand.ok`: the code or value that it refuses (R14, R20, R30, R31, R107, R111, R163, R172). -/
theorem test_illFormed : (Instr.iadd 1 0xFF 2).wellFormed = false ∧ (Instr.atomAdd 8 2 0xFF).wellFormed = false
    ∧ (Instr.iadd64 2 3 4).wellFormed = false ∧ (Instr.iadd 0xF8 1 2).wellFormed = false ∧ (Instr.imad 0xFD 1 2).wellFormed = false
    ∧ (Instr.atomAdd 0xF8 2 4).wellFormed = false ∧ (Instr.iadd64 0xF1 2 4).wellFormed = false ∧ (Instr.iaddi 0xFC 1).wellFormed = false
    ∧ (Instr.ldW 0xFC 2 0).wellFormed = false ∧ (Instr.ldD 0xFC 2 0).wellFormed = false ∧ (Instr.swin 0xDE).wellFormed = false
    ∧ (Instr.ldQ 0xDE 2 0).wellFormed = false ∧ (Instr.xcopy 0 0xDA).wellFormed = false ∧ (Instr.mdrain 5 0xEE).wellFormed = false
    ∧ (Instr.mma 5 0 0xE0 40).wellFormed = false ∧ (Instr.srd 4 0xFF).wellFormed = false ∧ (Instr.swr 0x10 4).wellFormed = false
    ∧ (Instr.swrOther 0x1D 4).wellFormed = false ∧ (Instr.c16Iadd 56 1).wellFormed = false ∧ (Instr.c16Iadd 1 31).wellFormed = false
    ∧ (Instr.c16Mov 56 1).wellFormed = false ∧ (Instr.nthint 3).wellFormed = false := by decide

/-- An answer that is no error. -/
def isOk {α β : Type} (x : Except α β) : Bool := match x with | .ok _ => true | .error _ => false

/-! ### Encodings and the step -/

/-- One word of each family that the spec writes out (R17, R32, R87, R106, R111, R115, R119, R144, R145, R150, R164, R192, R193, R263, R322, R328, R361,
R371, R391). -/
theorem test_decode_words : decodeTableWord 32 0x05050601 = some (.iadd 6 5 5) ∧ decodeTableWord 32 0x080F1205 = some (.imul 18 15 8)
    ∧ decodeTableWord 32 0x000A0581 = some (.iaddi 5 10) ∧ decodeTableWord 32 0x000DFD93 = some (.icmpiEq 0xFD 5 1)
    ∧ decodeTableWord 32 0x02010335 = some (.icmpLt 3 1 2) ∧ decodeTableWord 32 0x030208A9 = some (.ldW 8 2 3)
    ∧ decodeTableWord 32 0x090208C1 = some (.atomAdd 8 2 9) ∧ decodeTableWord 32 0x000C0FB9 = some (.ldc 15 12 0)
    ∧ decodeTableWord 32 0x000300E5 = some (.bri 3 0) ∧ decodeTableWord 32 0x000000E9 = some (.ret 0 0)
    ∧ decodeTableWord 32 0x000000EB = some (.exit 0 0) ∧ decodeTableWord 32 0x300102F9 = some (.voteAny 2 1)
    ∧ decodeTableWord 32 0x320308F9 = some (.ballot 8 3) ∧ decodeTableWord 32 0x550702F9 = some (.mfromv 2 7)
    ∧ decodeTableWord 32 0x600804F9 = some (.srd 4 8) ∧ decodeTableWord 32 0x610B1DF9 = some (.swr 0x1D 11)
    ∧ decodeTableWord 32 0x080013FB = some (.ovlLoad 3 1) ∧ decodeTableWord 32 0x3F020BFB = some (.cmpStat 11 2) := by decide +kernel

theorem test_decode_words_system : decodeTableWord 32 0x400000FB = some .fence ∧ decodeTableWord 32 0x260000FB = some .pmask
    ∧ decodeTableWord 32 0x270000FB = some .punmask ∧ decodeTableWord 32 0x060900FB = some (.park 9)
    ∧ decodeTableWord 32 0x030200FB = some (.waitall 2) ∧ decodeTableWord 32 0x02E405F5 = some (.mdrain 5 0xE4)
    ∧ decodeTableWord 32 0x380609FB = some (.watchArm 9 6) ∧ decodeTableWord 32 0x390900FB = some (.watchOff 9)
    ∧ decodeTableWord 32 0x3A090AFB = some (.watchStat 10 9) ∧ decodeTableWord 32 0x3C0504FB = some (.xsemWait 4 5)
    ∧ decodeTableWord 32 0x3E1400FB = some (.cmpDecomp 20) ∧ decodeTableWord 32 0x3F0409FB = some (.cmpStat 9 4)
    ∧ decodeTableWord 32 0x100C00FD = some (.mvEmit 12) ∧ decodeTableWord 32 0x110000FD = some .mvEnd
    ∧ decodeTableWord 32 0x010A0CFD = some (.rayGet 12 10) ∧ decodeTableWord 32 0x030409FD = some (.genPin 9 4)
    ∧ decodeTableWord 32 0x050600FD = some (.bldBuild 6) ∧ decodeTableWord 32 0x050601FD = some (.bldBuildNft 6)
    ∧ decodeTableWord 32 0x080409FD = some (.bldStat 9 4) ∧ decodeTableWord 16 0xE874 = some (.c16Fadd 3 29) := by decide +kernel

theorem witness_DecodeAfterEncode : ∃ i : Instr, i.encoded = true ∧ i.wellFormed = true := ⟨.fmul 0xFC 4 5, by decide⟩
theorem witness_DecodeOnlyEncodings : ∃ (bs : List Byte) (i : Instr) (rest : List Byte), decode bs = .ok (i, rest) :=
  ⟨[0x45, 0xFC, 0x04, 0x05, 0xAA], .fmul 0xFC 4 5, [0xAA], by decide +kernel⟩
/-- The prefixes 0x001C00FF (C = V7) and 0x000031FF (ACQ at SYS). -/
theorem witness_UnitOfEncoding : ∃ (i : Instr) (v m : Word) (vf : VectorFields) (mf : MemoryFields), i.encoded = true ∧ i.wellFormed = true
    ∧ v.extractLsb' 0 8 = 0xFF ∧ decodePrefix v = some (.vector vf) ∧ m.extractLsb' 0 8 = 0xFF ∧ decodePrefix m = some (.memory mf) :=
  ⟨.atomCas 8 4 10, 0x001C00FF, 0x000031FF, ⟨7, 0, false, false, 0⟩, ⟨false, false, false, 1, 4⟩, by decide +kernel⟩

/-- FADD V6,H0,V7 (0x07F80641) is the next unit, from the agenda and from an empty one. -/
theorem witness_StepRunsIssuedUnit : let s := fetched (leBytes 0x07F80641 4)
    let s' := { s with agenda := [] }
    let bs := codeBytes (fetchSlot 32 0x07F80641) 0
    s.agenda = [.issue 256 [] false] ∧ s.isUp = true ∧ s'.weir.powered = true ∧ s'.nextCore = some 256 ∧ (s'.core 256).nextIssue ≤ s'.clock ∧ s'.delayed = []
    ∧ (s'.windowReady 256).filter s'.waitsIssued = [] ∧ (s'.windowReady 256).filter (fun j => !List.contains [] (slotOfWave j)) = [4096]
    ∧ (match State.chooseGroup (s'.modCore 256 fun c => { c with nextIssue := s'.clock + 1 }) 4096 with
      | some t => decide (t.fetchChosen = .bytes bs) && ((t.setUnit bs (some ⟨.fadd 6 0xF8 7, 4, {}, {}⟩)).meetIssue (.fadd 6 0xF8 7)).notedMembers.isEmpty
          && decide (t.cur.addr = 0)
      | none => false) = true
    ∧ decodeUnit bs = some ⟨.fadd 6 0xF8 7, 4, {}, {}⟩ := by decide +kernel
/-- A unit that has issued, and one that was no candidate. -/
theorem witness_AroundAnIssue : let w := bench [0, 3]
    let h := { w with cur := { w.cur with held := true } }
    w.stayed = false ∧ h.stayed = true ∧ (w.wave 4096).uid = w.me.uid ∧ w.waves.find 4096 ≠ none ∧ (w.core 256).nextIssue ≤ w.clock + 1
    ∧ (((w.stepped 4096 w.me.uid).modCore 256 fun c => { c with nextIssue := w.clock + 1 }).heldPushes 256) = [] := by decide +kernel
theorem witness_StepRunsEvents : let s := State.reset
    s.weir.powered = true ∧ s.agenda = [] ∧ s.nextCore = none ∧ s.isUp = true ∧ s.delayed = [] ∧ s.calm = true
    ∧ (Instr.gateMcWake 32 0).encoded = false ∧ (Instr.gateMcWake 32 0).withinIssue = false
    ∧ ({ s with weir := { s.weir with powered := false } } : State).weir.powered = false := by decide +kernel
/-- The second of two waves has been a candidate from clk 10 to clk 521, 512 of them; the first, which is older, for one clk fewer. -/
theorem witness_ChoiceOfWave : let s := bench [0, 3] thread fun w => { w with cand := some (11, 521) }
    let u := { s with waves := s.waves.put 4097 { s.me with admitted := 5, base := 16, cand := some (10, 521) } }
    u.windowReady 256 = [4096, 4097] ∧ u.chosenWave [4096, 4097] = some 4097 ∧ (u.wave 4096).starved = false ∧ (u.wave 4097).starved = true
    ∧ ([4096, 4097] : List Nat).Pairwise (fun i j => (u.wave i).admitted ≤ (u.wave j).admitted) ∧ (10 : Nat) ≤ 521 := by decide +kernel
/-- Threads 0 and 1 stand at address 8 and the others at 4; in the second state thread 0 has waited for 64 issues; in the third the wave waits in place. -/
theorem witness_IssueGroup : let s := (fetched []).modWave 4096 fun w => (w.modThread 0 fun t => { t with pc := 8 }).modThread 1 fun t => { t with pc := 8 }
    let s := s.modWave 4096 fun w => (List.range 14).foldl (fun w p => w.modThread (p + 2) fun t => { t with pc := 4 }) w
    let u := s.modThread 4096 0 fun t => { t with starve := 64 }
    let x := s.modWave 4096 fun w => { w with inPlace := some { group := [0], addr := 8, code := [1, 2] } }
    (s.chooseGroup 4096).map (fun t => (t.cur.addr, t.cur.group)) = some (4, (List.range 14).map (· + 2))
    ∧ (u.chooseGroup 4096).map (fun t => (t.cur.addr, t.cur.group)) = some (8, [0, 1])
    ∧ (x.chooseGroup 4096).map (fun t => (t.cur.addr, t.cur.group)) = some (8, [0]) := by decide +kernel
theorem witness_ResetLeaves : State.reset.kindOf 2 = .shading ∧ State.reset.kindOf 0 = .geometry := by decide

/-! ### Lane instructions -/

theorem witness_IntegerResults : (intResult (.iadd 5 1 2)).isSome = true ∧ (intResult (.iadd 0xE5 1 2)).isSome = true
    ∧ (bench [0, 3]).passes (.iadd 5 1 2) = true ∧ (bench [0, 3]).passes (.iadd 0xE5 1 2) = true
    ∧ (withPrefix { present := true, men := true, pred := 1 } (bench [0, 3])).passes (.iadd 5 1 2) = true
    ∧ (withPrefix { present := true, men := true, pred := 1 } (bench [0, 3])).masked 0 = true := by decide +kernel
theorem witness_FloatInstructions : (floatResult (.fadd 5 4 5)).isSome = true ∧ (bench [0, 3]).passes (.fadd 5 4 5) = true
    ∧ (specialResult (.rcp 5 4)).isSome = true ∧ (bench [0, 3]).passes (.rcp 5 4) = true := by decide +kernel
theorem witness_NarrowingConversions : (narrowResult (.pack2Bf16 5 4 5)).isSome = true ∧ (bench [0]).passes (.pack2Bf16 5 4 5) = true
    ∧ (bench [0]).sr = false ∧ (withPrefix { present := true, rm := 4 } (bench [0])).sr = true
    ∧ (withPrefix { present := true, rm := 4 } (bench [0])).passes (.pack2Bf16 5 4 5) = true := by decide +kernel
theorem witness_WideResults : (wideResult (.iadd64 6 2 4)).isSome = true ∧ (bench [0, 3]).passes (.iadd64 6 2 4) = true := by decide +kernel
theorem witness_ResultsWithoutLatch : (predResult (.icmpLt 3 1 2)).isSome = true ∧ (bench [0, 3]).passes (.icmpLt 3 1 2) = true
    ∧ (eachResult (.lxSlide 5 4 6)).isSome = true ∧ (bench [0, 3]).passes (.lxSlide 5 4 6) = true
    ∧ (eachResult64 (.ballot 8 3)).isSome = true ∧ (bench [0, 3]).passes (.ballot 8 3) = true := by decide +kernel
/-- The example of R83: B = 0x8C04 and A = 0x0009A5F0. -/
theorem witness_BitFields : (bench [0, 3]).passes (.bfx 5 1 2) = true ∧ (bench [0, 3]).passes (.bfi 5 1 2) = true := by decide +kernel
theorem witness_LatchPush : ∃ (w : Wave) (p : Nat) (c : Code), p < w.threads.length ∧ (regOk c || c == 0xFC) = true :=
  ⟨(bench [0]).me, 0, 0xFC, by decide +kernel⟩
theorem witness_RoundingIsCorrect : ∃ f : Fmt, 0 < f.frac := ⟨bf16, by decide⟩
theorem witness_SpecialInputs : ∃ a b : Nat, (0 < a ∧ a < 0x7F800000) ∧ b < 2 ^ 32 ∧ 0x7F800000 < b % 2 ^ 31 ∧ a % 2 ^ 31 ≤ 0x7F800000 :=
  ⟨1, 0x7F800001, by decide⟩

/-- R83's example, R95's selector 0x00010203 and R91's conversions, as their rules give them. -/
theorem test_bit_fields : reg (exec (.bfx 5 1 2) (bench [0, 3])) 3 5 = some 0xFFFFFA5F ∧ reg (exec (.bfi 5 1 2) (bench [0, 3])) 3 5 = some 0x00005F00 := by
  decide +kernel
theorem test_bmix : reg (exec (.bmix 5 1 2) (withPrefix { present := true, c := 3 }
    (bench [0] { thread with v := [(1, 0x11223344), (2, 0xAABBCCDD), (3, 0x00010203)] }))) 0 5 = some 0x44332211 := by decide +kernel
/-- R66: the LFSR 0xACE1 steps to 0x80205673, 0xC0302B3A, 0x6018159D. -/
theorem test_lfsr : lfsrStep 0xACE1 = 0x80205673 ∧ lfsrStep 0x80205673 = 0xC0302B3A ∧ lfsrStep 0xC0302B3A = 0x6018159D := by decide +kernel
/-- 1.0 + 2.0 = 3.0, into V6 and H0 (R88, R17). -/
theorem test_fadd : reg (exec (.fadd 6 4 5) (bench [0])) 0 6 = some 0x40400000 ∧
    after (exec (.fadd 6 4 5) (bench [0])) (fun t => (t.me.thread 0).h0) = some ⟨true, 0x40400000⟩ := by decide +kernel
/-- R96: 70000.0 to FP16 under RTZ saturates at 0x7BFF. -/
theorem test_cvt_f16 : reg (exec (.cvtF16F32 5 4) (withPrefix { present := true, rm := 1 } (bench [0] { thread with v := [(4, 0x4788B800)] }))) 0 5
    = some 0x7BFF := by decide +kernel
/-- A step of the machine runs the word at the PC: IADD V6,V5,V5 (0x05050601). -/
theorem test_step : after (step (State.reset.withFetchWord 32 0x05050601)) (fun t => ((t.wave 4096).thread 0).pc) = some 4 := by decide +kernel

/-! ### Traps and control flow -/

theorem witness_Traps : let s := bench [0, 3]
    let u := bench [0] thread fun w => { w with tvec := 0 }
    s.issuing = true ∧ s.handles = true ∧ u.waves.find 4096 = some u.me ∧ u.launches.find u.me.launch = some u.myLaunch
    ∧ (u.waves.map Prod.fst).Nodup ∧ u.myLaunch.phase = .running ∧ u.me.tvec = 0 ∧ u.structs = [] ∧ u.queries = [] := by decide +kernel
/-- V16 is past the budget's registers: the unit is not permitted. In the second state the unit at address 0 is unassigned; in the third NOP ends at the last
byte of overlay 15. -/
theorem witness_IllegalInstructions : let s := bench [0, 3] thread fun w => { w with budget := 16 }
    (Instr.iadd 16 1 2).encoded = true ∧ s.issuing = true ∧ s.handles = true ∧ unitOk (.iadd 16 1 2) s.me s.cur = false ∧ s.myLaunch.request = none
    ∧ (let bs := codeBytes (fetchSlot 32 0xFFFFFFFF) 0
      (match (fetched [0xFF, 0xFF, 0xFF, 0xFF]).chooseGroup 4096 with
        | some t =>
          let x := (t.setUnit bs none).meetIssue .illegalEncoding
          decide (decodeUnit bs = none ∧ t.fetchChosen = .bytes bs ∧ x.issuing = true ∧ x.handles = false ∧ x.notedMembers = [] ∧ x.cur.addr = 0)
        | none => false) = true)
    ∧ (let e := bench [0, 3]
      let e := { e with cur := { e.cur with addr := 0xFFFFC } }
      e.issuing = true ∧ e.handles = true ∧ e.cur.addr.toNat + e.cur.len = 2 ^ 20
      ∧ after (exec .nop e) (fun w => decide (w.me.uid = e.me.uid) && e.cur.group.all fun p =>
          !(w.me.thread p).ended && decide ((w.me.thread p).pc = e.nextAddr)) = some true) := by decide +kernel
/-- V2 holds 1, a value without reserved bits for OVL.LOAD.TAB. -/
theorem witness_PrivilegedInstructions : let s := bench [0, 3] { thread with v := [(2, 1)] }
    (Instr.swrOther 0x13 3).privileged = true ∧ s.issuing = true ∧ s.handles = true ∧ unitOk (.swrOther 0x13 3) s.me s.cur = true ∧ s.me.priv = false
    ∧ unitOk (.bldBuildNft 2) s.me s.cur = true ∧ s.kindOf s.myDie ≠ .geometry ∧ (Instr.ovlLoadTab 3 2).privileged = true
    ∧ unitOk (.ovlLoadTab 3 2) s.me s.cur = true ∧ ∀ p ∈ s.cur.group, (s.src64 p 2).extractLsb' 57 6 = 0 := by decide +kernel
theorem witness_InvalidLatch : let s := bench [0] { thread with h0 := {} }
    (intResult (.iadd 5 1 0xF8)).isSome = true ∧ s.issuing = true ∧ s.handles = true ∧ unitOk (.iadd 5 1 0xF8) s.me s.cur = true
    ∧ s.masked 0 = false ∧ s.sources (.iadd 5 1 0xF8) 0 = [1] ++ (0xF8 : Code) :: [] ∧ ((s.me.thread 0).latch 0).valid = false := by decide +kernel
/-- The threads stand in overlay 1, and past overlay 15. -/
theorem witness_OverlayMiss : ∀ pc ∈ [0x10000, 0xF0000, 0x100000], let s := (fetched []).modWave 4096 fun w =>
      { w with threads := List.replicate 16 { thread with pc := word pc }, tvec := 0x100 }
    (s.chooseGroup 4096).map (fun t => t.me.inPlace.isNone && t.issuing && t.handles && decide (t.cur.addr = word pc)
      && ((t.core t.myCore).resident t.me.obj (t.cur.addr.toNat / 2 ^ 16)).isNone) = some true := by decide +kernel
theorem witness_NotedCauses : let s := (bench [0, 3]).modThread 4096 3 fun t => { t with noted := [(.flood, 5), (.bexh, 6)] }
    s.issuing = true ∧ s.me.tvec ≠ 0 ∧ (s.me.thread 3).noted = (.flood, 5) :: [(.bexh, 6)] ∧ (s.me.thread 3).inHandler = false
    ∧ (s.me.thread 0).noted = [] := by decide +kernel
theorem witness_ReturnFromTrap : let s := bench [0, 3] { thread with inHandler := true, tpc := 0x40 }
    s.passes .rft = true ∧ (s.me.thread 0).inHandler = true ∧ (s.me.thread 3).inHandler = true ∧ (bench [0, 3]).handles = true
    ∧ (bench [0, 3]).passes .rft = true := by decide +kernel
/-- A branch to the first and to the last code address of BRA, one before it and one past it: offsets −1, 0, 0x7FFFF from address 0, and past 0xFFFFE. -/
theorem witness_Branches : let s := bench [0, 3]
    let u := { s with cur := { s.cur with addr := 2 } }
    s.handles = true ∧ s.passes (.bra 0 0 0) = true ∧ s.passes (.call 0 0 0) = true ∧ (0 : Int) ≤ s.cur.addr.toNat + 2 * (0 : BitVec 20).toInt
    ∧ s.passes (.bra 1 1 0x7FFFF) = true ∧ (s.cur.addr.toNat + 2 * (0x7FFFF : BitVec 20).toInt : Int) = 0xFFFFE
    ∧ s.passes (.call 0 0 0xFFFFF) = true ∧ (s.cur.addr.toNat + 2 * (0xFFFFF : BitVec 20).toInt : Int) < 0
    ∧ u.passes (.bra 0 0 0x7FFFF) = true ∧ (0xFFFFE : Int) < u.cur.addr.toNat + 2 * (0x7FFFF : BitVec 20).toInt := by decide +kernel
theorem witness_Returns : let s := bench [0, 3] { thread with o := [(7, 0xFFFFE)] }
    let u := bench [0, 3] { thread with o := [(7, 0x100000)] }
    let odd := bench [0, 3] { thread with o := [(7, 3)] }
    s.passes (.ret 0 0) = true ∧ s.me.readCode 3 0xF7 = 0xFFFFE ∧ u.passes (.ret 0 0) = true ∧ u.handles = true ∧ ¬ (u.me.readCode 0 0xF7).toNat < 2 ^ 20
    ∧ odd.passes (.ret 0 0) = true ∧ (odd.me.readCode 0 0xF7).getLsbD 0 = true ∧ (s.me.thread 0).bad = []
    ∧ (let x := s.modThread 4096 0 fun t => { t with o := [(7, 3)] }
      x.passes (.ret 0 0) = true ∧ x.handles = true ∧ (x.me.readCode 0 0xF7).getLsbD 0 = true ∧ x.me.readCode 3 0xF7 = 0xFFFFE) := by decide +kernel
/-- A table of two entries, and the indexes 1 and 2. -/
theorem witness_IndirectBranches : let s := (bench [0, 3] { thread with v := [(1, 1), (2, 2)] }).modCore 256 fun c =>
      { c with slot0 := { c.slot0 with tables := [{ entries := [0x20, 0x40], join := 0x60 }] } }
    s.passes (.bri 1 0) = true ∧ s.passes (.calli 1 0) = true ∧ s.passes (.bri 2 0) = true ∧ s.passes (.calli 2 0) = true ∧ s.handles = true
    ∧ (s.core s.myCore).resident s.me.obj (s.cur.addr.toNat / 2 ^ 16) = some 0
    ∧ ((s.core s.myCore).slot 0).tables[(0 : BitVec 4).toNat]? = some { entries := [0x20, 0x40], join := 0x60 }
    ∧ (s.src 3 [] 1).toNat = 1 ∧ (s.src 3 [] 2).toNat = 2
    ∧ (let x := s.modThread 4096 0 fun t => { t with v := [(1, 2)] }
      x.passes (.bri 1 0) = true ∧ x.passes (.calli 1 0) = true ∧ x.handles = true ∧ (x.src 0 [] 1).toNat = 2 ∧ (x.src 3 [] 1).toNat = 1) := by
  decide +kernel
theorem witness_ThreadsEnd : let s := bench [0, 3]
    let u := (List.range 16).foldl (fun s p => if p = 0 then s else State.modThread s 4096 p fun t => { t with ended := true }) (bench [0])
    s.passes (.exit 0 0) = true ∧ s.queries = [] ∧ (s.me.thread 1).ended = false ∧ 1 < s.me.threads.length
    ∧ u.passes (.exit 0 0) = true ∧ u.queries = [] ∧ (u.me.thread 0).ended = false ∧ (u.me.thread 5).ended = true ∧ u.myLaunch.request = none := by
  decide +kernel
theorem witness_TrapInstruction : let s := bench [0, 3]
    s.passes (.trap 0 0 0x2A) = true ∧ s.passes (.trap 1 0 0x2A) = true ∧ s.me.tvec ≠ 0 ∧ (s.me.thread 0).inHandler = false
    ∧ (s.me.thread 3).inHandler = false := by decide +kernel
theorem witness_TrapInHandler : let s := bench [3] { thread with inHandler := true }
    s.passes (.trap 0 0 0x2A) = true ∧ ((s.me.thread 3).pred 0 ^^ ((0 : BitVec 1) == 1)) = true ∧ (s.me.thread 3).inHandler = true
    ∧ s.launches.find s.me.launch = some s.myLaunch ∧ s.myLaunch.phase = .running ∧ (s.waves.map Prod.fst).Nodup ∧ s.structs = [] ∧ s.queries = [] := by
  decide +kernel
/-- V3 holds a code address, V1 none (it is odd) in the second state; and a privileged task for SWR.OTHER. -/
theorem witness_SpecialRegisterWrites : let s := bench [0, 3] { thread with v := [(1, 0x10001), (3, 0x40)] } fun w => { w with priv := true }
    s.passes (.swr 0x11 3) = true ∧ s.passes (.swr 0x1C 1) = true ∧ s.passes (.swr 0x1D 1) = true ∧ s.passes (.swr 0x13 3) = true
    ∧ s.passes (.swrOther 0x13 3) = true ∧ s.passes (.swrOther 0x1C 3) = true ∧ s.passes (.swr 0x11 1) = true ∧ s.passes (.swr 0x13 1) = true
    ∧ s.handles = true ∧ (s.src 3 [] 3).toNat < 2 ^ 20 ∧ (s.src 3 [] 3).getLsbD 0 = false ∧ (s.src 0 [] 1).getLsbD 0 = true
    ∧ s.passes (.swrOther 0x13 1) = true
    ∧ (let x := s.modThread 4096 0 fun t => { t with v := [(3, 0x41)] }
      x.passes (.swr 0x11 3) = true ∧ x.handles = true ∧ (x.src 0 [] 3).getLsbD 0 = true ∧ x.src 3 [] 3 = 0x40) := by decide +kernel
theorem witness_NoOperation : (bench [0, 3]).passes .nop = true := by decide +kernel

/-- R24: TRAP #0x2A enters the handler with TPC at the next unit and TVAL 0x2A, and CAUSE bit 13 (R281). -/
theorem test_trap : after (exec (.trap 0 0 0x2A) (bench [3])) (fun t => ((t.me.thread 3).pc, (t.me.thread 3).tpc, (t.me.thread 3).tval))
    = some (0x100, 4, 0x2A) := by decide +kernel
theorem test_rft : after (exec .rft (bench [3] { thread with inHandler := true, tpc := 0x40 })) (fun t => ((t.me.thread 3).pc, (t.me.thread 3).inHandler))
    = some (0x40, false) := by decide +kernel
/-- CALL links O7 to the next unit and goes to its own address plus twice the offset (R119). -/
theorem test_call : after (exec (.call 0 0 8) (bench [0])) (fun t => ((t.me.thread 0).pc, t.me.readCode 0 0xF7)) = some (16, 4) := by decide +kernel

/-! ### Memory -/

/-- Bytes in place from an address on, without the zeros. -/
def placed (pa : Nat) (bs : List Byte) : List Host.Cell := (cellsOf pa bs).filter fun c => c.2 != 0

/-- A page table at 0x10000 (R235, R236): user pages with W and X map VA 0 to 32 MiB at 0x2000000, then the host window; from 64 MiB on, 64 KiB pages: die 0's
control page for privileged tasks, an RGN page at 0x4000000, an E4M3 page at 0x4010000 and the first page of device 7. -/
def tables : List Host.Cell :=
  placed 0x10000 (leBytes 0x14001 8) ++ placed 0x14000 (leBytes 0x18001 8)
    ++ placed 0x18000 (leBytes 0x200001F 8 ++ leBytes 0x8000000000017 8 ++ leBytes 0x1C001 8)
    ++ placed 0x1C000 (leBytes 0x10000000107 8 ++ leBytes 0x4000037 8 ++ leBytes 0x0040000004010017 8 ++ leBytes 0x0001C00000000057 8)

/-- The bench with those tables, some registers V, and bytes in place at addresses above the tables. -/
def mapped (group : List Nat) (v : Tab Word) (data : List Host.Cell := []) (f : Wave → Wave := id) : State :=
  { bench group { thread with v := v } fun w => f { w with space := { ctx := 1, asid := 1, root := 0x10000 } } with mem := tables ++ data }

/-- The same where device 7 with a page of memory is present. -/
def grouped (s : State) : State := { s with weir := { s.weir with grpcfg := 1, devtab := [(7, 0x8000010000010000)] } }

/-- The same beside a store of thread 3 to device 0, whose ports are down. -/
def jammed (s : State) : State := s.modDie 2 fun x => { x with pend := x.pend ++ [{ agent := s.agent 3, pa := 2 ^ 60, data := [1] }] }

/-- The same where die 3 owns a frame to which a store of its stands behind one to another device. -/
def contested (g : Nat) (s : State) : State :=
  { s with rgnOwner := [(g, 3)] }.modDie 3 fun x =>
    { x with pend := [{ agent := 9, pa := 2 ^ 60, data := [1] }, { agent := 9, pa := 65536 * g, data := [2] }] }

/-- The memory prefix ACQ, REL or both at SYS, or SC. -/
def ordered (ord : Nat) (sc : Bool) (s : State) : State := withPrefix {} s { present := true, scope := 4, ord := BitVec.ofNat 2 ord, sc := sc }

/-- Three bytes are on their way from die 2. -/
theorem witness_StoresAndViews : let s := State.reset.store 2 { agent := 65, pa := 0x100, data := [1, 2, 3] }
    2 ∈ s.computeDies ∧ s.canFlush 2 = true ∧ s.watches = [] ∧ (∀ e ∈ (s.die 2).pend, e.sem = none ∧ e.tile = false ∧ e.redo = none)
    ∧ pendByte (s.die 2).pend 0x102 = some 3 ∧ 0x102 < 2 ^ 51
    ∧ (∀ e ∈ (s.die 2).pend, e.pa + e.data.length ≤ 2 ^ 51 ∨ 2 ^ 51 ≤ e.pa) ∧ 3 ∈ s.computeDies ∧ pendByte (s.die 3).pend 0x102 = none
    ∧ Memory.wf s.mem = true := by decide +kernel

/-- V2 holds VA 0x100 and the first address of the host window; and an SC load waits behind a store of its thread to another device. -/
theorem witness_LoadsComplete : let s := mapped [3] [(2, 0x100)]
    let u := mapped [3] [(2, 0x2000000)]
    let x := ordered 0 true (jammed s)
    let at_ := Spot.stored 0x2000100
    let out := Spot.outside (2 ^ 51)
    x.passes (.ldW 8 2 0) = true ∧ x.alone 3 = true ∧ (x.access formW false .read 0x100).1 = .ok at_
    ∧ (x.access formW false .read 0x100).2.loadHeld 3 at_ none = true
    ∧ (loadForm (.ldW 8 2 0)).isSome = true ∧ s.passes (.ldW 8 2 0) = true ∧ s.alone 3 = true
    ∧ (s.access formW false .read (s.src64 3 2 + (0 : BitVec 8).signExtend 64 * BitVec.ofNat 64 formW.size).toNat).1 = .ok at_
    ∧ formW.outAccess (s.myAccess 0 0 0) at_ = none ∧ (s.access formW false .read 0x100).2.loadHeld 3 at_ none = false
    ∧ ((s.access formW false .read 0x100).2.reached 3 at_).spotPoison s.myDie 4 at_ = none
    ∧ u.passes (.ldW 8 2 0) = true ∧ (u.access formW false .read 0x2000000).1 = .ok out
    ∧ (formW.outAccess (u.myAccess 0x2000000 0 0) out).isSome = true
    ∧ (u.access formW false .read 0x2000000).2.loadHeld 3 out (formW.outAccess (u.myAccess 0x2000000 0 0) out) = false := by decide +kernel
/-- The last word of a window of 16 bytes, the word after it, and an offset of 2; windows at an odd address, in host memory and in a control page. -/
theorem witness_ConstantLoads : let s := mapped [3] [(1, 12), (2, 16), (3, 2)] [] fun w => { w with constBase := 0x100, clen := 16 }
    let range (u : State) := u.translateRange u.myDie u.me.space (fun e => readable u.me.priv e && notControl e) (u.me.constBase + 12) 4 (some u.myCore)
    s.passes (.ldc 8 1 0) = true ∧ s.alone 3 = true ∧ s.handles = true ∧ (s.src 3 [] 1 + (0 : BitVec 8).signExtend 32 * 4).toNat = 12
    ∧ s.me.clen = 16
    ∧ (∀ x ∈ [(0x100, 0x200010C), (0x101, 0x200010D), (0x2000000, 2 ^ 51 + 12)],
      let u := s.modWave 4096 fun w => { w with constBase := x.1 }
      u.passes (.ldc 8 1 0) = true ∧ (match (range u).1 with
        | .ok m =>
          let r := (range u).2.rangeRead (m.map fun y => (y.1, y.2.1, 0)) (u.me.constBase + 12) 4
          (m.all fun y => decide (pteFmt y.2.2 < 15) && decide (y.2.1 = x.2))
            && (if x.2 < 2 ^ 51 then isOk r.1 && !r.2.cur.blocked && (List.range 4).all fun k => r.2.poisonedAt s.myDie (x.2 + k) == false
              else r.2.cur.need.isSome)
        | .error _ => false) = true)
    ∧ (match (range (s.modWave 4096 fun w => { w with constBase := 0x4000000 })).1 with | .error (.prot _) => true | _ => false) = true
    ∧ s.passes (.ldc 8 2 0) = true ∧ (s.src 3 [] 2).toNat = 16 ∧ s.passes (.ldc 8 3 0) = true ∧ (s.src 3 [] 3).toNat % 4 ≠ 0 := by decide +kernel
/-- A store to plain memory, one to XINVA in die 0's control page in a privileged task, and an SC one there behind a store to another device. -/
theorem witness_Stores : let s := mapped [3] [(2, 0x100)]
    let u := mapped [3] [(2, 0x4000000), (4, 5)] [] fun w => { w with priv := true }
    let reg := Spot.control (2 ^ 40)
    let z (x : State) : State := ((x.access formD true .write 0x4000000).2.touchSpot x.myDie reg).storeSpot formD 3 0x4000000 (x.dataWords formD 3 4) reg
    (storeForm (.stW 8 2 0)).isSome = true ∧ s.passes (.stW 8 2 0) = true ∧ s.alone 3 = true ∧ s.isSc = false
    ∧ (s.access formW true .write (s.src64 3 2 + (0 : BitVec 8).signExtend 64 * BitVec.ofNat 64 formW.size).toNat).1 = .ok (.stored 0x2000100)
    ∧ 0x2000100 < 2 ^ 51 ∧ s.rgnOwner.find (0x2000100 / 65536) = none
    ∧ (((s.access formW true .write 0x100).2.touchSpot s.myDie (.stored 0x2000100)).storeSpot formW 3 0x100 [7] (.stored 0x2000100)).cur.blocked = false
    ∧ u.passes (.stD 4 2 0) = true ∧ (u.access formD true .write 0x4000000).1 = .ok reg ∧ (z u).issuing = true ∧ (z u).cur = u.cur
    ∧ (let x := ordered 0 true (jammed u)
      x.passes (.stD 4 2 0) = true ∧ (x.access formD true .write 0x4000000).1 = .ok reg ∧ (z x).cur.blocked = true) := by decide +kernel
theorem witness_MisalignedAccesses : let s := mapped [3] [(2, 0x101)]
    s.passes (.ldW 8 2 0) = true ∧ s.passes (.stW 8 2 0) = true ∧ s.passes (.atomAdd 8 2 4) = true ∧ s.alone 3 = true ∧ s.handles = true
    ∧ (s.src64 3 2).toNat % 4 ≠ 0 ∧ (loadForm (.ldW 8 2 0)).isSome = true ∧ (storeForm (.stW 8 2 0)).isSome = true
    ∧ (atomicForm (.atomAdd 8 2 4)).isSome = true ∧ s.cur.mp.wide = false
    ∧ s.readable? (.ldW 8 2 0) 3 = true ∧ s.readable? (.stW 8 2 0) 3 = true ∧ s.readable? (.atomAdd 8 2 4) 3 = true := by decide +kernel
/-- An atomic to memory, one to the host window, one behind a store of its thread to another device, one on a marked unit; and ATOMAGG.ADD of one member,
of two, and to another device. -/
theorem witness_Atomics : let s := mapped [3] [(2, 0x100)]
    let x := jammed s
    let at_ := Spot.stored 0x2000100
    let go (s : State) (op : Nat) := ((s.atomicSpot op false 0x100).2.touchSpot s.myDie at_)
    (atomicForm (.atomAdd 8 2 4)) = some (0, 8, 2, 4) ∧ s.passes (.atomAdd 8 2 4) = true ∧ s.passes (.atomaggAdd 8 2 4) = true ∧ s.alone 3 = true
    ∧ (∀ op ∈ [0, 11], (s.atomicSpot op false 0x100).1 = .ok at_ ∧ (s.atomicSpot op false 0x100).2.spotPoison s.myDie 4 at_ = none
      ∧ ((go s op).cur.blocked || (go s op).atomicWaits 3 4 at_) = false
      ∧ ((go x op).cur.blocked || (go x op).atomicWaits 3 4 at_) = true ∧ (x.atomicSpot op false 0x100).1 = .ok at_)
    ∧ x.passes (.atomAdd 8 2 4) = true ∧ x.passes (.atomaggAdd 8 2 4) = true
    ∧ ({ s with poison := [0x200010] } : State).passes (.atomAdd 8 2 4) = true ∧ s.handles = true
    ∧ (({ s with poison := [0x200010] } : State).atomicSpot 0 false 0x100).2.spotPoison s.myDie 4 at_ = some 0x2000100
    ∧ (let u := mapped [3] [(2, 0x2000000)]
      let out := Spot.outside (2 ^ 51)
      u.passes (.atomAdd 8 2 4) = true ∧ (u.atomicSpot 0 false 0x2000000).1 = .ok out ∧ (u.atomicSpot 0 false 0x2000000).2.spotPoison u.myDie 4 out = none
      ∧ (u.atomicSpot 0 false 0x2000000).2.atomicWaits 3 4 out = false)
    ∧ (let v := grouped (mapped [3] [(2, 0x4030000)])
      let away := Spot.outside (2 ^ 60 + 7 * 2 ^ 46)
      v.passes (.atomaggAdd 8 2 4) = true ∧ (v.atomicSpot 11 false 0x4030000).1 = .ok away
      ∧ (v.atomicSpot 11 false 0x4030000).2.spotPoison v.myDie 4 away = none ∧ (v.atomicSpot 11 false 0x4030000).2.atomicWaits 3 4 away = false)
    ∧ (let two := mapped [0, 3] [(2, 0x100), (4, 5)]
      let c := aggCheck 2 4 two two.cur.group
      two.passes (.atomaggAdd 8 2 4) = true ∧ c.1 = [(0, 0x100, at_, 5), (3, 0x100, at_, 5)] ∧ c.2.1 = []
      ∧ ((c.2.2.touchSpot two.myDie at_).cur.blocked || (c.2.2.touchSpot two.myDie at_).atomicWaits 0 4 at_) = false)
    ∧ ([(0, (5 : Word64)), (3, 6)])[1]? = some (3, 6) := by decide +kernel
theorem witness_AtomicResults : ∃ (s : State) (pa op : Nat), s.quiet = true ∧ op ≤ 10 ∧ pa + 8 ≤ 2 ^ 51 := ⟨State.reset, 2 ^ 51 - 8, 10, by decide +kernel⟩
theorem witness_Fences : ∀ x ∈ [(3, 0, false), (4, 0, false), (4, 1, false), (4, 2, false), (4, 3, false), (4, 0, true)],
    let s := withPrefix {} (bench [0, 3]) { present := true, scope := BitVec.ofNat 3 x.1, ord := BitVec.ofNat 2 x.2.1, sc := x.2.2 }
    s.passes .fence = true ∧ s.canFlush s.myDie = true ∧ (jammed s).canFlush s.myDie = false ∧ (jammed s).passes .fence = true := by decide +kernel
/-- Two loads, two stores, the two members of LD.W W4,W4, where the second reads the W4 that stands before the first one's result; and two loads of which
the first is misaligned. -/
theorem witness_MembersInTurn : let s := mapped [0, 3] [(2, 0x100)]
    let d := eachMember (loadMember formW 8 2 0) true s s.cur.group
    let r := eachMember (storeMember formW 8 2 0) true s s.cur.group
    let x := mapped [0, 3] [] [] fun w => { w with w := [(4, 0x100)] }
    let m := s.modThread 4096 0 fun t => { t with v := [(2, 0x101)] }
    let e := eachMember (loadMember formW 8 2 0) true m m.cur.group
    (memberOf (.ldW 8 2 0)).isSome = true ∧ s.passes (.ldW 8 2 0) = true
    ∧ d.raised = [] ∧ d.st.cur = { s.cur with loads := d.st.cur.loads } ∧ d.st.issuing = true
    ∧ s.passes (.stW 8 2 0) = true ∧ r.ok = s.cur.group ∧ r.raised = [] ∧ r.st.cur = s.cur ∧ r.st.issuing = true
    ∧ m.passes (.ldW 8 2 0) = true ∧ e.raised = [(0, .trap .align m.cur.addr 0x101)] ∧ e.st.cur = { m.cur with loads := e.st.cur.loads }
    ∧ e.st.issuing = true ∧ e.st.handles = true
    ∧ x.passes (.ldW 0xE4 0xE4 0) = true ∧ (x.waves.find x.cur.wave).isSome = true ∧ (match loadMember formW 0xE4 0xE4 0 true x 0 with
      | .error _ => false
      | .ok t => decide (t.cur.wave = x.cur.wave) && (t.waves.find x.cur.wave).isSome && !t.cur.blocked && !t.cur.away && !decide (t.me.w = x.me.w) &&
          (match loadMember formW 0xE4 0xE4 0 false (t.modWave x.cur.wave fun w => { w with w := x.me.w }) 3 with
            | .ok u => !u.cur.blocked | .error _ => false)) = true := by decide +kernel

/-- Loads of the bytes F0 A5 09 80 at VA 0x100, by form (R106). -/
theorem test_loads : let s := mapped [3] [(2, 0x100)] (placed 0x2000100 [0xF0, 0xA5, 0x09, 0x80])
    reg (exec (.ldW 8 2 0) s) 3 8 = some 0x8009A5F0 ∧ reg (exec (.ldB 8 2 0) s) 3 8 = some 0xF0 ∧ reg (exec (.ldBs 8 2 0) s) 3 8 = some 0xFFFFFFF0
    ∧ reg (exec (.ldH 8 2 1) s) 3 8 = some 0x8009 ∧ reg (exec (.ldHs 8 2 1) s) 3 8 = some 0xFFFF8009 := by decide +kernel
/-- A store of 0x11223344 at VA 0x100 is in its die's order and not yet at its home (R352). -/
theorem test_store : after (exec (.stW 4 2 0) (mapped [3] [(2, 0x100), (4, 0x11223344)]))
    (fun t => (t.viewNat 2 0x2000100 4, t.viewNat 3 0x2000100 4)) = some (0x11223344, 0) := by decide +kernel
/-- ATOM.ADD at VA 0x100 gives the old value and leaves the sum at the home (R112). -/
theorem test_atom_add : let o := exec (.atomAdd 8 2 4) (mapped [3] [(2, 0x100), (4, 5)] (placed 0x2000100 [7]))
    reg o 3 8 = some 7 ∧ after o (fun t => t.homeByte 0x2000100) = some 12 := by decide +kernel
/-- A word of an E4M3 page: LD.W of VA 0x4020000 gives 1.0 from the byte 0x38 (R67, R69). -/
theorem test_typed_load : reg (exec (.ldW 8 2 0) (mapped [3] [(2, 0x4020000)] (placed 0x4010000 [0x38]))) 3 8 = some 0x3F800000 := by decide +kernel

/-! ### The Tarn and the matrix engine -/

/-- The mapped bench whose team has a share of 4,096 bytes and two windows: an E4M3 one of 256 bytes at 1,024 and a BF16 one of 1,024 bytes at 2,048; its
core holds 64 shots, and its stream window is the E4M3 page. -/
def shared (group : List Nat) (v : Tab Word) (f : Wave → Wave := id) (c : CoreSt → CoreSt := id) : State :=
  let s := mapped group v [] f
  let t := (s.modTeam s.me.team fun t => { t with tarnLen := 4096, windows := [(0, (4, 0x80000104)), (1, (8, 0x80000402))] }).modCore 256 fun x =>
    c { x with pocket := 64 }
  t.modDie 2 fun x => { x with swin := some { asid := 1, base := 0x4020000, len := 65536, pages := [(0x4020000, 0x0040000004010017, 3)] } }

/-- The last word of the share, the word after it, a window's first element, and WCFG of window 7 in the control range. -/
theorem witness_Tarn : let s := shared [3] [(1, 4092), (2, 4096), (3, 1024), (4, 0x7FFF3C), (5, 9)]
    s.alone 3 = true ∧ s.passes (.ldt 8 1 0) = true ∧ s.passes (.stt 5 1 0) = true ∧ s.passes (.tatomAdd 8 1 5) = true
    ∧ (withPrefix { present := true, c := 5 } s).passes (.tatomCas 8 1 5) = true
    ∧ s.tarnSpot s.myCore s.myTeam 4092 = .ok (.raw 256 4092) ∧ s.tarnSpot s.myCore s.myTeam 4096 = .error .tarnr
    ∧ s.tarnSpot s.myCore s.myTeam 0x7FFF3C = .ok (.control 15) ∧ s.tarnSpot s.myCore s.myTeam 1024 = .ok (.element 256 1024 (.elements e4m3) 0)
    ∧ (s.core 256).tarnFault 4092 4 = none ∧ (s.core 256).tarnFault 1024 1 = none
    ∧ 4092 < 0x7FFF00 ∧ s.myTeam.windowAt 4092 = none ∧ s.myTeam.tarnBase 256 = some 0 := by decide +kernel
/-- Type 0 (BF16), B at the BF16 window, at no window, and at the E4M3 window, which type 2 finds too short; and MVS from the E4M3 page's first weights. -/
theorem witness_MatrixProducts : let s := shared (octetPositions 0) [(40, 2048), (42, 0x4020000)]
    s.passes (.mma 5 0 16 40) = true ∧ s.partOctets = [0] ∧ (∀ p ∈ s.cur.group, s.mmaCheck 5 40 p = none) ∧ s.matrixBusy s.cur.group = none
    ∧ s.cannotPay 6 = false ∧ s.lateFault 0 [40] = none
    ∧ (match s.bOperand 0 40 with
      | .ok r => decide ((s.core r.core).tarnFault r.at_ r.len = none) && decide (s.tarnPlace s.myCore s.myTeam 2048 r.low r.len = some (r.core, r.at_))
          && decide (s.myTeam.windowAt (tarnOffset 2048) = some r.window) && decide (unitsOf r.window.fmt = some r.units) && acceptsB 0 r.window.fmt
          && decide (r.window.index r.units (tarnOffset 2048) + 16 * mmaK 0 ≤ r.units.capacity r.window.len)
      | .error _ => false) = true
    ∧ inControl 2048 = false ∧ inControl 8 = false ∧ s.myTeam.windowAt (tarnOffset 8) = none ∧ s.me.mtype = 0 ∧ acceptsB 0 4 = false
    ∧ inControl 1024 = false ∧ (s.myTeam.windowAt (tarnOffset 1024)).map (fun w => (w.fmt, w.index (.elements e4m3) (tarnOffset 1024),
      (Units.elements e4m3).capacity w.len)) = some (4, 0, 256) ∧ unitsOf 4 = some (.elements e4m3) ∧ acceptsB 2 4 = true ∧ 256 < 0 + 16 * mmaK 2
    ∧ (∀ p ∈ s.cur.group, (s.me.thread p).bad = []) ∧ (s.core s.myCore).badAcc 5 (List.range 8) = false ∧ (s.core s.myCore).badAcc 5 [0] = false
    ∧ s.passes (.mvs 5 1 42) = true ∧ (∀ p ∈ s.cur.group, s.mvsCheck 5 1 42 p = none) ∧ s.cannotPay 3 = false
    ∧ (∀ p ∈ s.cur.group, s.lateFault p (if p = 0 then [1] ++ pairCodes 42 else [1]) = none)
    ∧ (match (s.pay 3).weightSpot 0x4020000 with
      | (.ok (e, u, i), z) => decide (z = s.pay 3) && decide (z.unitsPoison s.myDie u (unitsFor u e i 256) = none)
          && !(foldState (fun pa x => x.touchRgn s.myDie pa false) (unitsFor u e i 256) (z.meetAcc 5 [0])).cur.blocked
      | (.error _, _) => false) = true
    ∧ s.rgnOwner = [] := by decide +kernel
/-- The same in two octets. -/
theorem witness_MatrixProducts_two : let s := shared (octetPositions 0 ++ octetPositions 1) [(40, 2048), (42, 0x4020000)]
    s.passes (.mma 5 0 16 40) = true ∧ s.partOctets = [0, 1] ∧ s.cur.group = s.partOctets.flatMap octetPositions
    ∧ (∀ p ∈ s.cur.group, s.mmaCheck 5 40 p = none ∧ s.mvsCheck 5 1 42 p = none ∧ (s.me.thread p).bad = []) ∧ s.matrixBusy s.cur.group = none
    ∧ s.cannotPay 6 = false ∧ s.passes (.mvs 5 1 42) = true ∧ s.rgnOwner = []
    ∧ ∀ j ∈ s.partOctets, (s.core s.myCore).badAcc (5 + j) (List.range 8) = false ∧ (s.core s.myCore).badAcc (5 + j) [0] = false
      ∧ (match s.bOperand (8 * j) 40 with
        | .ok r => decide ((s.core r.core).tarnFault r.at_ r.len = none) | .error _ => false) = true
      ∧ (match (s.pay 3).weightSpot (s.src64 (8 * j) 42).toNat with
        | (.ok (e, u, i), z) => decide (z = s.pay 3) && decide (s.unitsPoison s.myDie u (unitsFor u e i 256) = none) | (.error _, _) => false) = true := by
  decide +kernel
/-- MTYPE 0x13 and 10 are legal and 0x14, 11 and 32 are not (R161). -/
theorem witness_MatrixState : let s := shared (octetPositions 0) [(1, 0x13), (2, 10), (3, 0x14), (4, 11), (5, 32), (6, 1024)]
    s.passes (.mzero 5) = true ∧ s.partOctets = [0] ∧ (∀ p ∈ s.cur.group, s.octetIll 5 p = false)
    ∧ (∀ a ∈ [1, 2, 3, 4, 5], s.passes (.mcfg a) = true) ∧ [1, 2, 3, 4, 5].map (fun a => (s.src s.lowest [] a).toNat) = [0x13, 10, 0x14, 11, 32]
    ∧ s.handles = true ∧ s.passes (.mtbl 3 6) = true ∧ (s.src s.lowest [] 6).toNat = 1024
    ∧ (match s.rawTarn 1024 2048 with | .ok _ => true | .error _ => false) = true ∧ s.passes (.nthint 1) = true := by decide +kernel
/-- Commands 0 and 1 (with a bias at 64) in W4; and a context that another wave holds. -/
theorem witness_Drains : let s := shared (octetPositions 0) [] fun w => { w with w := [(4, 0)] }
    let u := shared (octetPositions 0) [] fun w => { w with w := [(4, 1), (5, 64)] }
    let d : Drain := { wave := 4097, tile := 5, vals := [], start := 0 }
    let x := s.modCore 256 fun c => { c with drains := [(0, d)] }
    s.passes (.mdrain 5 0xE4) = true ∧ s.partOctets = [0] ∧ (∀ p ∈ s.cur.group, s.octetIll 5 p = false) ∧ commandOk (s.drainWords 0xE4).1 = true
    ∧ (s.core s.myCore).drains.find (s.coreOctet 0) = none ∧ bit (s.drainWords 0xE4).1 0 = false
    ∧ u.passes (.mdrain 5 0xE4) = true ∧ bit (u.drainWords 0xE4).1 0 = true ∧ commandOk (u.drainWords 0xE4).1 = true
    ∧ (match u.rawTarn 64 64 with | .ok _ => true | .error _ => false) = true
    ∧ x.passes (.mdrain 5 0xE4) = true ∧ (x.core x.myCore).drains.find (x.coreOctet 0) = some d ∧ d.wave ≠ x.cur.wave := by decide +kernel

/-! ### Copies, waits and overlays -/

/-- Descriptors of 32 and of 0 bytes, and a BUSY tag. -/
theorem witness_TarnCopies : let s := shared [0, 3] [(20, 0x100), (22, 64), (23, 32), (24, 0x100), (26, 64)]
    let u := s.modCore 256 fun c => { c with tags := [(5, .busy)] }
    s.passes (.tcopyIn 5 20) = true ∧ s.passes (.tcopyOut 5 24) = true ∧ (s.core s.myCore).tags.get .idle 5 ≠ .busy
    ∧ (s.group s.lowest 20 4) = 32 * 2 ^ 96 + 64 * 2 ^ 64 + 0x100 ∧ (s.group s.lowest 24 4) = 64 * 2 ^ 64 + 0x100
    ∧ (match s.translateRange s.myDie s.me.space (copyAllows s.me.priv true) 0x100 32 (some s.myCore) with
      | (.ok _, q) => q.tarnPlace q.myCore q.myTeam 64 64 32 | (.error _, _) => none) = some (256, 64)
    ∧ (match s.translateRange s.myDie s.me.space (copyAllows s.me.priv false) 0x100 0 (some s.myCore) with
      | (.ok _, q) => q.tarnPlace q.myCore q.myTeam 64 64 0 | (.error _, _) => none) = some (256, 64)
    ∧ u.passes (.tcopyIn 5 20) = true ∧ (u.core u.myCore).tags.get .idle 5 = .busy := by decide +kernel
theorem witness_CopyUnits : ∃ (s : State) (c d : TCopy), c.isIn = true ∧ d.isIn = false ∧ (s.core 256).copies.find? (fun x => x.tag == 5) = some c :=
  let c : TCopy := { tag := 5, isIn := true, asid := 1, va := 0, launch := 1, die := 2, tarnCore := 256, tarnOff := 64, len := 16, units := [(64, 0)] }
  ⟨State.reset.modCore 256 fun x => { x with copies := [c] }, c, { c with isIn := false }, by decide +kernel⟩
/-- Masks 0, of a DONE tag, of an IDLE one, and of both. -/
theorem witness_TagWaits : let s := shared [0, 3] [(4, 0x20), (6, 0x40), (8, 0x60)] id fun c => { c with tags := [(5, .done)] }
    (∀ a ∈ [2, 4, 6, 8], s.passes (.waitany a) = true ∧ s.passes (.waitall a) = true)
    ∧ [2, 4, 6, 8].map (s.src64 s.lowest) = [0, 0x20, 0x40, 0x60]
    ∧ (s.core s.myCore).tags.get .idle 5 = .done ∧ (s.core s.myCore).tags.get .idle 6 = .idle := by decide +kernel
/-- Tag 5 ends one of the waits and not the other. -/
theorem witness_WaitsEnd : let s := (shared [0, 3] [] id fun c => { c with tags := [(5, .done)] }).modWave 4096 fun w => { w with wait := some (.tags true 0x20) }
    (s.waves.map Prod.fst).Nodup ∧ s.waves.find 4096 = some s.me ∧ s.me.wait = some (.tags true 0x20)
    ∧ s.waitOver (coreOfWave 4096) s.me.team (.tags true 0x20) = true ∧ s.waitOver (coreOfWave 4096) s.me.team (.tags true 0x40) = false := by
  decide +kernel
theorem witness_TagsAndYields : let s := shared [0, 3] [(4, 0x20), (6, 7)] id fun c => { c with tags := [(5, .done)] }
    s.passes (.tclr 4) = true ∧ ((s.core s.myCore).tags.map Prod.fst).Nodup ∧ s.passes (.park 6) = true ∧ s.passes (.park 2) = true
    ∧ s.src s.lowest [] 6 = 7 ∧ s.src s.lowest [] 2 = 0 ∧ s.passes .yield = true ∧ s.passes .c16Yield = true := by decide +kernel
/-- Overlay 3 of object 0 is 256 bytes at VA 0x100, overlay 4 has no valid entry; slot 1 holds nothing, then overlay 3, then a load. -/
theorem witness_OverlayLoads : let s := (shared [0, 3] [(4, 0x100), (5, 0x80000000)] fun w => { w with priv := true }).modDie 2 fun x =>
      { x with objs := [(0, { ovltab := [(3, 0x8000000000000100)] })] }
    let u := s.modCore 256 fun c => c.setSlot 1 { st := .resident, n := 3 }
    let x := s.modCore 256 fun c => c.setSlot 1 { st := .loading }
    s.passes (.ovlLoad 3 1) = true ∧ ((s.objCopy s.myDie s.me.obj).ovltab.get 0 3).getLsbD 63 = true
    ∧ (match (s.planLoad s.myDie s.me.space s.me.priv s.me.obj 3 0x100 256 (some s.myCore)).1 with | .ok _ => true | .error _ => false) = true
    ∧ u.passes (.ovlLoad 3 1) = true ∧ ((u.core u.myCore).slot 1).st = .resident ∧ ((u.core u.myCore).slot 1).n = 3
    ∧ s.passes (.ovlLoad 4 1) = true ∧ ((s.objCopy s.myDie s.me.obj).ovltab.get 0 4).getLsbD 63 = false ∧ s.handles = true
    ∧ s.passes (.ovlLoadTab 4 4) = true ∧ (s.src64 s.lowest 4).extractLsb' 57 6 = 0
    ∧ s.passes (.ovlWait 1) = true ∧ ((s.core s.myCore).slot 1).st ≠ .loading ∧ x.passes (.ovlWait 1) = true
    ∧ ((x.core x.myCore).slot 1).st = .loading := by decide +kernel
theorem witness_OverlayArrives : ∃ (s : State) (l : OvlLoad), ((s.core 256).slot 1).pend = some l :=
  let l : OvlLoad := { asid := 1, obj := 0, n := 3, va := 0, len := 256, map := [(0, 0x2000000, 31)], tabVa := 0, ntab := 1, tabMap := [(0, 0x2000000, 31)] }
  ⟨State.reset.modCore 256 fun c => c.setSlot 1 { st := .loading, pend := some l }, l, by decide +kernel⟩

/-- 3.0 × 2.0 accumulates into row 0 of the tile: A holds 3.0 and B 2.0 at k = 0 of column 0 (R74, R165). -/
theorem test_mma : after (exec (.mma 5 0 16 40) (shared (octetPositions 0) [(16, 0x4040), (40, 2048)] id fun c => { c with tarn := [(2049, 0x40)] }))
    (fun t => fp32.round .rne (f36.dec ((t.core 256).acc 5 0 0).toNat)) = some 0x40C00000 := by decide +kernel
/-- STT and then LDT of the same word; and a control word discards its reserved bits (R137). -/
theorem test_tarn : after (exec (.stt 5 1 0) (shared [3] [(1, 64), (5, 0x11223344)])) (fun t => (t.core 256).tarnBytes 64 4) = some [0x44, 0x33, 0x22, 0x11]
    ∧ after (exec (.stt 5 1 0) (shared [3] [(1, 0x7FFF04), (5, 0xFFFFFFFF)])) (fun t => (t.myTeam.window 0).2) = some 0x8007FFFF := by decide +kernel
theorem test_waitany : after (exec (.waitany 4) (shared [0] [(4, 0x20)])) (fun t => t.me.wait) = some (some (.tags true 0x20)) := by decide +kernel

/-! ### The cluster -/

/-- The lower core of pair 0 of cluster 32, whose team holds the pair's FIFOs. -/
def owner (fifos : Tab (List FifoEntry)) : State :=
  let s := shared [0, 3] [(1, 9)]
  s.modCluster 32 fun c => { c with fifoOwner := [(0, s.me.team)], fifos := fifos }

/-- The wave of a bench on core 0 instead, which is a geometry core. -/
def onGeometry (s : State) : State := { s with waves := [(0, s.me)], cur := { s.cur with wave := 0 } }

/-- FIFO 1 with an entry, FIFO 0 full, a team that does not hold them, and a geometry core. -/
theorem witness_VerticalFifos : let e : FifoEntry := { width := 16, vals := [1, 2] }
    let s := owner [(1, [e])]
    let g := onGeometry s
    g.kindOf g.myDie = .geometry ∧ g.handles = true ∧ (∀ i ∈ [Instr.vfPush 0 1, .vfPop 1 0, .vfFree 1 0], g.passes i = true) ∧ s.popReady 1 = true ∧
    let full := owner [(0, List.replicate 16 e)]
    let other := shared [0, 3] []
    s.kindOf s.myDie ≠ .geometry ∧ s.passes (.vfPush 0 1) = true ∧ s.passes (.vfPush 1 1) = true ∧ s.holdsFifos = true ∧ (s.myCore % 2 == 0) = true
    ∧ (s.fifo 0).length < 16 ∧ full.passes (.vfPush 0 1) = true ∧ full.holdsFifos = true ∧ 16 ≤ (full.fifo 0).length ∧ s.handles = true
    ∧ s.passes (.vfPop 8 1) = true ∧ s.fifo 1 = [e] ∧ e.bad = false ∧ full.passes (.vfPop 8 1) = true ∧ full.popReady 1 = false ∧ s.passes (.vfPop 8 0) = true
    ∧ (s.cluster s.myCluster).fifoClk.find (s.fifoKey 1) = none
    ∧ s.passes (.vfFree 8 1) = true ∧ other.passes (.vfFree 8 1) = true ∧ other.holdsFifos = false ∧ other.handles = true := by decide +kernel
/-- A team whose barrier 2 expects 2 arrivals, with some left. -/
def barred (left : Nat) : State :=
  let t := shared [0, 3] [(1, 1), (2, 4095), (3, 4096), (4, 65533), (5, 65534)]
  t.modTeam t.me.team fun x => { x with barriers := [(2, { exp := 2, left := left })] }

/-- Barrier 2 expects 2 arrivals with 2 or 1 left; barrier 3 was never set up. Counts 1, 4095 and 4096 for BAR.INIT, 65533 and 65534 for BAR.EXPECT. -/
theorem witness_Barriers : let s := barred
    (s 2).handles = true ∧ (∀ a ∈ [1, 2, 3], (s 2).passes (.barInit 2 a) = true) ∧ (s 1).passes (.barInit 2 1) = true
    ∧ (s 2).barrierWaited (s 2).me.team 2 = false ∧ (∀ a ∈ [4, 5], (s 2).passes (.barExpect 2 a) = true) ∧ (s 2).passes (.barExpect 3 4) = true
    ∧ (∀ b ∈ [2, 3], (s 2).passes (.barArrive b) = true ∧ (s 2).passes (.barWait b) = true ∧ (s 2).passes (.barSync b) = true)
    ∧ (s 1).passes (.barSync 2) = true ∧ ((s 2).myTeam.barrier 2).left = 2 ∧ ((s 1).myTeam.barrier 2).left = 1 ∧ ((s 2).myTeam.barrier 3).exp = 0
    ∧ ((s 2).src (s 2).lowest [] 5).toNat = 65534 := by decide +kernel
/-- Pointers 0, 64 and 65; channel 1 runs. -/
theorem witness_CopyChannels : let s := (shared [0, 3] [(4, 64), (6, 65)]).modChan 32 1 fun c => { c with st := .run, work := .atRecord 64 }
    s.passes (.xcopy 0 8) = true ∧ s.passes (.xcopy 1 8) = true ∧ (s.chan s.myCluster 0).st ≠ .run ∧ (s.chan s.myCluster 0).holders = []
    ∧ (s.chan s.myCluster 1).st = .run ∧ (∀ a ∈ [2, 4, 6], s.passes (.xchain 0 a) = true) ∧ s.passes (.xchain 1 4) = true
    ∧ (s.chan s.myCluster 0).holders = [] ∧ s.handles = true
    ∧ [2, 4, 6].map (fun a => (s.src64 s.lowest a).toNat) = [0, 64, 65] := by decide +kernel
/-- Channel 0 of the cluster runs, with some work. -/
def running (w : ChanWork) : State :=
  (shared [0] []).modChan 32 0 fun c => { c with st := .run, work := w, space := { ctx := 1, asid := 1, root := 0x10000 } }

/-- A record with OWN = 0 at VA 0x100, a command with an address that is no multiple of 16, one whose units have moved, one whose share is gone, and a
record of 32 bytes from VA 0x200 to VA 0x300, at VA 0x100 with OWN = 1 and as a command. -/
theorem witness_TransferRecords : let run := running
    let s := run (.atRecord 0x100)
    (s.chan 32 0).st = .run ∧ (s.chan 32 0).work = .atRecord 0x100
    ∧ (match s.translate 2 (s.chan 32 0).space false false 0x100 with
      | (.ok (pa, e, _), r) => notControl e && decide (field (r.viewBytes 2 pa 64) 8 4 % 2 = 0) | (.error _, _) => false) = true
    ∧ (commandRec 8).check = some 2 ∧ ((run (.command (commandRec 8))).chan 32 0).work = .command (commandRec 8)
    ∧ (run (.moving none {} [])).unacknowledged 32 0 = false ∧ ((run (.moving none {} [])).chan 32 0).work = .moving none {} []
    ∧ ({} : XferRec).ctrl / 2 % 4 = 0 ∧ s.shareGone (s.chan 32 0) {} = false
    ∧ ({ s with teams := [] } : State).shareGone (s.chan 32 0) { cmd := 32 } = true
    ∧ (let m : XferRec := { ctrl := 1, src := 0x200, dst := 0x300, len := 32 }
      let own := { s with mem := s.mem ++ placed 0x2000100 (leBytes m.next 8 ++ leBytes m.ctrl 4 ++ leBytes m.cmd 4 ++ leBytes m.src 8 ++ leBytes m.dst 8 ++ leBytes m.len 4) }
      (match own.translate 2 (own.chan 32 0).space false false 0x100 with
        | (.ok (pa, e, _), r) => notControl e && decide (parseRec (r.viewBytes 2 pa 64) = m) | (.error _, _) => false) = true
      ∧ ({ m with src := 0x201 } : XferRec).check = some 2 ∧ ({ m with cmd := 256 } : XferRec).check = some 1
      ∧ (∀ x ∈ [(own, own.chan 32 0), (s, (run (.command m)).chan 32 0)], m.check = none ∧
        (match State.copyRange x.1 2 x.2 m.srcTarn false m.src m.len with
          | (.ok ms, z₁) => (match z₁.copyRange 2 x.2 m.dstTarn true m.dst m.dstLen with
            | (.ok md, z₂) => (z₂.copyPlace x.2 m.srcTarn ms m.src m.len).isSome && (z₂.copyPlace x.2 m.dstTarn md m.dst m.dstLen).isSome
            | (.error _, _) => false)
          | (.error _, _) => false) = true)) := by decide +kernel
/-- The gate of pair 0 stands in some state at reference count 1,000. -/
def gated (g : Gate) : State := { (shared [0, 3] []).setGate 32 0 g with ref := 1000 }

/-- Each state of the gate of pair 0 of the issuing wave's cluster, at reference counts where its condition has come to hold; a gate that has had the event
of a later place in this clk; a ramp that is stuck, and one that is late; and the wave of a geometry core. -/
theorem witness_GateTransitions : let s := gated
    (∀ st ∈ [GateState.on, .drain, .hold, .gated, .wakeq, .ramp], let x := s { st := st, since := 600, wakeAt := 100, qpos := 1 }
      let y := s { st := st, evRank := 9 }
      (x.gate 32 0).open_ x.clock 0 = true ∧ (x.gate 32 0).open_ x.clock 8 = true ∧ (y.gate 32 0).open_ y.clock 0 = false
      ∧ (y.gate 32 0).open_ y.clock 8 = false ∧ y.passes (.gateReq 0) = true ∧ y.passes (.gateWake 0) = true ∧ ((x.cluster 32).gates.map Prod.fst).Nodup ∧
      x.kindOf x.myDie ≠ .geometry ∧ x.myCluster = 32 ∧ x.passes (.gateReq 0) = true ∧ x.passes (.gateWake 0) = true ∧ x.passes (.gateStat 8 0) = true
      ∧ x.upCount 32 0 ≤ 16 ∧ (x.gate 32 0).st = st ∧ (x.gate 32 0).qpos < 16)
    ∧ (let x := s { st := .drain }
      x.upCount 32 0 = 0 ∧ x.upWork 32 0 = false)
    ∧ (let x := s { st := .hold, since := 600 }
      (x.gate 32 0).since + 400 ≤ x.ref)
    ∧ (let x := s { st := .wakeq, since := 600 }
      x.firstWaking 32 = some 0 ∧ ((x.cluster 32).gates.filter fun y => y.2.st == .ramp).length < 2)
    ∧ (let x := s { st := .ramp, since := 750, wakeAt := 100 }
      (x.gate 32 0).stuck = false ∧ (x.gate 32 0).since + 250 ≤ x.ref ∧ x.ref ≤ (x.gate 32 0).wakeAt + 900)
    ∧ (let x := s { st := .ramp, since := 750, wakeAt := 100, stuck := true }
      (x.gate 32 0).stuck = true ∧ (x.gate 32 0).wakeAt + 900 ≤ x.ref)
    ∧ (let x := s { st := .ramp, since := 750, wakeAt := 99 }
      (x.gate 32 0).wakeAt + 900 < x.ref)
    ∧ (let x := onGeometry (s {})
      x.kindOf x.myDie = .geometry ∧ x.handles = true ∧ (∀ i ∈ [Instr.gateReq 0, .gateWake 0, .gateStat 8 0], x.passes i = true))
    ∧ (let r : StatRead := { wave := 4096, uid := (s {}).me.uid, ps := [0, 3], code := 8, pair := 0 }
      let x := (s {}).modCluster 32 fun c => { c with statReads := [r] }
      (x.cluster 32).statReads = [r] ∧ (x.wave r.wave).uid = r.uid ∧ (x.waves.find r.wave).isSome = true ∧ 0 ∈ r.ps ∧ isW r.code = false
      ∧ regOk r.code = true ∧ 0 < (x.wave r.wave).threads.length) := by decide +kernel
/-- A reservation by the wave of the visited core, by one of another core, and by none; a wave denied for 256 clk; a wave outside the window; an island in each
mode at its time; a drain column and a switch of the clock that are due. -/
theorem witness_ClusterSteps : let s := { (shared [0] []).modCore 256 fun c => { c with drains := [(0, { wave := 4096, tile := 5, vals := [], start := 20000 })] } with
        clock := 20040 }
    let w := s.modWave 4096 fun x => { x with denied := some (20040 - 256, 20040, 6) }
    let nine := { s with waves := (List.range 9).map fun k =>
      (4096 + k, { s.me with admitted := k, inWindow := decide (k < 8), coldWait := decide (k = 3 ∨ k = 5) }) }
    let mine := (w.modCore 256 fun c => { c with reservation := some (4096, 0) })
    let other := (w.modCore 257 fun c => { c with reservation := some (4112, 0) })
    let out := s.modWave 4096 fun x => { x with inWindow := false }
    let near := s.modCluster 32 fun c => { c with islands := [(1, .near), (2, .switching 20040)] }
    let clk := { s with weir := { s.weir with switchAt := some 20040 } }
    s.isoShares 32 = [] ∧ (s.cluster 32).visited ≠ some s.clock ∧ 8 * 32 + s.clock % 8 = 256 ∧ s.unpowered 256 = false
    ∧ s.oldestReservation 32 = none ∧ mine.oldestReservation 32 = some (256, 4096, 0) ∧ (mine.wave 4096).denied = some (19784, 20040, 6)
    ∧ other.oldestReservation 32 = some (257, 4112, 0) ∧ (w.core 256).reservation = none ∧ w.longDenied 4096 = true ∧ 4096 ∈ w.wavesOf 256
    ∧ (∀ k ∈ w.wavesOf 256, k = 4096) ∧ (out.wave 4096).inWindow = false ∧ out.standsReady 4096 = true ∧ (out.wave 4096).yieldTo = []
    ∧ ((out.wavesOf 256).filter fun k => (out.wave k).inWindow).length < 8
    ∧ nine.wavesOf 256 = (List.range 9).map (· + 4096) ∧ (nine.wave 4104).inWindow = false ∧ nine.standsReady 4104 = true ∧ (nine.wave 4104).yieldTo = []
    ∧ 8 ≤ ((nine.wavesOf 256).filter fun k => (nine.wave k).inWindow).length ∧ (nine.wave 4101).inWindow = true ∧ (nine.wave 4101).coldWait = true
    ∧ (nine.wavesOf 256).filter (fun k => (nine.wave k).inWindow && (nine.wave k).coldWait) = [4099, 4101]
    ∧ nine.clock - (nine.wave 4101).admitted < nine.clock - (nine.wave 4099).admitted ∧ 20040 ≤ s.clock
    ∧ (near.cluster 32).islands.get .nominal 0 = .nominal ∧ (near.cluster 32).islandQuiet.get 0 0 + 16384 ≤ near.clock ∧ near.isoIsland 32 0 = false
    ∧ (near.cluster 32).islands.get .nominal 1 = .near ∧ (near.cluster 32).islands.get .nominal 2 = .switching 20040
    ∧ (s.core 256).drains.find 0 = some { wave := 4096, tile := 5, vals := [], start := 20000 } ∧ clk.weir.switchAt = some 20040 := by decide +kernel

/-- A push appends the members' values at their positions, and 0 elsewhere (R213). -/
theorem test_vfPush : after (exec (.vfPush 0 1) (owner [])) (fun t => (t.fifo 0).map fun e => (e.width, e.vals.take 4)) = some [(16, [9, 0, 0, 9])] := by decide +kernel
/-- BAR.SYNC with one arrival of two: its wave waits for the end of phase 0 (R190, R191). -/
theorem test_barSync : let t := shared [0] []
    after (exec (.barSync 2) (t.modTeam t.me.team fun x => { x with barriers := [(2, { exp := 2, left := 2 })] }))
      (fun t => ((t.myTeam.barrier 2).left, t.me.wait)) = some (1, some (.barrier 2 1)) := by decide +kernel

/-- Accesses to a frame that another die cannot give up yet: a load, a store, an atomic, LDC and MVS. -/
theorem witness_HeldByRegion : let s := contested 0x200 (mapped [3] [(1, 12), (2, 0x100)] [] fun w => { w with constBase := 0x100, clen := 16 })
    let m := contested 0x401 (shared (octetPositions 0) [(42, 0x4020000)])
    let at_ := Spot.stored 0x2000100
    (∀ i ∈ [Instr.ldW 8 2 0, .stW 8 2 0, .atomAdd 8 2 4, .atomaggAdd 8 2 4, .ldc 8 1 0], s.passes i = true) ∧ s.alone 3 = true
    ∧ (s.access formW false .read 0x100).1 = .ok at_ ∧ (s.access formW false .read 0x100).2.loadHeld 3 at_ none = true
    ∧ (s.access formW true .write 0x100).1 = .ok at_ ∧ ((s.access formW true .write 0x100).2.touchSpot 2 at_).cur.blocked = true
    ∧ (∀ op ∈ [0, 11], (s.atomicSpot op false 0x100).1 = .ok at_ ∧ ((s.atomicSpot op false 0x100).2.touchSpot 2 at_).cur.blocked = true
      ∧ (s.atomicSpot op false 0x100).2.spotPoison 2 4 at_ = none)
    ∧ (match s.translateRange s.myDie s.me.space (fun e => readable s.me.priv e && notControl e) 0x10C 4 (some s.myCore) with
      | (.ok l, q) => (match q.rangeRead (l.map fun y => (y.1, y.2.1, 0)) 0x10C 4 with
        | (.ok o, r) => o.isNone && r.cur.need.isNone | (.error _, _) => false)
      | (.error _, _) => false) = true
    ∧ m.passes (.mvs 5 1 42) = true ∧ (match (m.pay 3).weightSpot 0x4020000 with
      | (.ok (e, u, i), z) => (foldState (fun pa x => x.touchRgn m.myDie pa false) (unitsFor u e i 256) (z.meetAcc 5 [0])).cur.blocked
      | (.error _, _) => false) = true := by decide +kernel

/-! ### Tasks, streams and timelines -/

/-- The shared bench with W14 = `n`, and queue 5 of die 2 as some queue. -/
def spawning (n : Word) (v : Tab Word) (q : Queue := { en := true, ctx := 1, tseg := 0x2100000 }) : State :=
  (shared [0, 3] v fun w => { w with w := [(14, n)] }).modQueue 2 5 fun _ => q

/-- Queue 5 with room, with a full segment and an empty free list, and disabled; W14 = 5 and 4,096; addresses 0x80, poisoned in one state, 0x81, one of
an E4M3 page, and one of the host window. -/
theorem witness_Spawning : let s := spawning 5 [(2, 0x80), (4, 0x81), (6, 0x4020080), (8, 0x2000080)]
    let full := spawning 5 [(2, 0x80)] { en := true, ctx := 1, tseg := 0x2100000, tail := 31 }
    let off := spawning 5 [(2, 0x80)] {}
    let bad := { s with poison := [0x2000080 / 16] }
    let go (s : State) (va : Nat) (f : Nat → State → Option (List Byte) → Bool) : Bool :=
      match s.translate s.myDie s.me.space s.me.priv false va s.myCore with
      | (.ok (pa, e, _), z) => notControl e && (match z.rangeRead [(va, pa, e)] va 128 with | (.ok o, r) => f e r o | (.error _, _) => false)
      | (.error _, _) => false
    (spawning 4096 []).passes (.spawn 2) = true ∧ (spawning 4096 []).handles = true ∧ (s.me.w.get 0 14).toNat < 4096 ∧ s.handles = true
    ∧ s.passes (.spawn 4) = true ∧ s.passes (.gang 4) = true ∧ (s.src64 s.lowest 4).toNat % 128 ≠ 0
    ∧ s.passes (.spawn 2) = true ∧ (let q := s.queue s.myDie 5
      q.en = true ∧ q.hostq = false ∧ q.ctx = s.me.space.ctx)
    ∧ go s 0x80 (fun e r o => decide (pteFmt e = 0) && o.isSome && !r.cur.blocked && ((r.enqueue s.myDie 5 (zeros 128)).1).isSome
        && (List.range 128).all fun k => !r.seenPoison s.myDie e (0x2000080 + k)) = true
    ∧ s.passes (.spawn 6) = true ∧ go s 0x4020080 (fun e _ _ => pteFmt e != 0) = true
    ∧ s.passes (.spawn 8) = true ∧ go s 0x2000080 (fun _ r o => o.isNone && r.cur.need.isSome) = true
    ∧ (contested 0x200 s).passes (.spawn 2) = true ∧ go (contested 0x200 s) 0x80 (fun _ r o => o.isNone && r.cur.need.isNone) = true
    ∧ bad.passes (.spawn 2) = true ∧ go bad 0x80 (fun _ _ _ => true) = false
    ∧ full.passes (.gang 2) = true ∧ go full 0x80 (fun _ r o => o.isSome && ((r.enqueue full.myDie 5 (zeros 128)).1).isNone) = true
    ∧ off.passes (.spawn 2) = true ∧ (off.queue off.myDie 5).en = false := by decide +kernel
/-- Addresses 0x41 and 0x40 of a join counter, which is poisoned in one state; values with OV = 1 and a stencil, with OV = 0 and none, and with OV = 0 and a
stencil; and a task with a tile bit to set, also behind a store to another device. -/
theorem witness_TaskInstructions : let s := shared [0, 3] [(2, 0x41), (4, 0x40), (6, 0x80000FFF), (7, 0xFFF)]
    let aimed (x : State) : Option (Nat × Bool × Bool) := match x.joinTarget x.myDie x.me.space x.me.priv 0x40 x.myCore with
      | (.ok (pa, e), z) => let r := z.touchRgn x.myDie pa (pteRgn e)
        some (pa, (r.seenPoisonIn x.myDie e pa 32).isSome, r.cur.blocked)
      | (.error _, _) => none
    let tiled (x : State) : State := x.modLaunch x.me.launch fun l => { l with rcd := { l.rcd with tile := 0x80000000 } }
    s.passes (.join 2) = true ∧ (s.src64 s.lowest 2).toNat % 32 ≠ 0 ∧ s.handles = true
    ∧ s.passes (.join 4) = true ∧ aimed s = some (0x2000040, false, false) ∧ aimed { s with poison := [0x2000040 / 16] } = some (0x2000040, true, false)
    ∧ (tiled s).passes .tsbRet = true ∧ (tiled s).myLaunch.rcd.tsb = true ∧ (tiled s).myLaunch.tileRetired = false ∧ s.myLaunch.rcd.tsb = false
    ∧ s.heldBack s.myDie s.myAgents [] = false ∧ (tiled (jammed s)).passes .tsbRet = true ∧ (tiled (jammed s)).heldBack 2 s.myAgents [] = true
    ∧ s.passes (.tsbSet 6) = true ∧ s.passes (.tsbSet 8) = true ∧ s.passes (.tsbSet 7) = true ∧ s.src s.lowest [] 6 = 0x80000FFF
    ∧ s.src s.lowest [] 8 = 0 ∧ s.src s.lowest [] 7 = 0xFFF ∧ s.passes .tsbRet = true ∧ s.passes .done = true ∧ s.passes .pmask = true
    ∧ s.passes .punmask = true ∧ s.myLaunch.request = none := by decide +kernel

/-- Stream 7 of die 2, with a ring of 256 words at VA 0x1000, whose entry at 0x3000000 has EN. -/
def streaming (group : List Nat) (x : Stream) : State :=
  ({ shared group [(1, 9)] with mem := (shared group [(1, 9)]).mem ++ placed 0x30000EB [1] }.modStream 2 7 fun _ => x).modDie 2 fun d => { d with strmbase := 0x3000000 }

/-- A stream with no entry, with one, full, ended, of a producer that has ended, of another context, with a poisoned word, in host memory, whose word is there or
poisoned, and an SC put behind a store to another device; one whose EN a store has set, and such a store. -/
theorem witness_StreamInstructions : let x : Stream := { en := true, base := 0x1000, ctx := 1 }
    let s := streaming [3] x
    let one := streaming [3] { x with tail := 1 }
    let full := streaming [0, 3] { x with tail := 255 }
    let fin := streaming [3] { x with eos := [(9, 9)] }
    let shut := streaming [3] { x with eos := [(0, 0)] }
    let at_ := Spot.stored 0x2001000
    let out := Spot.outside (2 ^ 51)
    let away (s : State) : Option OutAccess := formW.outAccess (s.myAccess 0x2000000 0 0) out
    let put (s : State) : Bool := match (s.modStream 2 7 fun x => x.register s.producerKey).access formW true .write 0x1000 with
      | (.ok y, r) => decide (y = at_) && ((r.touchSpot 2 y).storeSpot formW 3 0x1000 [9] y).cur.blocked
      | (.error _, _) => true
    let got (s : State) : State := (s.access formW false .read 0x1000).2
    let bad := { one with poison := [0x2001000 / 16] }
    let host := streaming [3] { x with base := 0x2000000, tail := 1 }
    let answered (b : Option (List Byte)) : State := host.modWave 4096 fun w => { w with answers := [(2 ^ 51, b)] }
    let due := streaming [3] { x with due := true }
    let e : PendStore := { agent := 65, pa := 0x30000EB, data := [1] }
    (bad.access formW false .read 0x1000).1 = .ok at_ ∧ ((got bad).reached 3 at_).spotPoison 2 4 at_ ≠ none ∧ (got bad).loadHeld 3 at_ none = false
    ∧ bad.passes (.strmGet 1 7) = true ∧ bad.mayUseStream 7 = true
    ∧ (host.access formW false .read 0x2000000).1 = .ok out ∧ (away host).isSome = true ∧ host.loadHeld 3 out (away host) = false
    ∧ host.passes (.strmGet 1 7) = true ∧ host.mayUseStream 7 = true ∧ host.me.answers.find (2 ^ 51) = none
    ∧ (∀ b ∈ [none, some [1, 2, 3, 4]], (answered b).passes (.strmGet 1 7) = true ∧ (answered b).me.answers.find (2 ^ 51) = some b)
    ∧ put s = false ∧ (ordered 0 true (jammed s)).passes (.strmPut 7 1) = false
    ∧ (due.stream 2 7).due = true ∧ (s.stream 2 7).due = false ∧ e.covers (s.streamEntry 2 7 + 0x0B) = true
    ∧ (e.data.getD (s.streamEntry 2 7 + 0x0B - e.pa) 0).getLsbD 0 = true ∧
    s.mayUseStream 7 = true ∧ s.handles = true ∧ s.alone 3 = true ∧ (∀ i ∈ [Instr.strmPut 7 1, .strmGet 1 7, .strmEos 7], s.passes i = true)
    ∧ s.mayUseStream 8 = false ∧ (∀ i ∈ [Instr.strmPut 8 1, .strmGet 1 8, .strmEos 8], s.passes i = true)
    ∧ (s.stream 2 7).closedTo s.producerKey = false ∧ shut.mayUseStream 7 = true ∧ (shut.stream 2 7).closedTo shut.producerKey = true
    ∧ full.passes (.strmPut 7 1) = true ∧ full.mayUseStream 7 = true
    ∧ (full.stream 2 7).closedTo full.producerKey = false ∧ (full.stream 2 7).capacity < (full.stream 2 7).tail + full.cur.group.length
    ∧ one.mayUseStream 7 = true ∧ one.passes (.strmGet 1 7) = true ∧ (one.access formW false .read 0x1000).1 = .ok at_
    ∧ (got one).loadHeld 3 at_ none = false ∧ ((got one).reached 3 at_).spotPoison 2 4 at_ = none ∧ formW.outAccess (one.myAccess 0 0 0) at_ = none
    ∧ fin.mayUseStream 7 = true ∧ fin.passes (.strmGet 1 7) = true ∧ (fin.stream 2 7).ended = true ∧ (s.stream 2 7).ended = false
    ∧ bit (field (s.viewBytes 2 (s.streamEntry 2 7) 32) 0x0B 1) 0 = true := by decide +kernel
/-- Timeline 9 is context 1's and stands at 5; timeline 8 is nobody's. PREF of a page that is there, and of none. -/
theorem witness_Timelines : let s := (shared [0, 3] [(2, 5), (4, 6), (20, 0x100), (22, 64), (23, 1)]).modDie 2 fun x =>
      { x with timelines := [(9, 5)], tlOwner := [(9, 0x8001)], prefs := [{ ctx := 1, tl := 9, tlval := 7 }] }
    let range (a : Code) : List Nat := (granulesOf (fld (s.group s.lowest a 4) 0 64) (fld (s.group s.lowest a 4) 64 32)).filter (· < 2 ^ 57)
    s.ownsTimeline s.myDie 9 s.me.space.ctx = true ∧ s.ownsTimeline s.myDie 8 s.me.space.ctx = false ∧ s.handles = true
    ∧ s.passes (.tlSig 9 4) = true ∧ s.passes (.tlSig 8 4) = true ∧ s.passes (.tlWait 9 2) = true ∧ s.passes (.tlWait 9 4) = true
    ∧ (s.src64 s.lowest 2).toNat ≤ s.timeline s.myDie 9 ∧ s.timeline s.myDie 9 < (s.src64 s.lowest 4).toNat
    ∧ s.passes (.pref 9 20) = true ∧ s.passes (.pref 9 24) = true ∧ (s.anyPrefetched s.myDie s.me.space (some s.myCore) (range 20)).1 = true
    ∧ (s.anyPrefetched s.myDie s.me.space (some s.myCore) (range 24)).1 = false
    ∧ (s.die 2).prefs[0]? = some { ctx := 1, tl := 9, tlval := 7 } := by decide +kernel

/-! ### Die memory, semaphores and watch entries -/

/-- An invalidation, a fault that awaits its record, a store on its way and an old byte of die 2's view; a release; a store to another device; and one that
an earlier store keeps back. -/
theorem witness_DieMemorySteps : let f : PFault := { id := 1 }
    let e : PendStore := { agent := 65, pa := 0x100, data := [1, 2] }
    let r : PendStore := { agent := 65, pa := 0, data := [], rel := true }
    let s := State.reset.modDie 2 fun x => { x with
      invals := [.all], fqcfg := 0x80000040, faults := [f], pend := [e], stale := [{ pa := 0x200, ver := 1, val := 3 }] }
    let u := grouped (State.reset.store 2 { agent := 65, pa := 2 ^ 60 + 7 * 2 ^ 46, data := [1] })
    let x := s.die 2
    mayReachHome [{ e with rel := true }, e] 1 = false ∧ (State.reset.modDie 2 fun x => { x with pend := [r] }).die 2 = { State.reset.die 2 with pend := [r] }
    ∧ mayReachHome (u.die 2).pend 0 = true ∧ ((u.die 2).pend.all fun e => decide (2 ^ 51 ≤ e.pa) && u.lingers e && decide (e.out = some {}) && !u.awaited 2 e
        && !e.rel && e.redo.isNone) = true
    ∧ x.invals.length < 16 ∧ s.usedBy 2 .all = false ∧ x.fqEn = true ∧ x.fqtail - x.fqhead ≠ BitVec.ofNat 64 x.fqLen ∧ x.awaiting < 1024
    ∧ x.faults.find? (fun f => f.seq.isNone) = some f ∧ x.fqtail.toNat + 1 < 2 ^ 64 ∧ mayReachHome x.pend 0 = true ∧ e.rel = false ∧ e.sem = none
    ∧ e.poisoned = false ∧ e.pa + e.data.length ≤ 2 ^ 51 ∧ s.watches = [] ∧ x.stale.find? (fun y => y.pa == 0x200) = some { pa := 0x200, ver := 1, val := 3 } := by
  decide +kernel
/-- SWIN of 201,326,592 bytes (the limit), of one granule more, and of one granule; FREPLY of a record with number 0 that is outstanding and with a number
that is not; semaphores 1,023 and 1,024. -/
theorem witness_DieInstructions :
    let s := (shared [0, 3]
      [(2, 0x100), (4, 0x140), (5, 0), (8, 1023), (9, 1024), (10, 5), (11, 6), (16, 0), (18, 65536), (20, 0), (22, 201392128), (24, 0x2000100)] fun w => { w with priv := true }).modDie 2
        fun x => { x with faults := [{ id := 1, seq := some 0 }] }
    let u := { s with mem := s.mem ++ placed 0x2000160 [1], sems := [(1023, 5)] }
    let hit (va : Nat) : Option PFault := match (u.loadBytes (va + 0x20) 8) with
      | (.ok (some bs), r) => (r.die 2).faults.find? fun f => f.seq == some (leNat bs)
      | (.ok none, _) | (.error _, _) => none
    let t := match u.loadBytes 0x120 8 with | (_, r) => r.reply 2 0 { id := 1, seq := some 0 }
    let asks (u : State) (va : Nat) (need : Bool) : Bool := match u.loadBytes (va + 0x20) 8 with
      | (.ok none, r) => r.cur.need.isSome == need | (.ok (some _), _) | (.error _, _) => false
    (contested 0x200 u).passes (.freply 0 2) = true ∧ asks (contested 0x200 u) 0x100 false = true ∧ u.passes (.freply 0 24) = true
    ∧ asks u 0x2000100 true = true ∧ u.passes (.cclr 2) = true ∧ u.passes (.swin 16) = true ∧ u.passes (.swin 20) = true ∧ u.handles = true
    ∧ (u.group u.lowest 16 4) = 65536 * 2 ^ 64 ∧ (u.group u.lowest 20 4) = 201392128 * 2 ^ 64 ∧ 201326592 < 201392128
    ∧ (List.all [(0, true), (0x4000000, false)] fun y => match (u.leavesOf 2 u.me.space (some u.myCore) (granulesOf y.1 65536)).1 with
      | .ok m => m.all (fun z => windowAllows u.me.priv z.2.1) == y.2
      | .error _ => false)
    ∧ u.passes (.freply 0 2) = true ∧ u.passes (.freply 0 4) = true ∧ isOk (u.loadBytes 0x120 8).1 = true ∧ isOk (u.loadBytes 0x160 8).1 = true
    ∧ hit 0x100 = some { id := 1, seq := some 0 } ∧ hit 0x140 = none ∧ t.issuing = true ∧ t.cur = u.cur
    ∧ u.semCount = 1024 ∧ (u.src u.lowest [] 8).toNat = 1023 ∧ (u.src u.lowest [] 9).toNat = 1024 ∧ u.passes (.xsemSig 9 10) = true
    ∧ u.passes (.xsemWait 9 10) = true ∧ u.passes (.xsemSig 8 10) = true ∧ u.passes (.xsemWait 8 10) = true ∧ u.passes (.xsemWait 8 11) = true
    ∧ (u.src u.lowest [8] 10).toNat ≤ (u.semaphore 1023).toNat ∧ (u.semaphore 1023).toNat < (u.src u.lowest [8] 11).toNat := by decide +kernel
theorem witness_SemaphoreSignals : ∃ j k : Nat, j ≠ k := ⟨0, 1, by decide⟩

/-- A watch descriptor at VA 0x200: 64 bytes at VA 0x1000, queue 5 of die 2, a hold-off of 10,000, a budget of 1 and 64 lanes. -/
def watching (v : Tab Word) (w : Tab Watch) : State :=
  { (shared [0, 3] v).modQueue 2 5 fun _ => { en := true, ctx := 1 } with
    mem := (shared [0, 3] v).mem ++ placed 0x2000200
      (leBytes 0x1000 8 ++ leBytes 64 4 ++ leBytes 5 2 ++ [2, 0] ++ zeros 16 ++ leBytes 10000 2 ++ leBytes 1 2 ++ leBytes 64 2),
    watches := w }

theorem find_upFrom {α : Type} (x : α) (n m k : Nat) (h : n ≤ k) (h' : k < n + m) : Tab.find ((upFrom n m).map fun j => (j, x)) k = some x := by
  induction m generalizing n with
  | zero => omega
  | succ m ih =>
    simp only [upFrom, List.map_cons, Tab.find]
    split
    · rfl
    · exact ih (n + 1) (by omega) (by omega)

/-- What WATCH.ARM asks of a state, but for a free entry. -/
def armable (s : State) : Bool :=
  match s.watchDescriptor 0x200 with
  | (.ok (some b), r) => !r.cur.blocked && watchFieldsOk b (parseWatch b) && match r.watchedRun (parseWatch b) with
    | (.ok pa, u) => decide (pa = 0x2001000) && u.watchQueueOk (parseWatch b)
    | (.error _, _) => false
  | (.ok none, _) | (.error _, _) => false

/-- No entry but entry 3, also behind a store that cannot be delivered; its hold-off ends at 0 and its interval at 10,000. -/
theorem witness_WatchEntries : let s := watching [(2, 0x200), (4, 3), (5, 4), (6, 1024), (8, 0x2000200)] [(3, { armed := true, space := { ctx := 1 }, holdoff := some 0 })]
    let u := { s with ref := 10000 }
    let asks (s : State) (va : Nat) (need : Bool) : Bool := match s.watchDescriptor va with
      | (.ok none, r) => r.cur.need.isSome == need | (.ok (some _), _) | (.error _, _) => false
    (contested 0x200 s).passes (.watchArm 8 2) = true ∧ asks (contested 0x200 s) 0x200 false = true
    ∧ s.passes (.watchArm 8 8) = true ∧ (s.src64 s.lowest 8).toNat = 0x2000200 ∧ asks s 0x2000200 true = true ∧
    (jammed s).passes (.watchArm 8 2) = true ∧ armable (jammed s) = true ∧ (jammed s).canFlush s.myDie = false ∧ (jammed s).passes (.watchOff 4) = true
    ∧ s.canFlush s.myDie = true ∧ (∀ n, n < 0 → s.watches.find n ≠ none) ∧
    s.passes (.watchArm 8 2) = true ∧ armable s = true ∧ s.watches.find 0 = none ∧ s.passes (.watchOff 4) = true ∧ s.watchRefused (s.src s.lowest [] 4) = false
    ∧ s.watches.find 3 ≠ none ∧ s.passes (.watchOff 5) = true ∧ s.watchRefused (s.src s.lowest [] 5) = false ∧ s.watches.find 4 = none
    ∧ s.passes (.watchOff 6) = true ∧ s.watchRefused (s.src s.lowest [] 6) = true ∧ s.handles = true
    ∧ (∀ a ∈ [4, 5, 6], s.passes (.watchStat 8 a) = true) ∧ (s.watch 3).holdoff = some 0 ∧ 0 ≤ s.ref ∧ (s.watch 3).armed = true
    ∧ (s.ref - (s.watch 3).armedAt) / 10000 = (s.watch 3).interval ∧ (u.ref - (u.watch 3).armedAt) / 10000 ≠ (u.watch 3).interval := by decide +kernel
/-- All 1,024 entries in use. -/
theorem witness_WatchEntries_full : let s := watching [(2, 0x200)] ((upFrom 0 1024).map fun j => (j, {}))
    s.passes (.watchArm 8 2) = true ∧ armable s = true ∧ ∀ n, n < 1024 → s.watches.find n ≠ none := by
  refine ⟨by decide +kernel, by decide +kernel, fun n hn => ?_⟩
  have := find_upFrom ({} : Watch) 0 1024 n (Nat.zero_le _) (by omega)
  simp [watching, this]

/-- R361: a signal of −5 on a semaphore at 3 leaves 0. -/
theorem test_semaphore : (({ State.reset with sems := [(7, 3)] } : State).signalSem 7 0xFFFFFFFB).semaphore 7 = 0 := by decide +kernel

/-! ### Codec tiles, rays and the builder -/

/-- The shared bench with a surface of 256 tiles at 0x4000000, whose modes stand at 0x5000000, and a frame of the issuing die. -/
def surfaced (v : Tab Word) (g : Gfx := {}) : State :=
  { (shared [3] v).modDie 2 fun x => { x with gfx := g } with
    surfaces := [(16 * (shared [3] v).homeOf 0x4000000, { base := 0x4000001, ntile := 256, pmeta := 0x5000000 })] }

/-- Descriptors of two tiles, of none, with a reserved word and of a misaligned range; addresses inside and outside the surface; region 0 of a frame of one
region without a frame, finished, unfinished and not owned, and region 1. -/
theorem witness_CodecTiles : let v : Tab Word :=
      [(20, 0x4010000), (22, 512), (24, 0x4010000), (28, 0x4010000), (31, 1), (32, 0x4010004), (4, 0x4010000), (6, 0x100), (9, 1)]
    let s := surfaced v
    let fin := surfaced v { st := .done, owned := [0] }
    let run := surfaced v { st := .run, owned := [0] }
    let bare := surfaced v { st := .run }
    let done := surfaced v { st := .run, owned := [0], requested := [0] }
    let finished (x : State) : Bool := x.regionDone 2 0 && (x.die 2).gfx.requested.contains 0 && !x.heldRecs.any fun y => y.die == 2 && y.region == some 0
    let rgn (len : Nat) := s.translateRange 2 s.me.space (fun e => writable s.me.priv e && pteRgn e && !pteDev e) 0x4010000 len (some s.myCore)
    let look (va : Nat) : Option (Bool × Option Nat) := match s.translate 2 s.me.space s.me.priv false va s.myCore with
      | (.ok (pa, e, _), q) => some (pteDev e || controlFrame e || q.poisonedAt 2 pa, (q.surfaceAt pa).map Prod.snd)
      | (.error _, _) => none
    s.myDie = 2 ∧ s.handles = true ∧ s.alone 3 = true ∧ s.canFlush 2 = true ∧ (jammed s).canFlush 2 = false
    ∧ (jammed s).passes (.cmpClear 20) = true ∧ (jammed s).passes (.cmpDecomp 20) = true
    ∧ (∀ a ∈ [20, 24, 28, 32], s.passes (.cmpClear a) = true ∧ s.passes (.cmpDecomp a) = true)
    ∧ [20, 24, 28, 32].map (fun a => (fld (s.group s.lowest a 4) 0 64, fld (s.group s.lowest a 4) 64 32, fld (s.group s.lowest a 4) 96 32))
      = [(0x4010000, 512, 0), (0x4010000, 0, 0), (0x4010000, 0, 1), (0x4010004, 0, 0)]
    ∧ isOk (rgn 512).1 = true ∧ isOk (rgn 0).1 = true
    ∧ (match rgn 512 with | (.ok m, q) => (List.range 2).all fun k => (q.surfaceAt (rangePa m (0x4010000 + 256 * k))).isSome | (.error _, _) => false) = true
    ∧ (s.surfaceAt 0x4000000).isSome = true ∧ s.watches = [] ∧ s.rgnOwner.find (0x4000000 / 65536) = none ∧ (s.die 2).pend = []
    ∧ s.passes (.cmpStat 8 4) = true ∧ look 0x4010000 = some (false, some 0) ∧ s.regionOf 0x4000000 = .device
    ∧ s.passes (.cmpStat 8 6) = true ∧ look 0x100 = some (false, none)
    ∧ s.kindOf 2 ≠ .geometry ∧ s.currentFrame 2 = none
    ∧ (∀ x ∈ [s, fin, run, bare], x.handles = true ∧ x.passes (.rgnWait 8) = true) ∧ run.passes (.rgnWait 9) = true ∧ (run.src run.lowest [] 9).toNat = 1
    ∧ (fin.currentFrame 2).map Gfx.st = some .done ∧ (run.currentFrame 2).map (fun f => (f.desc.regions, f.owned)) = some (1, [0])
    ∧ (bare.currentFrame 2).map Gfx.owned = some [] ∧ (run.src run.lowest [] 8).toNat = 0
    ∧ finished run = false ∧ finished done = true ∧ done.passes (.rgnWait 8) = true := by decide +kernel

/-- Two tiles, of which both or the first lie in a surface; behind a store of the thread to another device; and on a frame that another die holds. -/
theorem witness_CodecTiles_rewriting : let v : Tab Word := [(20, 0x4010000), (22, 512), (24, 0x4010000), (26, 100)]
    let s := surfaced v
    let one := { s with surfaces := [(16 * s.homeOf 0x4000000, { base := 0x4000001, ntile := 1, pmeta := 0x5000000 })] }
    let go (x : State) : Option (List Bool × Bool × Bool) :=
      match x.translateRange 2 x.me.space (fun e => writable x.me.priv e && pteRgn e && !pteDev e) 0x4010000 512 (some x.myCore) with
      | (.ok m, q) =>
        let tiles := (List.range 2).map fun k => rangePa m (0x4010000 + 256 * k)
        let u := (foldState (fun pa z => z.rewriteByCmp 2 (agentOf x.me.uid x.lowest) true pa) tiles (q.flushBefore 2 x.myAgents [])).releaseSys 2
        some (tiles.map fun pa => (q.surfaceAt pa).isSome, q.heldBack 2 x.myAgents (tiles.map fun pa => (pa, 256)), u.cur.blocked)
      | (.error _, _) => none
    (∀ x ∈ [s, one, jammed s, contested 0x400 s], x.passes (.cmpClear 20) = true ∧ x.passes (.cmpDecomp 20) = true ∧ x.handles = true)
    ∧ s.passes (.cmpClear 24) = true ∧ fld (s.group s.lowest 24 4) 64 32 = 100 ∧ fld (s.group s.lowest 24 4) 96 32 = 0
    ∧ [s, one, jammed s, contested 0x400 s].map go
      = [some ([true, true], false, false), some ([true, false], false, false), some ([true, true], true, false), some ([true, true], false, true)] := by
  decide +kernel

/-- A thread with GENS 5 whose task holds a pin of generation 5 on the header at VA 0x400; a ray state at VA 0x200 that names it; and some queries. -/
def raying (v : Tab Word) (q : Tab Query := []) (priv : Bool := false) : State :=
  let s := shared [3] v fun w => { w with priv := priv }
  let t := s.modDie 2 fun x => { x with pins := [{ id := 7, launch := s.me.launch, hdr := 0x2000400, gen := 5, count := 1 }] }
  { t.modThread 4096 3 fun x => { x with gens := 5 } with mem := s.mem ++ placed 0x2000220 (leBytes 0x400 8) ++ placed 0x2000400 (leBytes 5 4), queries := q }

/-- Queries that walk to a miss, that walk to a page that is not there, and that have a hit. -/
def queries (uid : Nat) : Tab Query :=
  let q : Query := { handle := 0x80000001, cl := 32, uid := uid, pos := 3, miss := true }
  [(40, q),
   (41, { q with handle := 0x80000002, miss := false, rs := { org := [0, 0, 0], dir := [0x3F800000, 0, 0] }, root := 0x40000000, space := { ctx := 1, asid := 1, root := 0x10000 } }),
   (42, { q with handle := 0x80000003, st := .ready 1 2 3 4 })]

theorem witness_RayQueries : let v : Tab Word := [(2, 0x200), (4, 0x80000001), (5, 0x80000003), (6, 9)]
    let s := raying v
    let u := raying v (queries s.me.uid)
    let ends (n : Nat) : Option WalkEnd := (u.queries.find n).map fun q => (u.walkOf q).1
    let many : Tab Query := (List.range 2048).map fun k => (k, { handle := 0, cl := 32, uid := 0, pos := 0 })
    (raying v many).passes (.rayGo 8 2) = true ∧ (raying v many).rayRoom 32 1 = false ∧ (raying v many).alone 3 = true ∧
    s.alone 3 = true ∧ s.passes (.rayGo 8 2) = true ∧ s.cannotPay 2 = false ∧ s.rayRoom s.myCluster 1 = true ∧ isW 8 = false
    ∧ (match (s.pay 2).translate s.myDie s.me.space s.me.priv true 0x200 s.myCore with
      | (.ok (pa, e, _), r) => !pteRgn e && r.regionOf pa == .device && pteFmt e == 0 && match r.translate s.myDie s.me.space s.me.priv false
            (field (r.viewBytes s.myDie pa 64) 0x20 8 % 2 ^ 57) s.myCore with
        | (.ok (hdr, _, _), r') => r'.pinOf s.myDie s.me.launch hdr (s.me.thread 3).gens == some { id := 7, launch := s.me.launch, hdr := 0x2000400, gen := 5, count := 1 }
        | (.error _, _) => false
      | (.error _, _) => false) = true
    ∧ u.alone 3 = true ∧ u.handles = true ∧ u.queryOf u.me.uid 3 (u.src 3 [] 6) = none ∧ (∀ a ∈ [4, 5, 6], u.passes (.rayGet 8 a) = true ∧ u.passes (.rayPoll 2 a) = true)
    ∧ [4, 5].map (fun a => (u.queryOf u.me.uid 3 (u.src 3 [] a)).map fun x => (x.1, x.2.st)) = [some (40, .walking), some (42, .ready 1 2 3 4)]
    ∧ ends 40 = some (.hit none) ∧ ends 41 = some (.failed .prot 0x40000000) := by decide +kernel
/-- Headers at VA 0x400 with generation 5, at VA 0x600 with none, and at a misaligned address; V10 = 5 names the pin that the task holds. -/
theorem witness_Pins : let s := raying [(2, 0x400), (4, 0x600), (6, 0x401), (10, 5)]
    let looked (va : Nat) : Option (Nat × Option Nat × Nat) := match s.headerAt va with
      | (.ok hdr, r) => some (hdr, r.poisonIn s.myDie hdr 4, (r.acquireSys s.myDie).viewNat s.myDie hdr 4)
      | (.error _, _) => none
    s.handles = true ∧ (∀ a ∈ [2, 4, 6], s.passes (.genPin 8 a) = true ∧ s.passes (.genUnpin 10 a) = true) ∧ (s.src64 s.lowest 6).toNat % 512 ≠ 0
    ∧ looked 0x400 = some (0x2000400, none, 5) ∧ looked 0x600 = some (0x2000600, none, 0) ∧ (s.die 2).pins.length < 4096
    ∧ (s.pinOf 2 s.me.launch 0x2000400 (s.src s.lowest [] 10)).isSome = true ∧ s.pinOf 2 s.me.launch 0x2000600 (s.src s.lowest [] 10) = none := by decide +kernel

/-- A build descriptor at VA 0x100 whose header is at VA 0x400, over a pool of 64 KiB at VA 0x100000 and R336's four records at VA 0x800; the
descriptor's bytes. -/
def descBytes : List Byte := leBytes 0x400 8 ++ leBytes 0x800 8 ++ leBytes 4 4 ++ zeros 4 ++ leBytes 0x100000 8 ++ leBytes 65536 8 ++ zeros 24

/-- The shared bench of a privileged task with that descriptor, a node-format image at VA 0x600, and builder state of die 2. -/
def building (v : Tab Word) (jobs : List Job) (running : Option Job := none) : State :=
  let s := (shared [0, 3] v fun w => { w with priv := true }).modDie 2 fun x => { x with jobs := jobs, running := running }
  { s with
    mem := s.mem ++ placed 0x2000100 descBytes ++ placed 0x2000600 ((List.range 4).flatMap fun _ => [0, 0, 4] ++ zeros 5)
      ++ placed 0x2000800 ((knownRecords 0x40A00000).flatMap Prod.snd)
    structs := [(0x2000400, { die := 2, pool := 0x100000, poolLen := 65536 })] }

theorem witness_BuilderInstructions : let v : Tab Word := [(2, 0x100), (4, 0x600), (6, 0x400)]
    let s := building v []
    let full := building v (List.replicate 64 { kind := .build })
    let g := onGeometry s
    let ops (a : Code) : List Instr := [.bldBuild a, .bldRefit a, .bldRebal a, .bldBuildNft a]
    g.kindOf g.myDie = .geometry ∧ g.handles = true ∧ (∀ i ∈ ops 2, g.passes i = true) ∧ s.kindOf s.myDie ≠ .geometry
    ∧ (∀ i ∈ ops 2, full.passes i = true) ∧ 64 ≤ (full.die full.myDie).jobs.length ∧ s.cannotPay 2 = false ∧ (s.die s.myDie).jobs.length < 64
    ∧ (∀ i ∈ ops 2, s.passes i = true) ∧ s.passes (.bldBuildNft 4) = true
    ∧ (match (s.pay 2).structBytes false 0x100 64 with
      | (.ok pa, r) => pa == 0x2000100 && (parseDesc (r.viewBytes 2 pa 64)).hdr == 0x400 && isOk (r.structBytes true 0x400 512).1
      | (.error _, _) => false) = true
    ∧ (∀ i ∈ [Instr.bldStat 8 6, .bldQual 8 6], g.passes i = true)
    ∧ (match (s.pay 2).translate 2 s.me.space s.me.priv false 0x600 s.myCore with
      | (.ok (pa, e, _), r) => structurePage s.me.priv e && notControl e && r.regionOf pa == .device
      | (.error _, _) => false) = true
    ∧ s.passes (.bldStat 8 6) = true ∧ s.passes (.bldQual 8 6) = true ∧ isOk ((s.pay 2).structBytes false 0x400 512).1 = true := by decide +kernel

/-- The job of that descriptor, for which R338 gives the blocks. -/
def theJob : Job := { kind := .build, desc := parseDesc descBytes, descVa := 0x100, hdrPa := 0x2000400, space := { ctx := 1, asid := 1, root := 0x10000 } }

/-- What the premises of the publish ask of a running job, its records and a plan; the flag says whether every block is to be kept. -/
def publishable (s : State) (j : Job) (recs : Tab (List Byte)) (plan : List PlanBlock) (keeps : Bool) : Bool :=
  let f := s.jobFmt 2 j
  (s.die 2).running == some j && !s.headerMarked 2 j && !s.liveFull 2 j.hdrPa && s.canFlush 2 && s.watches == []
    && (match (s.jobRecords 2 j).1 with | .ok r => r == recs | .error _ => false)
    && !degenerate f.test recs && s.keepsAll 2 j (s.structs.get {} j.hdrPa) recs == keeps
    && if keeps then (s.structs.get {} j.hdrPa).plan == plan else
      match s.placement 2 j recs, (s.jobRecords 2 j).2.blockRanges 2 j plan with
      | some (b, p), (some m, _) => p == plan && treeAllowed j (s.poolFor j.hdrPa b) f recs plan && (s.poolFor j.hdrPa b).placeable plan
          && plan.all fun b => [0, 1].all fun k => !rangesMeet (rangePa m (j.desc.pool + (b.off + 128 * k))) 128 j.hdrPa 512
      | _, _ => false

/-- A free builder with that job queued, and with one whose pool is too small; jobs that have found a code; a node-format job; and a job with its plan. -/
theorem witness_BuilderSteps : let s := building [] [theJob]
    let nft : Job := { theJob with kind := .nft, hdrPa := 0x2000600 }
    let u := building [] [] (some nft)
    (s.die 2).running = none ∧ (s.die 2).jobs = [theJob] ∧ theJob.desc.bad .build = false ∧ ({} : BuildDesc).bad .build = true
    ∧ 3 ∈ s.jobCodes 2 { theJob with code := some 3 } ∧ s.jobCodes 2 { nft with hdrPa := 0x2000400 } = [3]
    ∧ (u.die 2).running = some nft ∧ u.poisonIn 2 0x2000600 32 = none ∧ (parseNft (u.viewBytes 2 0x2000600 32)).isSome = true
    ∧ publishable (building [] [] (some theJob)) theJob (knownRecords 0x40A00000) (knownPlan 0) false = true := by decide +kernel

/-- A record with every coordinate 0, the plan with one leaf for it, and a refit of it. -/
def flatRecord : List Byte := zeros 0x24 ++ leBytes 0 4 ++ zeros 8
def flatPlan : List PlanBlock := [⟨0, false, [1, 0, 0, 0], 0⟩, ⟨0x80, true, [0], 0⟩]
def theRefit : Job := { theJob with kind := .refit, desc := { theJob.desc with prim := 0xC00, nprim := 1 } }

/-- The structure whose current generation has that record, and the refit running. -/
def refitting : State :=
  let s := building [] [] (some theRefit)
  { s with
    structs := [(0x2000400, { die := 2, pool := 0x100000, poolLen := 65536, plan := flatPlan, blocks := flatPlan.map fun b => ⟨b.off, b.size, 1, none⟩ })]
    mem := s.mem ++ placed 0x2100080 (leafImage flatPlan [(0, flatRecord)] 1 ⟨0x80, true, [0], 0⟩) }

theorem witness_BuilderSteps_again : publishable refitting theRefit [(0, flatRecord)] flatPlan true = true := by decide +kernel

/-- R293, R294: a refit that changes no block makes the next generation current, and NPRIM is 1. -/
theorem test_publish : after (execBuilderPublish 2 flatPlan refitting) (fun t => (t.viewNat 2 0x2000400 4, t.viewNat 2 0x2000420 4)) = some (1, 1) := by
  decide +kernel

/-- R288, R338: the root has CHILD0 +1, CHILD1 +3, KIND 0x03 and BORN 1, and L1 starts with its parent's offset, -3. -/
theorem test_planImages : let recs := knownRecords 0x40A00000
    let img (k : Nat) := ((planImages (knownPlan 0) recs (planBoxes 0 recs 0 (knownPlan 0)) 1).getD k (0, [])).2
    [(0x60, 4), (0x64, 4), (0x74, 1), (0x78, 4)].map (fun x => field (img 0) x.1 x.2) = [1, 3, 3, 1] := by decide +kernel

/-! ### The graphics pipeline -/

/-- Descriptors of MV.EMIT on die 0: legal ones for numbers 0, 1, 64 and 8,192, one with reserved bits, a misaligned one, and records in
the host window and on the RGN page. -/
def emitting (g : Gfx) : State :=
  onGeometry ((shared [3] [(4, 0x1000), (8, 0x1000), (10, 1), (12, 0x1000), (14, 64), (16, 0x1000), (18, 8192), (20, 0x1000), (23, 0x80), (24, 0x1001),
    (28, 0x2000000), (32, 0x4010000)]).modDie 0
    fun x => { x with gfx := g })

/-- A frame of die 0 that has accepted number 1, and what a record's range, its owner and its place are. -/
def emitFrame : Gfx := { st := .run, desc := { nseq := 8200 }, accepted := [1], cursor := 0 }
def emitLook (s : State) (a : Code) : Option (Nat × Bool × Nat) :=
  let op := s.group s.lowest a 4
  match s.translateRange 0 s.me.space (fun _ => true) (fld op 0 64) 1536 with
  | (.ok m, r) => some (fld op 64 32, r.ownsSeq 0 emitFrame.desc (fld op 64 32)
      && (m.find? fun x => !readable s.me.priv x.2.2 || pteDev x.2.2 || controlFrame x.2.2).isNone, r.seqPos 0 emitFrame.desc (fld op 64 32))
  | (.error _, _) => none

theorem witness_Emission : let s := emitting emitFrame
    let bare := emitting {}
    let off := shared [3] [(4, 0x1000)]
    let op (a : Code) := s.group s.lowest a 4
    off.kindOf off.myDie ≠ .geometry ∧ off.handles = true ∧ off.passes (.mvEmit 4) = true ∧ off.passes .mvEnd = true
    ∧ s.myDie = 0 ∧ s.kindOf 0 = .geometry ∧ s.passes .mvEnd = true ∧ bare.passes .mvEnd = true ∧ bare.handles = true ∧ bare.currentFrame 0 = none
    ∧ bare.passes (.mvEmit 4) = true ∧ s.currentFrame 0 = some emitFrame ∧ s.handles = true ∧ (∀ a ∈ [4, 8, 12, 16, 20, 24, 28], s.passes (.mvEmit a) = true)
    ∧ (∀ a ∈ [4, 8, 12, 16, 24, 28, 32], fld (op a) 117 11 = 0 ∧ fld (op a) 110 2 = 0 ∧ bit (op a) 103 = false) ∧ bit (op 20) 103 = true
    ∧ fld (op 24) 0 64 % 256 ≠ 0 := by
  decide +kernel

/-- Numbers owned, not owned and too far ahead; and a record at hand, in the host window, and on an RGN page that another die holds. -/
theorem witness_Emission_records : let s := emitting emitFrame
    let torn := contested 0x400 s
    let got (u : State) (a : Code) : Option (Bool × Bool) :=
      let r := (u.translateRange 0 u.me.space (fun _ => true) (fld (u.group u.lowest a 4) 0 64) 1536).2
      match r.loadBytes (fld (u.group u.lowest a 4) 0 64) 1536 with
      | (.ok b, z) => some (b.isSome, z.cur.need.isSome)
      | (.error _, _) => none
    [4, 8, 12, 16, 28, 32].map (emitLook s)
      = [some (0, true, 0), some (1, true, 1), some (64, false, 64), some (8192, true, 4096), some (0, true, 0), some (0, true, 0)]
    ∧ s.seqPos 0 emitFrame.desc 0 = 0 ∧ got s 4 = some (true, false) ∧ got s 28 = some (false, true)
    ∧ torn.passes (.mvEmit 32) = true ∧ (torn.currentFrame 0).isSome = true ∧ got torn 32 = some (false, false) := by decide +kernel

/-- A frame of die 2 over an atlas of 2 blocks at VA 0x700, or elsewhere, whose states at VA 0x600 are both shaded, or all empty. -/
def shading (v : Tab Word) (st : List Byte) (astate : Nat := 0x600) (atlas : Nat := 0x700) : State :=
  let s := (shared [3] v).modDie 2 fun x => { x with gfx :=
    { st := .run, space := { ctx := 1, asid := 1, root := 0x10000 }, desc := { id := 6, nseq := 1, abw := 2, astate := astate, atlas := atlas } } }
  { s with mem := s.mem ++ placed 0x2000600 st }

/-- Requests for block 1, of another frame and of block 2; a full and a free pipe; states or texels on an RGN page that another die holds; and coordinates
1, 1 and NaN. -/
theorem witness_AtlasInstructions : let v : Tab Word := [(4, 1), (5, 6), (6, 1), (7, 9), (8, 2), (9, 6), (10, 0x3F800000), (11, 0x3F800000), (12, 0x7FC00000)]
    let s := shading v []
    let u := shading v [0xA]
    let g := (u.die 2).gfx
    let taps := (tapsOf g.desc 1 1).1
    let me := agentOf s.me.uid 3
    let torn := contested 0x400 (shading v [] 0x4010000)
    let texel := contested 0x400 (shading v [0xA] 0x600 0x4010000)
    let request (x : State) : Option (Bool × Bool) := match x.blockFor 1 with
      | (.ok (pa, e), r) => some (r.canFlush 2, (r.requestBlock 2 me pa e 1).2.cur.blocked)
      | (.error _, _) => none
    let done (x : State) : Option (Bool × Bool) := match x.blockFor 1 with
      | (.ok (pa, e), r) => some (r.heldBack 2 x.myAgents [spanOf pa (pteRgn e) 4], (r.changeBlock 2 me pa e 1 fun k => if k = 3 then none else some 2).2.cur.blocked)
      | (.error _, _) => none
    let fetch (x : State) : Option Bool := match (x.acquireSys 2).texels x.me.space (taps.map (x.die 2).gfx.desc.texelVa) with
      | (.ok _, r) => if (x.requestAll 2 me (taps.map g.desc.blockOf)).1 then some r.cur.blocked else none
      | (.error _, _) => none
    (∀ x ∈ [s, jammed s, torn], x.alone 3 = true ∧ (x.currentFrame 2).isSome = true ∧ x.passes (.atlReq 16 4) = true ∧ x.passes (.atlDone 4) = true)
    ∧ s.handles = true ∧ (∀ a ∈ [6, 8], s.passes (.atlReq 16 a) = true)
    ∧ [4, 6, 8].map (fun a => (fld (s.src64 3 a).toNat 0 32, fld (s.src64 3 a).toNat 32 32)) = [(1, 6), (1, 9), (2, 6)] ∧ (s.die 2).gfx.desc.blocks = 2
    ∧ [s, torn, jammed s].map request = [some (true, false), some (true, true), some (false, false)]
    ∧ [s, torn, jammed s].map done = [some (false, false), some (false, true), some (true, false)]
    ∧ s.passes (.atlDone 8) = true ∧ (s.src 3 [] 4).toNat = 1 ∧ (s.src 3 [] 8).toNat = 2
    ∧ u.passes (.atlSmp 16 12) = true ∧ exactOf ((u.src64 3 12).toNat % 2 ^ 32) = none
    ∧ exactOf 0x3F800000 = some 1 ∧ (u.src64 3 10).toNat = 0x3F8000003F800000
    ∧ (∀ x ∈ [u, texel, s], x.passes (.atlSmp 16 10) = true ∧ (x.currentFrame 2).isSome = true ∧ ∀ b ∈ taps, (x.blockFor (g.desc.blockOf b)).1.toOption.isSome = true)
    ∧ fetch u = some false ∧ fetch texel = some true ∧ (s.requestAll 2 me (taps.map g.desc.blockOf)).1 = false := by
  decide +kernel

/-- A GFXFRAME value with bit 0; a geometry die in a frame; a shading die of the same frame; a region with a packet of no triangle, and with one whose
triangle covers the one sample of the viewport; and a die of no region, whose frame is consumed. -/
theorem witness_FrameSteps : let s := State.reset
    let p : GPacket := { src := 0, frame := (0, 0), seq := 0, qen := false, query := 0, verts := [], tris := [], regions := [0], left := [0] }
    let base : Gfx :=
      { st := .run, space := { ctx := 1, asid := 1, root := 0x10000 }, owned := [0]
        desc := { nseq := 1, vb := 0x100000, stats := 0x200, astate := 0x600 }, wmark := [(0, 1), (1, 1)] }
    let q : GPacket := { p with verts := [(0, 0, 0, 0, 0), (0x40800000, 0, 0, 0, 0), (0, 0x40800000, 0, 0, 0)], tris := [([0, 1, 2], false)] }
    let none_ := { base with owned := [] }
    let u := { (shared [3] []).modDie 2 fun x => { x with gfx := base } with packets := [p] }
    let w := (shared [3] []).modDie 2 fun x => { x with gfx := none_ }
    let x := (s.modDie 0 fun d => { d with gfx := { st := .run, desc := { nseq := 1 } } })
    (1 : BitVec 64).getLsbD 0 = true ∧ (s.die 2).gfx.st ≠ .run ∧ s.kindOf 2 = .shading ∧ s.kindOf 0 = .geometry
    ∧ (parseFrame (s.viewBytes 2 0 128)).ok = false ∧ (x.die 0).gfx.st = .run ∧ (x.die 0).gfx.key = (x.die 2).gfx.key
    ∧ (u.die 2).gfx = base ∧ (∀ y ∈ [(p, none), (q, some 0x100000)], let v := { u with packets := [y.1] }
      let z := v.unmapped 2 base.space ((base.desc.firstEntry y.1 0).toList.map fun va => (va, 16))
      let z' := z.2.unmapped 2 base.space (base.desc.counters y.1)
      v.nextPacket 2 0 = some y.1 ∧ y.1.left.all (· == 0) = true ∧ v.canFlush 2 = true ∧ base.desc.firstEntry y.1 0 = y.2 ∧ z.1 = none ∧ z'.1 = none
      ∧ isOk (z'.2.translateRange 2 base.space (fun _ => true) 0x100000 16).1 = true)
    ∧ (w.die 2).gfx.walked = false ∧ (w.die 2).gfx.stopped = [] ∧ none_.owned.all (w.regionDone 2) = true ∧ w.canFlush 2 = true
    ∧ isOk (w.atlasWalk 2 none_ none_.owned).1 = true := by
  decide +kernel

/-! ### QP -/

/-- Die 2 with some queues, its queue table at 0x80000 and its contexts at 0x90000, of which context 1 is usable; descriptor 5 has EN; the reference count. -/
def queueing (q : Tab Queue) (ref : Nat := 0) (s : State := State.reset) : State :=
  { s.modDie 2 fun x => { x with queues := q, qtbase := 0x80000, ctxbase := 0x90000, tlOwner := [(0, 0x8001)], segfree := 0 } with
    mem := placed 0x802A0 [8] ++ placed 0x90020 (leBytes 0x10000 8 ++ [1, 0, 1]), ref := ref }

/-- A descriptor to take up, one taken up, one to give up, a host-fed queue, and at 1,000,000 reference counts a queue with work and no slot. -/
theorem witness_QueueSteps : let s := queueing [(6, { en := true }), (7, { en := true, hostq := true, tail := 3 })]
    let on := queueing [(5, { en := true })]
    let u := queueing [(6, { en := true, tail := 1 })] 1000000
    s.descEnabled 2 5 = true ∧ (s.queue 2 5).en = false ∧ (s.die 2).slotsInUse.length < 64 ∧ on.descEnabled 2 5 = true ∧ (on.queue 2 5).en = true
    ∧ (on.queue 2 5).cleared = false ∧ s.descEnabled 2 6 = false ∧ (s.queue 2 6).en = true ∧ (s.queue 2 7).en = true ∧ (s.queue 2 7).hostq = true ∧ s.watches = []
    ∧ (s.die 2).pend = [] ∧ s.queueDesc 2 7 + 8 ≤ 2 ^ 51 ∧ (u.die 2).lastTick + 2000 ≤ u.ref ∧ (u.remapOrder 2).take (u.freeSlots 2) = [6]
    ∧ (u.queue 2 6).mapped = none ∧ u.hasWork 2 6 = true ∧ (u.queue 2 6).level < 7 ∧ (u.queue 2 6).agedAt + 1000000 ≤ u.ref
    ∧ (u.queue 2 6).unmappedAt + 1000000 ≤ u.ref ∧ ((u.die 2).queues.find 6).isSome = true := by decide +kernel

/-- A launch of queue 5 of die 2 with one team of one wave of an object that slot 0 of core 257 holds. -/
def launched (l : Launch) : State :=
  { queueing [(5, { en := true, ctx := 1, mapped := some 0, tail := 1, headSeg := 0xA0000, cplEn := true })] with
    launches := [(50, l)], cores := [(257, { slot0 := { st := .resident, obj := 512 } })] }

def theLaunch : Launch := { die := 2, queue := 5, rcd := { teams := 1 }, roles := [{ kernel := { obj := 512 } }], space := { ctx := 1 }, idem := true }

/-- A record of zeros, taken; the launch admitted, done, ended and completing. -/
theorem witness_LaunchSteps : let s := { launched theLaunch with launches := [] }
    let u := launched theLaunch
    let run := { launched { theLaunch with phase := .running, doneAt := some 0 } with waves := [(4096, { launch := 50, pmask := 1, threads := [{}] })] }
    let fin := launched { theLaunch with phase := .ended }
    let cpl := launched { theLaunch with phase := .completing }
    (let r := s.seeTail 2 5
     (r.queue 2 5).en = true ∧ (r.queue 2 5).mapped.isSome = true ∧ (r.context 2 (r.queue 2 5).ctx).2 = true ∧ r.admitting 2 (r.queue 2 5).slot = none
      ∧ (match r.offeredRecord 2 5 with
        | (some (pos, slot), z) => pos == 0 && !(parseTask (z.viewBytes 2 slot 128)).tsb && !(parseTask ((z.passRecord 2 5).viewBytes 2 slot 128)).fieldsOk
        | (none, _) => false) = true)
    ∧ u.admitting 2 (u.launch 50).slot = some 50 ∧ u.ownFirst (u.launch 50) = false
    ∧ u.betterFits 2 (u.offerRank 50 (u.launch 50).slot) = false
    ∧ (match u.admitAt 50 [⟨[⟨257, 0, 16⟩], []⟩] with
      | some z => (z.loadEntries (z.launch 50) (((u.launch 50).nextRoles.zip [⟨[⟨257, 0, 16⟩], []⟩]).flatMap fun x =>
          ((placeCores x.1.1 x.2).getD []).map fun c => (x.1.1.kernel, c))).isSome
      | none => false) = true
    ∧ (run.launch 50).phase = .running ∧ (run.launch 50).doneAt.isSome = true ∧ (fin.launch 50).phase = .ended ∧ (fin.launches.find 50).isSome = true
    ∧ fin.copiesOf 50 = false ∧ fin.outsOf 50 = false ∧ fin.canFlush 2 = true ∧ fin.watches = [] ∧ (cpl.launch 50).phase = .completing
    ∧ (cpl.launch 50).rcd.join = 0 ∧ cpl.ringHasRoom 2 5 = true
    ∧ (cpl.queue 2 5).cplTail + 1 < 2 ^ 64 ∧ cpl.ownsTimeline 2 (cpl.queue 2 5).cplTl (cpl.launch 50).space.ctx = true := by decide +kernel

/-- A running launch of queue 5 that PREEMPT asks for, inside a masked region and outside any; and one whose region lasts too long. -/
theorem witness_LaunchSteps_discards : let l := { theLaunch with phase := .running }
    let at_ (m : Nat) := { launched l with waves := [(4096, { launch := 50, pmask := m, threads := [{}] })] }
    let asked := { at_ 1 with launches := [(50, { l with request := some 0 })], ref := 100001 }
    (0x80000005 : BitVec 64).getLsbD 31 = true ∧ (0x80000005 : BitVec 64).toNat % 4096 = 5 ∧ l.idem = true ∧ l.rcd.iso = false ∧ l.queue = 5 ∧ l.die = 2
    ∧ (at_ 1).launches = [(50, l)] ∧ (at_ 1).insideRegion 50 = true ∧ (at_ 0).insideRegion 50 = false ∧ (at_ 0).launches = [(50, l)] ∧ (at_ 0).structs = []
    ∧ (asked.launch 50).request = some 0 ∧ (asked.launch 50).timedOut = false ∧ (asked.queue 2 5).pmaskMax = 0
    ∧ 0 + 100 * 1000 < asked.ref ∧ asked.waves.find 4096 = some { launch := 50, pmask := 1, threads := [{}] } := by decide +kernel

/-- A wave that may park; its continuation; an ISO gang of level 3 that has not fitted for 50 µs beside a launch of level 0; and a held record before its tick,
and at one, whose queue takes it or is not enabled. -/
theorem witness_LaunchSteps_parking : let b := shared [0] [] fun w => { w with wait := some (.timeline 9 5), park := some 0 }
    let s := { b.modLaunch b.me.launch fun l => { l with rcd := { l.rcd with frame := 0x100000 } } with clock := 10 }
    let p : Parked := { launch := b.me.launch, team := b.me.team, wid := 0, die := 2, homeCore := 256, frameVa := 0x100000, wait := .timeline 9 5
                        wave := { launch := b.me.launch }, ready := true }
    let c := { b.modQueue 2 b.myLaunch.queue fun q => { q with en := true, mapped := some 0 } with parked := [(70, p)] }
    let iso : Launch := { theLaunch with queue := 6, rcd := { flags := 20, isores := 255 } }
    let x := { queueing [(5, {}), (6, { en := true, mapped := some 0, prio := 3 })] 5000 with
      launches := [(50, { theLaunch with phase := .running, teamsIn := 1 }), (51, iso)], waves := [(4096, { launch := 50, pmask := 1 })] }
    let h := { queueing [(5, { en := true })] with heldRecs := [{ die := 2, queue := 5, bytes := zeros 128, spring := some 4 }] }
    let h2 := { h with ref := 2000, springs := [(4, {})] }
    let full := h2.modQueue 2 5 fun q => { q with en := false }
    (s.waves.find 4096).isSome = true ∧ s.mayPark 4096 = true ∧ s.me.wait = some (.timeline 9 5)
    ∧ isOk (s.translateRange 2 s.me.space (fun e => writable s.me.priv e && notControl e && pteFmt e == 0) ((s.launch s.me.launch).areaOf s.me) 5376).1 = true
    ∧ c.parked.find 70 = some p ∧ p.ready = true ∧ (c.queue p.die (c.launch p.launch).queue).mapped.isSome = true ∧ (c.contCores p).contains 256 = true
    ∧ c.roomFor ⟨256, 1, 16⟩ p.wave.width p.wave.budget = true
    ∧ c.betterFits p.die (c.offerRank p.launch (c.queue p.die (c.launch p.launch).queue).slot) = false
    ∧ x.starving 2 3 = true ∧ x.selectable 2 3 = [50] ∧ x.insideRegion 50 = true
    ∧ h.heldRecs = [{ die := 2, queue := 5, bytes := zeros 128, spring := some 4 }] ∧ (h.die 2).lastTick + 2000 > h.ref ∧ (h2.die 2).lastTick + 2000 ≤ h2.ref
    ∧ (((h2.modDie 2 fun x => { x with lastTick := h2.ref }).remap 2).enqueue 2 5 (zeros 128)).1.isSome = true
    ∧ (h2.springs.find 4).isSome = true
    ∧ (((full.modDie 2 fun x => { x with lastTick := full.ref }).remap 2).enqueue 2 5 (zeros 128)).1 = none := by decide +kernel

/-- R258, R259: HEAD passes the record that is taken, and a record of zeros fails the checks of R261 with CAUSE bit 0. -/
theorem test_recordTake : after (execRecordTake 2 5 { launched theLaunch with launches := [] })
    (fun t => ((t.queue 2 5).head, t.launches.map fun l => (l.2.phase, l.2.status, l.2.causeAcc))) = some (1, [(.ended, 1, 1)]) := by decide +kernel

/-! ### The module and its links -/

/-- Banks that hold nothing and banks that hold a byte, a RATE of 100 of cluster 0 of die 2, figures of both earlier ranks lowered, and readings of sensor 2
at 100 and at 12,001 hundredths. -/
theorem witness_PowerSteps : let s := { State.reset with weir := { State.reset.weir with rate := [(32, 100)] } }
    let cut := { s with weir := { s.weir with capped := [.rate 2 0 200, .bytes 2 0 200] } }
    let full : Weir := { s.weir with bankA := [(0, 1)], bankB := [(0, 1)] }
    s.weir.bootBank true = some true ∧ s.weir.bootBank false = none ∧ full.bankA ≠ [] ∧ full.bankB ≠ []
    ∧ cut.turnPast 1 = true ∧ cut.turnPast 2 = true ∧ 2175 < cut.weir.tgt ∧ cut.weir.switchAt = none ∧ (900 : Nat) ≤ 2175 ∧
    mixOk s.weir.dmt = true ∧ s.kindOf 2 ≠ .absent ∧ s.weir.powered = true ∧ (1800 : Nat) < 1801 ∧ s.weir.capped = [] ∧ 48 < s.rate (16 * 2 + 0)
    ∧ s.isoShares (16 * 2 + 0) = [] ∧ 2175 < s.weir.tgt ∧ 2175 % 75 = 0 ∧ s.weir.switchAt = none
    ∧ (s.sensor (sensorKey 32 2)).failed = false ∧ (s.sensor (sensorKey 32 2)).raw ≠ 7 ∧ (12000 : Int) < 12001 := by decide +kernel
/-- An armed snapshot, a trigger that is due, and each command of the mailbox; MB STAGE of 4,096, of 4,097 and of 0 bytes. -/
theorem witness_ManagementSteps : let s := State.reset
    let run (c : Nat) (a : Word64) := { s with weir := { s.weir with mbRun := some (c, a) } }
    let due := { s with weir := { s.weir with trigger := some (0, 1) } }
    let snap (c : Nat) := { (run c 0) with weir := { (run c 0).weir with arm := true, heldSnap := true, image := [1, 2, 3] } }
    s.weir.trigger = none ∧ (0x10001 : BitVec 64).getLsbD 0 = true ∧ (0x10001 : BitVec 64).getLsbD 16 = true ∧ (0x105 : BitVec 64).getLsbD 16 = false
    ∧ due.weir.trigger = some (0, 1) ∧ 0 ≤ due.clock ∧ (∀ c ∈ [1, 3, 4, 6], (run c 0).weir.mbRun = some (c, 0)) ∧ (snap 5).weir.mbRun = some (5, 0)
    ∧ (snap 5).weir.heldSnap = true ∧ (run 2 0x100000000000).weir.mbRun = some (2, 0x100000000000)
    ∧ (0x100000000000 : Word64).toNat / 2 ^ 32 % 2 ^ 16 = 4096 ∧ (0x100100000000 : Word64).toNat / 2 ^ 32 % 2 ^ 16 = 4097 ∧ (0 : Word64).toNat / 2 ^ 32 % 2 ^ 16 = 0
    ∧ ((0x105 : BitVec 64).extractLsb' 8 8) = 1 := by decide +kernel
/-- A flit of 256 bytes with its CRC. -/
def flitBody (seq ack : Nat) (kind : Byte) (payload : List Byte) : List Byte := leBytes seq 2 ++ leBytes ack 2 ++ [kind] ++ zeros 3 ++ payload
def flit (seq ack : Nat) (kind : Byte) (payload : List Byte := zeros 240) : List Byte :=
  flitBody seq ack kind payload ++ leBytes (crc64 (flitBody seq ack kind payload)).toNat 8

theorem flit_crcOk (seq ack : Nat) (kind : Byte) {payload : List Byte} (h : payload.length = 240) : flitCrcOk (flit seq ack kind payload) = true := by
  have hb : (flitBody seq ack kind payload).length = 0xF8 := by simp [flitBody, zeros, h]
  have hn := (crc64 (flitBody seq ack kind payload)).isLt
  simp [flitCrcOk, flit, field, slice, ← hb, List.take_of_length_le, leNat_leBytes, Nat.mod_eq_of_lt hn]

/-- Bytes of zeros have the CRC 0, which other last bytes do not show. -/
theorem zeros_crcBad : flitCrcOk (zeros 255 ++ [1]) = false := by
  have h : ∀ n, (List.replicate n (0 : Byte)).foldl crcByte 0 = 0 := fun n => by
    induction n with
    | zero => rfl
    | succ n ih => exact ih
  rw [flitCrcOk, show (zeros 255 ++ [1] : List Byte).take 0xF8 = List.replicate 0xF8 0 from by decide +kernel, crc64, h]
  decide

/-- A module of a group that drives the host's link: a port that is up, with flit 7 named once, one that trains for the third time, and one with 16 failures in
a row; accesses whose wave has gone, for a unit, and to the host; a store of a thread to device 0; and a latent error. -/
def linked : State :=
  let o : OutAccess := { die := 2, uid := 99, addr := 2 ^ 51, size := 4 }
  let port := { st := 2, failing := some 7, kept := [(7, [])] }
  let s := { State.reset with
    weir := { State.reset.weir with grpcfg := 3, ports := [(0, port), (1, { st := 1, attempts := 2 }), (2, { st := 2, streak := 16 })] }
    waves := [(4096, { uid := 98 })], outs := [(5, o), (6, { o with uid := 98, wave := 4096, to_ := .unit })], ref := 10000000, latent := [.tarnWord 256 0] }
  s.modDie 2 fun x => { x with pend := [{ agent := 200, pa := 2 ^ 60, data := [1], out := some { va := 0x40, asid := 1 } }] }

theorem witness_LinkAndHostSteps_flits : let s := linked
    (s.port 0).st = 2 ∧ (s.port 0).expect = 0 ∧ (s.port 0).failing = some 7 ∧ s.groupEn = true ∧ s.devNo = 0 ∧ s.watches = [] ∧ s.rgnOwner = []
    ∧ [flit 0 7 2, flit 0 0 3, flit 4 0 1, flit 0 0 1].map (fun f => (flitKind f, (flitSeq f).toNat, f.length)) = [(2, 0, 256), (3, 0, 256), (1, 4, 256), (1, 0, 256)] ∧ flitAck (flit 0 7 2) = 7
    ∧ (s.port 1).enable = true ∧ (s.port 1).st ≤ 1 ∧ (s.port 1).attempts = 2 ∧ (s.port 3).st ≤ 1 ∧ (s.port 3).attempts ≠ 2 ∧ 16 ≤ (s.port 2).streak := by
  decide +kernel

/-- A data flit that one write fills, wherever its header is one of those that the model leaves free. -/
theorem witness_LinkAndHostSteps_data (h : Config.packetHead (List.replicate 16 1) = some { kind := 0, pa := 0x100, count := 224, len := 224 }) :
    let f := flit 0 0 0 (List.replicate 240 1)
    flitKind f = 0 ∧ flitSeq f = (linked.port 0).expect ∧ 0x100 + 0 + 224 ≤ linked.deviceBytes
    ∧ unpack 512 ((linked.port 0).rx ++ slice f 8 240) = ([.write linked.devNo 0x100 0 224 (List.replicate 224 1)], []) := by
  have hf : (linked.port 0).rx ++ slice (flit 0 0 0 (List.replicate 240 1)) 8 240 = List.replicate 240 1 := by decide +kernel
  have hd : headData { kind := 0, pa := 0x100, count := 224, len := 224 } = some 224 := by decide
  refine ⟨by decide +kernel, by decide +kernel, by decide +kernel, ?_⟩
  rw [hf, show (512 : Nat) = 510 + 1 + 1 from rfl, unpack, show (List.replicate 240 (1 : Byte)).take 16 = List.replicate 16 1 from by decide, h]
  simp only [Option.bind_some, hd, Option.map_some]
  decide +kernel

theorem witness_LinkAndHostSteps : let s := linked
    let late (n : Nat) : Option (Bool × OutFor × Bool) := (s.outs.find n).map fun o => (s.lateAccess n o, o.to_, (s.wave o.wave).uid == o.uid)
    let fresh := { s with ref := 0 }
    let host := { s with outs := [(5, { die := 2, uid := 99, addr := 2 ^ 51, size := 4 })] }
    late 5 = some (true, .threads, false) ∧ late 6 = some (true, .unit, true) ∧ ((fresh.outs.find 5).map fun o => fresh.overdue o.since) = some false
    ∧ ((s.die 2).pend[0]?.map fun e => (decide (64 < e.agent), e.out.map fun o => s.overdue o.since)) = some (true, some true)
    ∧ ((fresh.die 2).pend[0]?.map fun e => e.out.map fun o => fresh.overdue o.since) = some (some false)
    ∧ 0x100 + 4 ≤ s.deviceBytes ∧ s.watches = [] ∧ s.rgnOwner = [] ∧ s.bridges = true ∧ { s with weir := { s.weir with grpcfg := 1 } }.bridges = false
    ∧ (∀ o ∈ host.outs.find 5, host.inHost o.addr o.size = true ∧ host.isBehind 5 = false ∧ o.op = .load ∧ o.to_ = .threads)
    ∧ s.kindOf 2 = .shading ∧ s.regionOf (2 ^ 40 + 2 * 2 ^ 24) = .control ∧ s.latent.contains (.tarnWord 256 0) = true
    ∧ s.latent.contains (.tarnWord 256 4) = false ∧ s.regionOf 0x100 = .device := by decide +kernel

theorem witness_MemoryStaysCanonical : let s := fetched (leBytes 0x05050601 4)
    Memory.wf s.mem = true ∧ (match step s with | .next _ => true | .fault _ | .refused _ => false) = true := by decide +kernel

/-- A table whose every element meets a condition meets it at every key. -/
theorem get_all {α : Type} {P : α → Prop} {dflt : α} (h0 : P dflt) : ∀ {t : Tab α}, (∀ x ∈ t, P x.2) → ∀ k, P (t.get dflt k)
  | [], _, _ => h0
  | (i, a) :: t, h, k => by
    unfold Tab.get Tab.find
    split
    · exact h (i, a) (by simp)
    · exact get_all h0 (fun x hx => h x (by simp [hx])) k

theorem witness_KeysStayDistinct : let s := fetched (leBytes 0x05050601 4)
    s.keysRise ∧ (match step s with | .next _ => true | .fault _ | .refused _ => false) = true :=
  ⟨⟨by decide +kernel, get_all (P := fun x : CoreSt => rising (x.tags.map Prod.fst) = true) rfl (by decide +kernel),
    get_all (P := fun x : Cluster => rising (x.gates.map Prod.fst) = true) rfl (by decide +kernel)⟩, by decide +kernel⟩

/-- R391: CMP.CLEAR leaves mode 1 in the metadata of each tile of its range and of no other. -/
theorem test_cmpClear : after (exec (.cmpClear 20) (surfaced [(20, 0x4010000), (22, 512)])) (fun t => [0, 1, 2].map fun k => t.homeByte (0x5000000 + k))
    = some [1, 1, 0] := by decide +kernel
/-- R398, R399: a sample over 1,800 W raises the power condition; the comparator's cut names its die. -/
theorem test_thermalCut : after (execThermalCut 3 State.reset) (fun t => (t.weir.powered, t.weir.reason.toNat / 256 % 16, t.weir.reason.getLsbD 1)) = some (false, 3, true) := by
  decide +kernel
/-- The standard's own example of SM3: the hash of "abc" (R404). -/
theorem test_sm3 : Sm3.hash [0x61, 0x62, 0x63] = [0x66, 0xc7, 0xf0, 0xf4, 0x62, 0xee, 0xed, 0xd9, 0xd1, 0xf2, 0xd4, 0x6b, 0xdc, 0x10, 0xe4, 0xe2,
    0x41, 0x67, 0xc4, 0x87, 0x5c, 0xf2, 0xf7, 0xa2, 0x29, 0x7d, 0xa0, 0x2b, 0x8f, 0x4b, 0xa8, 0xe0] := by decide +kernel
/-- R424: a flit whose CRC fails is asked for again. -/
theorem test_crcFailure : after (execFlitReceive 0 (zeros 255 ++ [1]) (State.reset.modPort 0 fun q => { q with st := 2, expect := 9 }))
    (fun t => ((t.port 0).crcErr, (t.port 0).nakOut)) = some (1, [9]) := by
  rw [execFlitReceive, zeros_crcBad]
  decide +kernel
/-- The catalogue's check value of CRC-64 with the ECMA-182 polynomial: the CRC of "123456789" (R424). -/
theorem test_crc64 : crc64 [0x31, 0x32, 0x33, 0x34, 0x35, 0x36, 0x37, 0x38, 0x39] = 0x6C40DF5F0B497347 := by
  simp [crc64, crcByte, crcStep]

end Sys2Proof.Tests
end

section
/-! SUPPORT. BFX and BFI bit by bit (R83). -/

namespace Sys2Proof

/-! ### Bits of a number's fields -/

theorem bit_eq_testBit (n k : Nat) : bit n k = n.testBit k := by
  rw [bit, Nat.testBit_eq_decide_div_mod_eq, Nat.shiftRight_eq_div_pow]
  rfl

theorem testBit_fld (n lo len k : Nat) : (fld n lo len).testBit k = (decide (k < len) && n.testBit (lo + k)) := by
  rw [fld, Nat.testBit_mod_two_pow, Nat.testBit_shiftRight]

/-- Reading the low bits of a number as a signed number is reading them as a bit vector of that width. -/
theorem toSigned_eq_toInt {v n : Nat} (hn : 0 < n) (hv : v < 2 ^ n) : toSigned v n = (BitVec.ofNat n v).toInt := by
  obtain ⟨n, rfl⟩ := Nat.exists_eq_add_of_lt hn
  have hp : 2 ^ (0 + n + 1) = 2 * 2 ^ (0 + n + 1 - 1) := by rw [Nat.add_sub_cancel, pow_succ']
  rw [toSigned, BitVec.toInt_eq_toNat_cond, BitVec.toNat_ofNat, Nat.mod_eq_of_lt hv]
  exact if_congr (by omega) rfl rfl

/-- Bits past the width of a signed number repeat its sign bit. -/
theorem getLsbD_ofInt_toSigned {v n k : Nat} (hn : 0 < n) (hv : v < 2 ^ n) (hk : k < 32) :
    (BitVec.ofInt 32 (toSigned v n)).getLsbD k = if k < n then v.testBit k else v.testBit (n - 1) := by
  rw [toSigned_eq_toInt hn hv, ← BitVec.signExtend, BitVec.getLsbD_signExtend, BitVec.msb_eq_getLsbD_last, BitVec.getLsbD_ofNat,
    BitVec.getLsbD_ofNat]
  simp only [hk, decide_true, Bool.true_and]
  exact ite_congr rfl (fun h => by simp [h]) fun _ => by simp [hn]

theorem getLsbD_word {n k : Nat} (hk : k < 32) : (word n).getLsbD k = n.testBit k := by
  rw [word, BitVec.getLsbD_ofNat, decide_eq_true hk, Bool.true_and]

namespace Machine

/-- A latch-pushing destination among the operands of a unit that passes is a V, O or W register or NWB (R14, R17, R45). -/
theorem State.dOk_of_passes {s : State} {i : Instr} {d : Code} (h : s.passes i = true) (hd : .d d ∈ i.operands) : dOk d = true := by
  simp only [State.passes, unitOk, Instr.wellFormed, Bool.and_eq_true, List.all_eq_true] at h
  obtain ⟨⟨⟨-, ⟨⟨hw, -⟩, -⟩⟩, -⟩, -⟩ := h
  exact hw _ hd

/-! ### The field selector -/

theorem fieldPos_eq (b : Word) : fieldPos b = b.toNat % 32 := rfl

/-- Lengths past 32 need no case of their own: n is at most 32 − POS. -/
theorem fieldLen_eq (b : Word) : fieldLen b = min (b.toNat / 2 ^ 8 % 64) (32 - b.toNat % 32) := by
  rw [fieldLen, fieldPos_eq, fld, Nat.shiftRight_eq_div_pow]
  omega

/-! ### The results -/

theorem testBit_fld_field (a b : Word) (k : Nat) :
    (fld a.toNat (fieldPos b) (fieldLen b)).testBit k = (decide (k < fieldLen b) && a.getLsbD (fieldPos b + k)) :=
  testBit_fld ..

theorem testBit_fld_last (a : Word) {b : Word} (hn : 0 < fieldLen b) :
    (fld a.toNat (fieldPos b) (fieldLen b)).testBit (fieldLen b - 1) = a.getLsbD (fieldPos b + fieldLen b - 1) := by
  rw [testBit_fld_field, ← Nat.add_sub_assoc hn, decide_eq_true (Nat.sub_lt hn Nat.one_pos), Bool.true_and]

/-- A field that is not empty is sign-extended where SX and its last bit are 1, and zero-extended else. -/
theorem bfx_of_pos (a : Word) {b : Word} (hn : 0 < fieldLen b) :
    bfx a b = if b.getLsbD 15 && a.getLsbD (fieldPos b + fieldLen b - 1)
      then BitVec.ofInt 32 (toSigned (fld a.toNat (fieldPos b) (fieldLen b)) (fieldLen b))
      else word (fld a.toNat (fieldPos b) (fieldLen b)) := by
  simp only [bfx, bit_eq_testBit, testBit_fld_last a hn, BitVec.testBit_toNat, bne_iff_ne.mpr hn.ne', Bool.and_true]

theorem getLsbD_bfx (a b : Word) {k : Nat} (hk : k < 32) :
    (bfx a b).getLsbD k = if k < fieldLen b then a.getLsbD (fieldPos b + k)
      else decide (1 ≤ fieldLen b) && b.getLsbD 15 && a.getLsbD (fieldPos b + fieldLen b - 1) := by
  rcases Nat.eq_zero_or_pos (fieldLen b) with hn | hn
  · have hempty : (fld a.toNat (fieldPos b) 0).testBit k = false := testBit_fld ..
    simp [bfx, getLsbD_word hk, hn, hempty]
  · rw [bfx_of_pos a hn, decide_eq_true (Nat.succ_le_of_lt hn), Bool.true_and]
    split
    case isTrue hs =>
      have hlt : fld a.toNat (fieldPos b) (fieldLen b) < 2 ^ fieldLen b := Nat.mod_lt _ (Nat.two_pow_pos _)
      rw [getLsbD_ofInt_toSigned hn hlt hk, testBit_fld_field, testBit_fld_last a hn, hs, (Bool.and_eq_true_iff.mp hs).2]
      exact ite_congr rfl (fun h => by simp [h]) fun _ => rfl
    case isFalse hs =>
      rw [getLsbD_word hk, testBit_fld_field, Bool.eq_false_of_not_eq_true hs]
      split <;> simp [*]

theorem getLsbD_bfi (a b : Word) {k : Nat} (hk : k < 32) :
    (bfi a b).getLsbD k = (decide (fieldPos b ≤ k ∧ k < fieldPos b + fieldLen b) && a.getLsbD (k - fieldPos b)) := by
  rw [bfi, getLsbD_word hk, Nat.testBit_shiftLeft, testBit_fld, Nat.zero_add, BitVec.testBit_toNat, ← Bool.and_assoc, ← Bool.decide_and]
  congr 2
  simp only [ge_iff_le, eq_iff_iff]
  omega

end Machine

/-- Settles O11: a lane instruction leaves its word function's value (laneOp_result), and the bits of that value are those of R83. -/
theorem bitFields : Obligations.BitFields := by
  unfold Obligations.BitFields
  refine fun s d a b => ⟨fun h => ?_, fun h => ?_⟩
  · refine ⟨_, _, rfl, Machine.laneOp_result h d (Machine.State.dOk_of_passes h List.mem_cons_self) _, fun p k hk => ?_⟩
    simp only [Machine.getLsbD_bfx _ _ hk, Machine.fieldPos_eq, Machine.fieldLen_eq]
  · refine ⟨_, _, rfl, Machine.laneOp_result h d (Machine.State.dOk_of_passes h List.mem_cons_self) _, fun p k hk => ?_⟩
    simp only [Machine.getLsbD_bfi _ _ hk, Machine.fieldPos_eq, Machine.fieldLen_eq]

end Sys2Proof
end

section
/-! SUPPORT. The special inputs and the ranges of the special functions (R100). -/

namespace Sys2Proof

/-! ### The values that FP32 bits hold (R55) -/

theorem fp32_dec_subnormal {a : Nat} (h : a % 2 ^ 31 < 2 ^ 23) : fp32.dec a = .fin (bit a 31) (a % 2 ^ 31) (-149) := by
  have hle : a % 2 ^ 31 ≤ 0x7F7FFFFF := by omega
  have hexp : a % 2 ^ 31 / 2 ^ 23 = 0 := Nat.div_eq_of_lt h
  simp only [Fmt.dec, fp32, Nat.add_one_sub_one, hle, if_true, Nat.shiftRight_eq_div_pow, hexp, Nat.mod_eq_of_lt h]
  rfl

theorem fp32_dec_normal {a : Nat} (hlo : 2 ^ 23 ≤ a % 2 ^ 31) (hhi : a % 2 ^ 31 < 0x7F800000) :
    fp32.dec a = .fin (bit a 31) (a % 2 ^ 31 % 2 ^ 23 + 2 ^ 23) ((a % 2 ^ 31 / 2 ^ 23 : Nat) - 150) := by
  have hle : a % 2 ^ 31 ≤ 0x7F7FFFFF := by omega
  have hexp : a % 2 ^ 31 / 2 ^ 23 ≠ 0 := (Nat.div_pos hlo (by decide)).ne'
  simp only [Fmt.dec, fp32, Nat.reduceSub, hle, if_true, Nat.shiftRight_eq_div_pow, hexp, if_false]
  congr 1
  omega

theorem fp32_dec_infinity {a : Nat} (h : a % 2 ^ 31 = 0x7F800000) : fp32.dec a = .inf (bit a 31) := by
  simp only [Fmt.dec, fp32, Nat.reduceSub, h]
  rfl

theorem fp32_dec_nan {a : Nat} (h : 0x7F800000 < a % 2 ^ 31) : fp32.dec a = .nan := by
  have hle : ¬ a % 2 ^ 31 ≤ 0x7F7FFFFF := by omega
  have hinf : ¬ some 0x7F800000 = some (a % 2 ^ 31) := fun e => by injection e; omega
  simp only [Fmt.dec, fp32, Nat.reduceSub, hle, hinf, if_false]

/-- A finite magnitude is decoded alike under both signs, and to 0 only from 0. -/
theorem fp32_dec_finite {x : Nat} (hx : x < 0x7F800000) :
    ∃ m e, (m = 0 ↔ x = 0) ∧ ∀ a, a % 2 ^ 31 = x → fp32.dec a = .fin (bit a 31) m e := by
  rcases Nat.lt_or_ge x (2 ^ 23) with h | h
  · exact ⟨x, -149, Iff.rfl, fun a ha => by subst ha; exact fp32_dec_subnormal h⟩
  · exact ⟨x % 2 ^ 23 + 2 ^ 23, (x / 2 ^ 23 : Nat) - 150, by omega, fun a ha => by subst ha; exact fp32_dec_normal h hx⟩

/-! ### Values within 1 of 0 -/

theorem natAbs_scaled (neg : Bool) (m : Nat) (e low : Int) : (scaled neg m e low).natAbs = m <<< (e - low).toNat := by
  cases neg
  · exact Int.natAbs_natCast _
  · exact (Int.natAbs_neg _).trans (Int.natAbs_natCast _)

theorem le_of_within_one {neg : Bool} {m : Nat} {e : Int} (h : within (.fin neg m e) (.zero false) 1 0 = true) : m ≤ 2 ^ (-e).toNat := by
  simp only [within, FVal.zero, decide_eq_true_eq] at h
  have hzero (low : Int) : scaled false 0 0 low = 0 := by simp [scaled]
  have hlow : (0 - min 0 (min e 0)).toNat = (-e).toNat := by omega
  rw [hzero, Int.sub_zero, natAbs_scaled, hlow, Nat.one_shiftLeft, Nat.shiftLeft_eq] at h
  exact (Nat.le_mul_of_pos_right m (Nat.two_pow_pos _)).trans h

/-- Bits whose value lies within 1 of 0 have no larger magnitude than those of 1.0. -/
theorem mod_le_of_within_one {a : Nat} (h : within (fp32.dec a) (.zero false) 1 0 = true) : a % 2 ^ 31 ≤ 0x3F800000 := by
  rcases Nat.lt_or_ge (a % 2 ^ 31) (2 ^ 23) with hlo | hlo
  · omega
  rcases Nat.lt_trichotomy (a % 2 ^ 31) 0x7F800000 with hhi | hinf | hnan
  · rw [fp32_dec_normal hlo hhi] at h
    have hm := le_of_within_one h
    by_cases hexp : a % 2 ^ 31 / 2 ^ 23 < 127
    · omega
    · have : 2 ^ (-(((a % 2 ^ 31 / 2 ^ 23 : Nat) : Int) - 150)).toNat ≤ 2 ^ 23 := Nat.pow_le_pow_right (by decide) (by omega)
      by_cases hone : a % 2 ^ 31 / 2 ^ 23 = 127
      · omega
      · have : 2 ^ (-(((a % 2 ^ 31 / 2 ^ 23 : Nat) : Int) - 150)).toNat ≤ 2 ^ 22 := Nat.pow_le_pow_right (by decide) (by omega)
        omega
  · rw [fp32_dec_infinity hinf] at h
    exact absurd h Bool.false_ne_true
  · rw [fp32_dec_nan hnan] at h
    exact absurd h Bool.false_ne_true

/-! ### Rounding of magnitudes up to 1 -/

/-- The bits of a magnitude before it rises: the exponent's part, and a significand below 2^24. -/
theorem fp32_split_lt (m : Nat) (e : Int) :
    (fp32.split m e).1 < (max ((Nat.log2 m : Int) + e) (-126) + 126).toNat * 2 ^ 23 + 2 ^ 24 := by
  have hm : m < 2 ^ (Nat.log2 m + 1) := Nat.lt_log2_self
  have hbase : (max ((Nat.log2 m : Int) + e) (1 - ((127 : Nat) : Int)) - ((23 : Nat) : Int) + ((23 : Nat) : Int) + ((127 : Nat) : Int) - 1).toNat
    = (max ((Nat.log2 m : Int) + e) (-126) + 126).toNat := by omega
  simp only [Fmt.split, fp32, Nat.shiftLeft_eq, Nat.shiftRight_eq_div_pow, hbase]
  split
  case isTrue h =>
    refine Nat.add_lt_add_left ?_ _
    calc m * _ < 2 ^ (Nat.log2 m + 1) * 2 ^ _ := Nat.mul_lt_mul_of_pos_right hm (Nat.two_pow_pos _)
      _ = 2 ^ (Nat.log2 m + 1 + _) := (Nat.pow_add ..).symm
      _ ≤ 2 ^ 24 := Nat.pow_le_pow_right (by decide) (by omega)
  case isFalse h =>
    refine Nat.add_lt_add_left (Nat.div_lt_of_lt_mul (hm.trans_le ?_)) _
    rw [← Nat.pow_add]
    exact Nat.pow_le_pow_right (by decide) (by omega)

/-- 1.0 is exact, whatever scale it is written in. -/
theorem fp32_split_one (k : Nat) : ∃ unit, fp32.split (2 ^ k) (-k) = (0x3F800000, 0, unit) := by
  have hulp : (max ((k : Int) + -k) (1 - ((127 : Nat) : Int)) - ((23 : Nat) : Int)) = -23 := by omega
  simp only [Fmt.split, fp32, Nat.log2_two_pow, hulp]
  split
  case isTrue h =>
    have hk : 2 ^ k <<< (-(k : Int) - -23).toNat = 2 ^ 23 := by
      rw [Nat.shiftLeft_eq, ← Nat.pow_add]
      congr 1
      omega
    exact ⟨1, by rw [hk]; rfl⟩
  case isFalse h =>
    obtain ⟨j, rfl⟩ : ∃ j, k = 23 + j := ⟨k - 23, by omega⟩
    refine ⟨2 ^ j, ?_⟩
    rw [show (-23 - -((23 + j : Nat) : Int)).toNat = j by omega, Nat.shiftRight_eq_div_pow, Nat.pow_add, Nat.mul_mod_left,
      Nat.mul_div_cancel _ (Nat.two_pow_pos _)]
    rfl

theorem fp32_roundMag_one (k : Nat) (rm : Rm) (neg : Bool) : fp32.roundMag rm neg (2 ^ k) (-k) = 0x3F800000 := by
  obtain ⟨unit, hsplit⟩ := fp32_split_one k
  have hup : rm.up neg false 0 unit = false := by cases rm <;> simp [Rm.up]
  simp [Fmt.roundMag, hsplit, hup]

theorem fp32_roundMag_le_one {m k : Nat} (h : m ≤ 2 ^ k) (rm : Rm) (neg : Bool) : fp32.roundMag rm neg m (-k) ≤ 0x3F800000 := by
  rcases h.eq_or_lt with rfl | hlt
  · exact (fp32_roundMag_one k rm neg).le
  · by_cases hm : m = 0
    · simp [Fmt.roundMag, hm]
    · have hlog : Nat.log2 m < k := (Nat.log2_lt hm).mpr hlt
      have hq := fp32_split_lt m (-k)
      simp only [Fmt.roundMag, hm, if_false]
      split <;> omega

/-! ### Quotients of magnitudes up to 1 -/

theorem quotient_eq (neg : Bool) {num den : Nat} (h : num ≤ den) (hd : 0 < den) :
    ∃ m k : Nat, m ≤ 2 ^ k ∧ quotient neg num den 0 = .fin neg m (-k) := by
  let sh := 80 + Nat.log2 den
  refine ⟨2 * ((num <<< sh) / den) + ofBool ((num <<< sh) % den != 0), sh + 1, ?_, ?_⟩
  · rcases h.eq_or_lt with rfl | hlt
    · simp [Nat.shiftLeft_eq, Nat.mul_div_cancel_left _ hd, ofBool, pow_succ']
    · have hq : (num <<< sh) / den < 2 ^ sh :=
        Nat.div_lt_of_lt_mul (by simpa only [Nat.shiftLeft_eq] using Nat.mul_lt_mul_of_pos_right hlt (Nat.two_pow_pos sh))
      have hs : ofBool ((num <<< sh) % den != 0) ≤ 1 := by unfold ofBool; split <;> decide
      rw [pow_succ']
      omega
  · simp only [quotient]
    congr 1
    omega

theorem round_quotient_le_one (neg : Bool) {num den : Nat} (h : num ≤ den) (hd : 0 < den) :
    ∃ q ≤ 0x3F800000, fp32.round .rne (quotient neg num den 0) = fp32.signed neg q := by
  obtain ⟨m, k, hm, hq⟩ := quotient_eq neg h hd
  have hr := fp32_roundMag_le_one hm .rne neg
  refine ⟨_, hr, ?_⟩
  rw [hq, Fmt.round, if_pos (hr.trans (by decide))]

/-! ### Signs -/

theorem bit_sign_of_lt {a : Nat} (h : a < 2 ^ 31) : bit a 31 = false := by
  rw [bit, Nat.shiftRight_eq_div_pow, Nat.div_eq_of_lt h]
  rfl

theorem bit_sign_add {a : Nat} (h : a < 2 ^ 31) : bit (0x80000000 + a) 31 = true := by
  rw [bit, Nat.shiftRight_eq_div_pow, show (0x80000000 + a) / 2 ^ 31 = 1 by omega]
  rfl

/-- Rounding to nearest does not look at the sign. -/
theorem fp32_round_rne_neg (m : Nat) (e : Int) :
    fp32.round .rne (.fin true m e) = 0x80000000 + fp32.round .rne (.fin false m e) := by
  have hmag : fp32.roundMag .rne true m e = fp32.roundMag .rne false m e := rfl
  simp only [Fmt.round, hmag]
  split <;> exact Nat.add_comm _ _

/-! ### Special inputs -/

theorem special_of_nan {a : Nat} (h : fp32.dec a = .nan) :
    rcp a = 0x7FC00000 ∧ rsq a = 0x7FC00000 ∧ sqrt32 a = 0x7FC00000 ∧ exp2 a = 0x7FC00000 ∧ log2 a = 0x7FC00000 ∧ sin a = 0x7FC00000
      ∧ cos a = 0x7FC00000 ∧ tanh a = 0x7FC00000 ∧ sigm a = 0x7FC00000 := by
  simp only [rcp, rsq, sqrt32, exp2, log2, sin, cos, tanh, sigm, h]
  decide

/-- RSQ, SQRT and LOG2 of a finite number below 0 are NaN, and RCP is odd. -/
theorem special_of_negative {a : Nat} (hpos : 0 < a) (hfin : a < 0x7F800000) :
    rcp (0x80000000 + a) = 0x80000000 + rcp a ∧ rsq (0x80000000 + a) = 0x7FC00000 ∧ sqrt32 (0x80000000 + a) = 0x7FC00000
      ∧ log2 (0x80000000 + a) = 0x7FC00000 := by
  obtain ⟨m, e, hzero, hdec⟩ := fp32_dec_finite hfin
  have hp : fp32.dec a = .fin false m e := by rw [hdec a (by omega), bit_sign_of_lt (by omega)]
  have hn : fp32.dec (0x80000000 + a) = .fin true m e := by rw [hdec _ (by omega), bit_sign_add (by omega)]
  obtain ⟨k, rfl⟩ : ∃ k, m = k + 1 := Nat.exists_eq_succ_of_ne_zero fun hm => hpos.ne' (hzero.mp hm)
  refine ⟨?_, by simp only [rsq, hn]; rfl, by simp only [sqrt32, hn]; rfl, by simp only [log2, hn]; rfl⟩
  simp only [rcp, hp, hn, quotient, fp32_round_rne_neg]

/-! ### Ranges of TANH and SIGM -/

/-- Bits of a value in [+0, 1] are no larger than those of 1.0. -/
theorem le_of_within_one_of_nonneg {a : Nat} (ha : a < 2 ^ 32) (hneg : (fp32.dec a).neg? = false)
    (h : within (fp32.dec a) (.zero false) 1 0 = true) : a ≤ 0x3F800000 := by
  have hmag := mod_le_of_within_one h
  obtain ⟨m, e, -, hdec⟩ := fp32_dec_finite (x := a % 2 ^ 31) (by omega)
  have hsign : bit a 31 = false := by rwa [hdec a rfl] at hneg
  by_contra hgt
  have hadd : a = 0x80000000 + a % 2 ^ 31 := by omega
  rw [hadd, bit_sign_add (Nat.mod_lt _ (by decide))] at hsign
  exact absurd hsign (by decide)

/-- A bounded result is a free value that the function permits, or the exact value rounded (R99). -/
theorem bounded_cases (fn a : Nat) (exact : FVal) (k : Nat) (g : Int) (ok : FVal → Bool) :
    (∃ c : Word, ok (fp32.dec c.toNat) = true ∧ bounded fn a exact k g ok = c.toNat) ∨ bounded fn a exact k g ok = fp32.round .rne exact := by
  unfold bounded
  dsimp only
  split
  case isTrue h => exact .inl ⟨_, (Bool.and_eq_true_iff.mp h).2, rfl⟩
  case isFalse => exact .inr rfl

theorem round_tanhValue_le (neg : Bool) (m : Nat) (e : Int) : fp32.round .rne (tanhValue neg m e) % 2 ^ 31 ≤ 0x3F800000 := by
  obtain ⟨q, hq, hr⟩ := round_quotient_le_one neg (num := 2 ^ 128 - expNeg m (e + 1)) (den := 2 ^ 128 + expNeg m (e + 1)) (by omega) (by omega)
  rw [tanhValue, hr]
  cases neg
  · exact (Nat.mod_le ..).trans hq
  · exact (Nat.add_mod_right q (2 ^ 31)).trans_le ((Nat.mod_le ..).trans hq)

theorem round_sigmValue_le (neg : Bool) (m : Nat) (e : Int) : fp32.round .rne (sigmValue neg m e) ≤ 0x3F800000 := by
  obtain ⟨num, hnum, hv⟩ : ∃ num ≤ 2 ^ 128 + expNeg m e, sigmValue neg m e = quotient false num (2 ^ 128 + expNeg m e) 0 := by
    cases neg
    · exact ⟨_, Nat.le_add_right .., rfl⟩
    · exact ⟨_, Nat.le_add_left .., rfl⟩
  obtain ⟨q, hq, hr⟩ := round_quotient_le_one false hnum (by omega)
  rw [hv, hr]
  exact hq

/-- TANH of a finite input other than 0 is that input, which is small, or a value within 1 of 0 (R99). -/
theorem tanh_le_of_finite {a m : Nat} {neg : Bool} {e : Int} (h : fp32.dec a = .fin neg (m + 1) e) : tanh a % 2 ^ 31 ≤ 0x3F800000 := by
  simp only [tanh, h]
  split
  case isTrue hsmall => omega
  case isFalse =>
    rcases bounded_cases 0x27 a (tanhValue neg (m + 1) e) 1 (-22) fun v => within v (.zero false) 1 0 with ⟨c, hok, hc⟩ | hc
    · rw [hc]
      exact mod_le_of_within_one hok
    · rw [hc]
      exact round_tanhValue_le ..

/-- SIGM of a finite input other than 0 lies within [+0, 1]. -/
theorem sigm_le_of_finite {a m : Nat} {neg : Bool} {e : Int} (h : fp32.dec a = .fin neg (m + 1) e) : sigm a ≤ 0x3F800000 := by
  simp only [sigm, h]
  rcases bounded_cases 0x28 a (sigmValue neg (m + 1) e) 1 (-22) fun v => !v.neg? && within v (.zero false) 1 0 with ⟨c, hok, hc⟩ | hc
  · simp only [Bool.and_eq_true, Bool.not_eq_true'] at hok
    rw [hc]
    exact le_of_within_one_of_nonneg c.isLt hok.1 hok.2
  · rw [hc]
    exact round_sigmValue_le ..

theorem tanh_sigm_le {a : Nat} (hmag : a % 2 ^ 31 ≤ 0x7F800000) : tanh a % 2 ^ 31 ≤ 0x3F800000 ∧ sigm a ≤ 0x3F800000 := by
  rcases hmag.lt_or_eq with hfin | hinf
  · obtain ⟨m, e, hzero, hdec⟩ := fp32_dec_finite hfin
    have hd := hdec a rfl
    cases m with
    | zero =>
      have : a % 2 ^ 31 = 0 := hzero.mp rfl
      simp only [tanh, sigm, hd]
      omega
    | succ m => exact ⟨tanh_le_of_finite hd, sigm_le_of_finite hd⟩
  · simp only [tanh, sigm, fp32_dec_infinity hinf]
    cases bit a 31 <;> decide

/-- Settles O14: the rows of zeros and infinities are evaluated; for the others the input's decoded value selects the function's branch, and a value
that TANH or SIGM may give is a permitted free value or the rounding of a quotient of at most 1. -/
theorem specialInputs : Obligations.SpecialInputs := by
  unfold Obligations.SpecialInputs
  refine ⟨by decide, by decide, by decide, by decide, fun a hpos hfin => special_of_negative hpos hfin, fun a _ hnan => ?_, fun a _ hmag => ?_⟩
  · exact special_of_nan (fp32_dec_nan hnan)
  · exact tanh_sigm_le hmag

end Sys2Proof
end
